-- ==== Sys2Proof/Word.lean ====
section
/-!
DEFINITION. Words of the GN16 and their plainest arithmetic (R5, R24, R42).
-/
namespace Sys2Proof

/-- One byte of memory or scratch (R5). -/
abbrev Byte := BitVec 8

/-- The content of one `v`, `g` or `t` register (R44, R51). -/
abbrev Reg := BitVec 64

/-- One stored NX word (R42). -/
abbrev Word := BitVec 128

/-- A lane number of a group (R119). -/
abbrev Lane := Nat

/-- The 32 lane numbers of a group, in rising order (R119). -/
def lanes32 : List Nat :=
  [0, 1, 2, 3, 4, 5, 6, 7, 8, 9, 10, 11, 12, 13, 14, 15,
   16, 17, 18, 19, 20, 21, 22, 23, 24, 25, 26, 27, 28, 29, 30, 31]

/-- A truth value as a number. -/
def bitOf (b : Bool) : Nat := if b then 1 else 0

/-- Field of `n` bits of `v` from bit `lo`. -/
def fieldOf (v lo n : Nat) : Nat := (v >>> lo) % 2 ^ n

end Sys2Proof
end

