-- ==== Sys2Proof/Syntax.lean ====
section
/-!
DEFINITION. The NX words as decoded (R42 to R54, R58) and the events of the machine (the rows of the opcode table
without an encoding). One inductive, `Instr`, with one constructor for each row of spec/opcode_table.json.
-/
namespace Sys2Proof

/-- The TYP codes of R46. -/
inductive Typ where
  | i8 | i16 | i32 | i64 | n8 | n16 | n32 | n64 | b8 | b16 | b32 | b64
  | f16 | bf16 | f32 | f64 | md8 | s16
  | i8x8 | i16x4 | i32x2 | n8x8 | n16x4 | n32x2 | f16x4 | bf16x4 | f32x2 | md8x8
  deriving DecidableEq, Repr

/-- The special registers of R74, one constructor for each listed index of bank 5. -/
inductive SReg where
  | lane | group | ngroup | tidx | tidy | tidz | teamx | teamy | teamz | gridx | gridy | gridz
  | role | teamh | core | die | pkg | ctx | clk | fflg | seed | lmask
  | emuop | emucls | emutyp | emumod | emudst | emusa | emusb | emusc | emuimm | emupc
  deriving DecidableEq, Repr

/-- An operand field (R44). The all-zeros field of an unused operand is `v 0`. -/
inductive Opd where
  | v (n : BitVec 18) | g (n : BitVec 18)
  | t (i : Fin 16) | p (i : Fin 8) | ls (i : Fin 8) | s (i : Fin 16) | b (i : Fin 16)
  | sr (r : SReg) | a (i : Fin 4) | f (i : Fin 8) | nx (i : Fin 20) | z
  | imm (x : BitVec 18)
  deriving DecidableEq, Repr

/-- The fields of a format-R word (R42, R43) beside its class and opcode. -/
structure RWord where
  dbg : Bool
  typ : Typ
  mod : BitVec 6
  grd : BitVec 4
  dst : Opd
  sa  : Opd
  sb  : Opd
  sc  : Opd
  aux : BitVec 18
  deriving DecidableEq, Repr

/-- The fields of a format-I word (R42, R43) beside its class and opcode. -/
structure IWord where
  dbg  : Bool
  typ  : Typ
  mod  : BitVec 6
  grd  : BitVec 4
  dst  : Opd
  sa   : Opd
  sb   : Opd
  imm  : BitVec 32
  aux6 : BitVec 6
  deriving DecidableEq, Repr

/-- The fields of a trailer word (R53) beside its kind. -/
structure TWord where
  dbg   : Bool
  await : BitVec 16
  grd   : BitVec 4
  conv  : Bool
  reg   : Opd
  tgt   : BitVec 32
  deriving DecidableEq, Repr

/-- Why a stored word is no well-formed instruction or trailer (R53, R54, R59). -/
inductive WordError where
  | reservedClass        -- class 0b110 (R42)
  | unassignedOpcode     -- an OPC not listed within its class (R58)
  | reservedType         -- a TYP reserved in general or for the instruction (R46)
  | reservedModifier     -- a MOD, space or AUX sub-code reserved in general or for the instruction (R47)
  | reservedOperand      -- a reserved KIND, bank or index (R44, R45)
  | reservedBits         -- a reserved bit, an unused operand field or an unassigned AUX bit is nonzero
  | malformedTrailer     -- a trailer that breaks R53 or R54
  deriving DecidableEq, Repr

/-- A register of the package with fields that have no behaviour of their own: REGISTER_WRITE writes those fields and no
other. -/
inductive RegId where
  | cxqCsel | cxqCkeys | cxqCtag | cxqCfring | cxqCswap | cxqCswlen
  | cxqQsel | cxqQring | cxqQwake | taQrec | taQid
  | cxqKimg | cxqKlen | cxqKdiag | cxqKpbuf | cxqQuant
  | pgFq | pgCthr | pgHotq
  | pgMsrc (quay : Fin 4) | pgMdst (quay : Fin 4) | pgMpte (quay : Fin 4)
  | lkSel | lkThr | lkCtl
  | ntEpsel | ntEpcfg | ntEpaddr0 | ntEpaddr1 | ntPkt | ntFab
  | dbgSel | dbgSelg | dbgSmp | dbgSring
  | fwUpd
  | flashImage (slot : Fin 2) (image : Fin 4) (word : Fin 4194304) -- eight bytes of an image in flash
  | flashMarker (copy half : Fin 2)
  | successor                    -- whether the successor of a live update accepts the table's version, which it decides (R343)
  deriving DecidableEq, Repr

/-- Who sends a packet: its source address and JOB (R320, R376). -/
structure Sender where
  src : BitVec 128
  job : BitVec 24
  deriving DecidableEq, Repr

/-- A correctable error: the core it is detected in, its kind, the bank of an SRAM error, and the physical address of an error of a
memory read (R346, R347). -/
structure CoreError where
  core : Fin 256
  kind : Fin 4
  bank : Fin 32
  addr : BitVec 64
  deriving DecidableEq, Repr

/-- What governs a hart's translation of a virtual address: the frame of its root table, whether it runs in user mode, and SUM and
MXR of its `sstatus`, as RISC-V names them (R16). -/
structure HartWalk where
  root : BitVec 44
  user : Bool
  sum  : Bool
  mxr  : Bool
  deriving DecidableEq, Repr

/-- What a hart of the system cores accesses: a physical address, or with translation in effect a virtual one, which the hart
translates by Sv57 (R16, R195, R301). -/
structure HartAddr where
  hart : Fin 240
  addr : BitVec 64
  walk : Option HartWalk
  deriving DecidableEq, Repr

/-- The rows of the opcode table: the words an NX kernel may hold, and the events of the machine's other agents; first those
that a step may make of itself, then those that come from outside. -/
inductive Instr where
  | mov (x : RWord)
  | movi (x : IWord)
  | add (x : RWord)
  | sub (x : RWord)
  | neg (x : RWord)
  | abs (x : RWord)
  | min (x : RWord)
  | max (x : RWord)
  | mul (x : RWord)
  | mulhi (x : RWord)
  | mad (x : RWord)
  | madw (x : RWord)
  | div (x : RWord)
  | rem (x : RWord)
  | sad (x : RWord)
  | dot4 (x : RWord)
  | and (x : RWord)
  | or (x : RWord)
  | xor (x : RWord)
  | not (x : RWord)
  | andn (x : RWord)
  | shl (x : RWord)
  | shr (x : RWord)
  | sar (x : RWord)
  | rot (x : RWord)
  | bfx (x : RWord)
  | bfi (x : RWord)
  | popc (x : RWord)
  | clz (x : RWord)
  | ctz (x : RWord)
  | brev (x : RWord)
  | perm (x : RWord)
  | swz (x : RWord)
  | pack (x : RWord)
  | unpk (x : RWord)
  | lea (x : IWord)
  | sel (x : RWord)
  | cmp (x : RWord)
  | cmpv (x : RWord)
  | cvt (x : RWord)
  | pand (x : RWord)
  | por (x : RWord)
  | pxor (x : RWord)
  | pnot (x : RWord)
  | pmov (x : RWord)
  | fadd (x : RWord)
  | fsub (x : RWord)
  | fmul (x : RWord)
  | fma (x : RWord)
  | fmin (x : RWord)
  | fmax (x : RWord)
  | fabs (x : RWord)
  | fneg (x : RWord)
  | fdiv (x : RWord)
  | fsqrt (x : RWord)
  | frcp (x : RWord)
  | frsq (x : RWord)
  | ex2 (x : RWord)
  | lg2 (x : RWord)
  | fexp (x : RWord)
  | flog (x : RWord)
  | fsin (x : RWord)
  | fcos (x : RWord)
  | ftanh (x : RWord)
  | fsigm (x : RWord)
  | fcmp (x : RWord)
  | fclass (x : RWord)
  | frnd (x : RWord)
  | fcvt (x : RWord)
  | f2i (x : RWord)
  | i2f (x : RWord)
  | qmax (x : RWord)
  | qscl (x : RWord)
  | qcvt (x : RWord)
  | dqcvt (x : RWord)
  | fdot2 (x : RWord)
  | flg (x : RWord)
  | ld (x : IWord)
  | st (x : IWord)
  | ldv (x : IWord)
  | stv (x : IWord)
  | ldk (x : IWord)
  | atom (x : RWord)
  | atomc (x : RWord)
  | red (x : RWord)
  | fence (x : RWord)
  | pref (x : IWord)
  | probe (x : IWord)
  | prinv (x : RWord)
  | stmc (x : IWord)
  | cctl (x : RWord)
  | lsplit (x : RWord)
  | lsjoin (x : RWord)
  | vote (x : RWord)
  | ballot (x : RWord)
  | shfl (x : RWord)
  | bcast (x : RWord)
  | gred (x : RWord)
  | gscan (x : RWord)
  | matchEq (x : RWord)
  | elect (x : RWord)
  | lmask (x : RWord)
  | lsync (x : RWord)
  | rdfl (x : RWord)
  | tpost (x : RWord)
  | twait (x : RWord)
  | ttake (x : RWord)
  | ttst (x : RWord)
  | tmark (x : RWord)
  | tmask (x : RWord)
  | tbind (x : RWord)
  | bank (x : RWord)
  | cp (x : RWord)
  | cpmc (x : RWord)
  | cpgat (x : RWord)
  | cpst (x : RWord)
  | cpcan (x : RWord)
  | ffcfg (x : RWord)
  | ffst (x : RWord)
  | sigt (x : RWord)
  | mxset (x : RWord)
  | mxseti (x : IWord)
  | mxgo (x : RWord)
  | mxab (x : RWord)
  | mxst (x : RWord)
  | acld (x : RWord)
  | acst (x : RWord)
  | acclr (x : RWord)
  | acred (x : RWord)
  | acflg (x : RWord)
  | nsend (x : RWord)
  | ncc (x : RWord)
  | nst (x : RWord)
  | nop (x : RWord)
  | rdsr (x : RWord)
  | wrsr (x : RWord)
  | sys (x : IWord)
  | trap (x : IWord)
  | brk (x : IWord)
  | hint (x : IWord)
  | prof (x : RWord)
  | emuwr (x : RWord)
  | emuret (x : RWord)
  | clk (x : RWord)
  | binit (x : RWord)
  | barr (x : RWord)
  | bwait (x : RWord)
  | bsync (x : RWord)
  | bdrop (x : RWord)
  | bphase (x : RWord)
  | barm (x : RWord)
  | gbar (x : RWord)
  | qrec (x : RWord)
  | qpush (x : RWord)
  | qjoin (x : RWord)
  | qsig (x : RWord)
  | endRun (x : TWord)
  | bra (x : TWord)
  | brc (x : TWord)
  | brx (x : TWord)
  | call (x : TWord)
  | callx (x : TWord)
  | ret (x : TWord)
  | exit (x : TWord)
  | yield (x : TWord)
  | illegalWord (w : BitVec 128)
  | faultRecordWrite (ctx : Fin 64)
  | engineFaultDelivery (team : Nat)
  | debugStop (team group tset : Nat)
  | awaitRelease (team group tset : Nat)
  | convWaitExpiry (team group tset : Nat)
  | promotion (team group tset : Nat)
  | yieldExpiry (team group tset : Nat)
  | lsyncRelease (team group : Nat) (ls : Fin 8)
  | sysResult (team group tset : Nat) (results : List (BitVec 64))
  | atomicPerform (team group tset : Nat)
  | queueWake (q : Fin 1024)
  | packetTake (q : Fin 1024)
  | launchPacket (q : Fin 1024)
  | copyPacket (q : Fin 1024)
  | copyPacketSegmentEnd (q : Fin 1024) (pkt seg : Nat) (ok : Bool)
  | waitPacket (q : Fin 1024)
  | waitComplete (q : Fin 1024) (pkt : Nat)
  | signalPacket (q : Fin 1024)
  | markPacket (q : Fin 1024)
  | counterPoll
  | qjoinRelease (team group tset : Nat)
  | childLaunch (team : Nat)
  | translationComplete (ctx : Fin 64) (slot : Fin 4096)
  | polderKeyLookup (ctx : Fin 64) (slot : Fin 4096) (hit : Bool)
  | hotRunCount (entry : Nat)
  | reoptimisationStart (entry : Nat)
  | reoptimisationComplete (entry : Nat) (replaced : Bool)
  | teamPlacement (launch : Nat) (cores : List Nat)
  | quantumExpiry (team : Nat)
  | waitPriorityBoost (team : Nat)
  | parkedRestoreTimeout (team : Nat)
  | teamSwapOut (team : Nat)
  | teamRestore (team : Nat) (cores : List Nat)
  | teamRetire (team : Nat)
  | suspendComplete (ctx : Fin 64)
  | contextDestroyed (ctx : Fin 64)
  | kernelLoadDone (ctx : Fin 64) (slot : Fin 4096)
  | pageWalk (walk : Nat)
  | invalidateComplete
  | counterEpoch
  | migrationCopyEnd (quay : Fin 4) (ok : Bool)
  | tileArrival (frag : Nat) (beats : BitVec 16)
  | fragmentFailure (frag : Nat)
  | probeFillComplete (fill : Nat) (ok : Bool)
  | windowFillComplete (fill : Nat) (ok : Bool)
  | copySegmentEnd (cmd seg : Nat) (ok : Bool)
  | nestStart (team core : Nat)
  | kblockRetire (team core : Nat)
  | acredComplete (acred : Nat)
  | trainingSuccess (link width : Nat)
  | trainingTimeout (link : Nat)
  | correctedErrorBurst (link : Nat)
  | spillwayTimer (access : Nat)
  | wcAgeDrain (core : Fin 256) (entry : Nat)
  | remoteResponse (access : Nat) (ok : Bool) (bytes : List (BitVec 8))
  | linkTimeout (access : Nat)
  | packetAck (msg pkt : Nat)
  | retransmit (msg pkt : Nat)
  | messageTimeout (ep : Fin 16384)
  | samplePeriod
  | packageReset
  | eccFreezeEnd (core : Fin 256)
  | aliasRollback (team group tset : Nat)
  | eviction
  | translationCoreFailure (ctx : Fin 64) (slot : Fin 4096)
  | thermalStepDown (die : Fin 20)
  | thermalStepUp (die : Fin 20)
  | clockStop (die : Fin 20)
  | clockResume (die : Fin 20)
  | thermalShutdown
  | powerCapClockStep
  | contextCreate
  | contextStart
  | contextSuspend
  | contextResume
  | contextAcknowledge
  | contextDestroy
  | contextReclaim
  | faultRingHeadWrite (head : BitVec 32)
  | queueEnable (value : BitVec 64)
  | queueDisable (value : BitVec 64)
  | kernelLoad
  | kernelUnload (handle : BitVec 32)
  | profileRequest (handle : BitVec 32)
  | cancelLaunch (q : Fin 1024) (slot : BitVec 16)
  | cancelAbort (q : Fin 1024) (slot : BitVec 16)
  | pgRootWrite (value : BitVec 64)
  | pageReplay (value : BitVec 64)
  | pageFail (value : BitVec 64)
  | invalidatePage (value : BitVec 64)
  | invalidateAll (value : BitVec 64)
  | migrationStart (quay : Fin 4) (value : BitVec 64)
  | replicaAdd (value : BitVec 64)
  | replicaRemove (value : BitVec 64)
  | linkIrqClear
  | linkReset
  | linkRepair
  | linkRetrain (link : Nat)
  | marginInterrupt (link lane hgt wid : Nat)
  | laneFailure (link lane : Nat)
  | flitRetry (link : Nat)
  | endpointCreate (value : BitVec 64)
  | endpointDestroy (value : BitVec 64)
  | packetPlacement (sender : Sender) (seqNo : Nat) (kind : Fin 3) (dst : BitVec 64) (body : List (BitVec 8))
  | packetRefusal (msg pkt : Nat)
  | debugAttach (value : BitVec 64)
  | dbgSet (value : BitVec 64)
  | dbgClear (value : BitVec 64)
  | debugRegisterRead
  | debugRegisterWrite (value : BitVec 64)
  | continueAll
  | stepRun
  | stopAll
  | continueGroup
  | liveUpdate
  | raiseFloor
  | keyCreate (value : BitVec 64)
  | keyDestroy (value : BitVec 64)
  | freezeMaster (m : Nat) (cause : Fin 5) (addr : BitVec 64)
  | correctableError (error : CoreError)
  | uncorrectableError (addr : BitVec 64)
  | writebackDataError (ctx : Fin 64) (addr : BitVec 64)
  | bankRetire (core : Fin 256) (bank : Fin 32)
  | powerCapSet (watts : Nat)
  | pldmMonitorRead (reading : List Nat)
  | registerWrite (reg : RegId) (value : BitVec 64)
  | pgFqhHeadWrite (value : BitVec 64)
  | dbgSptrHeadWrite (value : BitVec 64)
  | peerPackageReset (pkg : Fin 128)
  | systemCoreAccess (place : HartAddr) (size : Nat) (op : Nat) (value : BitVec 64)
  deriving DecidableEq, Repr

end Sys2Proof
end

