-- ==== Sys2Proof/Machine/Cards.lean ====
section
/-!
DEFINITION. The cards of the instruction chapters: for each opcode, the types, modifier values, operand kinds and
AUX values that R59 lets it carry. A word that breaks its card is illegal.
-/
namespace Sys2Proof

/-- TYP code of a type (R46). -/
def Typ.code : Typ → Nat
  | .i8 => 0x00 | .i16 => 0x01 | .i32 => 0x02 | .i64 => 0x03
  | .n8 => 0x04 | .n16 => 0x05 | .n32 => 0x06 | .n64 => 0x07
  | .b8 => 0x08 | .b16 => 0x09 | .b32 => 0x0A | .b64 => 0x0B
  | .f16 => 0x0C | .bf16 => 0x0D | .f32 => 0x0E | .f64 => 0x0F
  | .md8 => 0x10 | .s16 => 0x11
  | .i8x8 => 0x20 | .i16x4 => 0x21 | .i32x2 => 0x22
  | .n8x8 => 0x24 | .n16x4 => 0x25 | .n32x2 => 0x26
  | .f16x4 => 0x2C | .bf16x4 => 0x2D | .f32x2 => 0x2E | .md8x8 => 0x30

/-- The type a TYP code names; none for a reserved code (R46). -/
def Typ.ofCode : Nat → Option Typ
  | 0x00 => some .i8 | 0x01 => some .i16 | 0x02 => some .i32 | 0x03 => some .i64
  | 0x04 => some .n8 | 0x05 => some .n16 | 0x06 => some .n32 | 0x07 => some .n64
  | 0x08 => some .b8 | 0x09 => some .b16 | 0x0A => some .b32 | 0x0B => some .b64
  | 0x0C => some .f16 | 0x0D => some .bf16 | 0x0E => some .f32 | 0x0F => some .f64
  | 0x10 => some .md8 | 0x11 => some .s16
  | 0x20 => some .i8x8 | 0x21 => some .i16x4 | 0x22 => some .i32x2
  | 0x24 => some .n8x8 | 0x25 => some .n16x4 | 0x26 => some .n32x2
  | 0x2C => some .f16x4 | 0x2D => some .bf16x4 | 0x2E => some .f32x2 | 0x30 => some .md8x8
  | _ => none

/-! ### Sets of types (R150, R173) -/

/-- Set I. -/
def tI (t : Typ) : Bool := t matches .i8 | .i16 | .i32 | .i64
/-- Set N. -/
def tN (t : Typ) : Bool := t matches .n8 | .n16 | .n32 | .n64
/-- Set B. -/
def tB (t : Typ) : Bool := t matches .b8 | .b16 | .b32 | .b64
/-- Set Ps. -/
def tPs (t : Typ) : Bool := t matches .i8x8 | .i16x4 | .i32x2
/-- Set P. -/
def tP (t : Typ) : Bool := tPs t || t matches .n8x8 | .n16x4 | .n32x2
/-- Set F. -/
def tF (t : Typ) : Bool := t matches .f16 | .bf16 | .f32 | .f64
/-- Set H. -/
def tH (t : Typ) : Bool := t matches .f16x4 | .bf16x4 | .f32x2
/-- Set V. -/
def tV (t : Typ) : Bool := tF t || tH t
/-- Set Q. -/
def tQ (t : Typ) : Bool := t matches .md8 | .i8
/-- Any type of R46. -/
def tAny (_ : Typ) : Bool := true
/-- An instruction that takes no type carries TYP 0x00 (R46). -/
def tNone (t : Typ) : Bool := t == .i8

/-! ### Operand kinds -/

/-- An operand field the instruction does not use is all zeros (R45). -/
def oNone (o : Opd) : Bool := o == .v 0
def oV : Opd → Bool | .v _ => true | _ => false
def oG : Opd → Bool | .g _ => true | _ => false
def oT : Opd → Bool | .t _ => true | _ => false
def oP : Opd → Bool | .p _ => true | _ => false
def oLs : Opd → Bool | .ls _ => true | _ => false
def oSig : Opd → Bool | .s _ => true | _ => false
def oBar : Opd → Bool | .b _ => true | _ => false
def oSr : Opd → Bool | .sr _ => true | _ => false
def oAcc : Opd → Bool | .a _ => true | _ => false
def oFifo : Opd → Bool | .f _ => true | _ => false
def oNx : Opd → Bool | .nx _ => true | _ => false
def oZ : Opd → Bool | .z => true | _ => false
def oImm : Opd → Bool | .imm _ => true | _ => false
/-- `v`, `g` or `t`. -/
def oVGT (o : Opd) : Bool := oV o || oG o || oT o
/-- `v` or `t`. -/
def oVT (o : Opd) : Bool := oV o || oT o
/-- The D of R151 and R173, and of R317: `v`, `g`, `t` or `z`. -/
def oD (o : Opd) : Bool := oVGT o || oZ o
/-- The D of R211, R230 and R271: `v`, `t` or `z`. -/
def oDm (o : Opd) : Bool := oVT o || oZ o
/-- The S of R151, R173 and R211. -/
def oS (o : Opd) : Bool := oVGT o || oSr o || oZ o || oImm o
/-- The S of R230, R248, R271 and R281: `v`, `g`, `t` or an immediate. -/
def oSi (o : Opd) : Bool := oVGT o || oImm o
/-- The base or address column of R211 (R209). -/
def oBase (o : Opd) : Bool := oVGT o || oZ o
/-- Predicate or `z`. -/
def oPz (o : Opd) : Bool := oP o || oZ o
/-- Predicate or immediate. -/
def oPimm (o : Opd) : Bool := oP o || oImm o
/-- Signal or `z`. -/
def oSigz (o : Opd) : Bool := oSig o || oZ o
/-- A `g` register with `n` registers from it in the file (R281, R317). -/
def oGn (n : Nat) : Opd → Bool
  | .g k => k.toNat + n ≤ 262144
  | _ => false
/-- Signed value of an immediate operand (R44). -/
def immVal (x : BitVec 18) : Int := x.toInt
/-- An immediate of the range 0 to `hi`. -/
def oImmTo (hi : Int) : Opd → Bool
  | .imm x => decide (0 ≤ immVal x) && decide (immVal x ≤ hi)
  | _ => false

/-! ### Modifier sub-codes (R47) -/

/-- Every MOD bit outside `mask` is zero. -/
def modIn (mask : BitVec 6) (m : BitVec 6) : Bool := m &&& ~~~mask == 0
/-- The field of MOD from bit `lo`, `n` bits wide. -/
def modField (m : BitVec 6) (lo n : Nat) : Nat := fieldOf m.toNat lo n
/-- A rounding mode of R29. -/
def rndOk (m : BitVec 6) : Bool := modField m 0 3 < 6
/-- A rounding mode other than `.rs`. -/
def rndNoRs (m : BitVec 6) : Bool := modField m 0 3 < 5
/-- `.rne` or `.rs`. -/
def rndRneRs (m : BitVec 6) : Bool := modField m 0 3 == 0 || modField m 0 3 == 5
/-- An integer compare code. -/
def cmpOk (m : BitVec 6) : Bool := modField m 0 3 < 6
/-- A scope. -/
def scopeOk (m : BitVec 6) : Bool := modField m 0 3 < 6
/-- Order `.rlx` or `.acq`. -/
def ordLoad (m : BitVec 6) : Bool := modField m 3 2 == 0 || modField m 3 2 == 1
/-- Order `.rlx` or `.rel`. -/
def ordStore (m : BitVec 6) : Bool := modField m 3 2 == 0 || modField m 3 2 == 2

/-- The type named by AUX 7:2 (R153, R175). -/
def auxTyp (a : BitVec 18) : Option Typ := Typ.ofCode (fieldOf a.toNat 2 6)
/-- AUX holds a second type of the set and nothing else. -/
def auxTypIn (set : Typ → Bool) (a : BitVec 18) : Bool :=
  a &&& ~~~(0xFC : BitVec 18) == 0 && (match auxTyp a with | some t => set t | none => false)

/-! ### The check -/

/-- A card of format R. Unnamed columns are zero. -/
structure RCard where
  typ  : Typ → Bool := tNone
  mod  : BitVec 6 → Bool := fun m => m == 0
  dst  : Opd → Bool := oNone
  sa   : Opd → Bool := oNone
  sb   : Opd → Bool := oNone
  sc   : Opd → Bool := oNone
  aux  : BitVec 18 → Bool := fun a => a == 0
  more : RWord → Bool := fun _ => true

/-- A card of format I. Unnamed columns are zero. -/
structure ICard where
  typ  : Typ → Bool := tNone
  mod  : BitVec 6 → Bool := fun m => m == 0
  dst  : Opd → Bool := oNone
  sa   : Opd → Bool := oNone
  sb   : Opd → Bool := oNone
  imm  : BitVec 32 → Bool := fun _ => true
  aux6 : BitVec 6 → Bool := fun a => a == 0
  more : IWord → Bool := fun _ => true

/-- The first condition of R59 that a format-R word breaks against its card. -/
def RCard.check (c : RCard) (x : RWord) : Option WordError :=
  if !c.typ x.typ then some .reservedType
  else if !c.mod x.mod then some .reservedModifier
  else if !(c.dst x.dst && c.sa x.sa && c.sb x.sb && c.sc x.sc) then some .reservedOperand
  else if !c.aux x.aux then some .reservedBits
  else if !c.more x then some .reservedModifier
  else none

/-- The first condition of R59 that a format-I word breaks against its card. -/
def ICard.check (c : ICard) (x : IWord) : Option WordError :=
  if !c.typ x.typ then some .reservedType
  else if !c.mod x.mod then some .reservedModifier
  else if !(c.dst x.dst && c.sa x.sa && c.sb x.sb) then some .reservedOperand
  else if !(c.imm x.imm && c.aux6 x.aux6) then some .reservedBits
  else if !c.more x then some .reservedModifier
  else none

/-! ### Class 0b000 (R153, R168, R172) -/

def cardMov : RCard := { typ := tAny, dst := oD, sa := oS }
def cardMovi : ICard :=
  { typ := fun t => tI t || tN t || tB t, mod := modIn 1, dst := oD,
    more := fun x => x.mod == 0 || x.typ == .b64 }
def tINP (t : Typ) : Bool := tI t || tN t || tP t
def tINB (t : Typ) : Bool := tI t || tN t || tB t
def tINBP (t : Typ) : Bool := tINB t || tP t
def cardAddSub : RCard := { typ := tINP, mod := modIn 8, dst := oD, sa := oS, sb := oS }
def cardNegAbs : RCard := { typ := fun t => tI t || tPs t, mod := modIn 8, dst := oD, sa := oS }
def cardMinMax : RCard := { typ := tINP, dst := oD, sa := oS, sb := oS }
def cardMad : RCard := { typ := tINP, mod := modIn 8, dst := oD, sa := oS, sb := oS, sc := oS }
def cardMadw : RCard :=
  { typ := fun t => t matches .i8 | .i16 | .i32 | .n8 | .n16 | .n32, mod := modIn 8,
    dst := oD, sa := oS, sb := oS, sc := oS }
def cardDivRem : RCard := { typ := fun t => tI t || tN t, dst := oD, sa := oS, sb := oS }
def cardSad : RCard :=
  { typ := fun t => tI t || tN t || t matches .i8x8 | .n8x8 | .i16x4 | .n16x4,
    dst := oD, sa := oS, sb := oS, sc := oS }
def cardDot4 : RCard :=
  { typ := fun t => t matches .i32 | .n32, mod := modIn 8, dst := oD, sa := oS, sb := oS, sc := oS }
def cardLogic : RCard := { typ := tINBP, dst := oD, sa := oS, sb := oS }
def cardUnary : RCard := { typ := tINBP, dst := oD, sa := oS }
def cardBfx : RCard := { typ := tINB, dst := oD, sa := oS, sb := oS }
def cardBfi : RCard := { typ := tINB, dst := oD, sa := oS, sb := oS, sc := oS }
def cardPerm : RCard := { typ := fun t => t == .b64, dst := oD, sa := oS, sb := oS, sc := oS }
def cardSwz : RCard := { typ := tP, dst := oD, sa := oS, sb := oS }
def cardPack : RCard := { typ := tP, mod := modIn 8, dst := oD, sa := oS, sb := oS }
def cardUnpk : RCard := { typ := tP, mod := modIn 1, dst := oD, sa := oS }
def cardLea : ICard :=
  { typ := fun t => t matches .i64 | .n64, mod := modIn 1, dst := oD, sa := oS, sb := oS,
    aux6 := fun a => a &&& 0x38 == 0 }
def cardSel : RCard := { typ := tAny, dst := oD, sa := oS, sb := oS, sc := oP }
/-- SC of a compare: a predicate with a combine, zero without (R168, R182). -/
def combineSc (x : RWord) : Bool :=
  modField x.mod 4 2 != 3 && (if modField x.mod 4 2 == 0 then oNone x.sc else oP x.sc)
def cardCmp : RCard :=
  { typ := tINB, mod := fun m => modIn 0x37 m && cmpOk m, dst := oPz, sa := oS, sb := oS, sc := fun _ => true,
    more := fun x => combineSc x && (!tB x.typ || modField x.mod 0 3 < 2) }
def cardCmpv : RCard :=
  { typ := tINP, mod := fun m => modIn 7 m && cmpOk m, dst := oD, sa := oS, sb := oS }
def cardCvt : RCard :=
  { typ := tINB, mod := modIn 8, dst := oD, sa := oS, aux := auxTypIn tINB,
    more := fun x => !(tB x.typ && x.mod != 0) }
def cardPlogic : RCard := { mod := modIn 3, dst := oPz, sa := oPimm, sb := oPimm }
def cardPnot : RCard := { dst := oPz, sa := oPimm }
/-- The legal pairings of `pmov` (R172). -/
def pmovOk (x : RWord) : Bool :=
  if x.mod == 0 then
    (oPz x.dst && (oP x.sa || oS x.sa)) || (oD x.dst && oP x.sa)
  else
    (oD x.dst && x.sa == .p 0) || (x.dst == .p 0 && oS x.sa)
def cardPmov : RCard :=
  { mod := modIn 1, dst := fun o => oPz o || oD o, sa := fun o => oP o || oS o, more := pmovOk }

/-! ### Class 0b001 (R175, R176) -/

def rndFtz (m : BitVec 6) : Bool := modIn 0x17 m && rndOk m
def cardF2 : RCard := { typ := tV, mod := rndFtz, dst := oD, sa := oS, sb := oS }
def cardFma : RCard := { typ := tV, mod := rndFtz, dst := oD, sa := oS, sb := oS, sc := oS }
def cardFminmax : RCard := { typ := tV, mod := modIn 0x10, dst := oD, sa := oS, sb := oS }
def cardFabsneg : RCard := { typ := tV, dst := oD, sa := oS }
def cardFsqrt : RCard := { typ := tV, mod := rndFtz, dst := oD, sa := oS }
def cardFspec : RCard := { typ := tV, mod := modIn 0x10, dst := oD, sa := oS }
def cardFcmp : RCard :=
  { typ := tF, mod := fun m => modField m 0 4 < 14, dst := oPz, sa := oS, sb := oS, sc := fun _ => true,
    more := combineSc }
def cardFclass : RCard := { typ := tF, dst := oD, sa := oS }
def cardFrnd : RCard := { typ := tV, mod := fun m => modIn 0x17 m && rndNoRs m, dst := oD, sa := oS }
/-- The source types of `fcvt` and `f2i`. -/
def tFms (t : Typ) : Bool := tF t || t == .md8 || t == .s16
def cardFcvt : RCard :=
  { typ := tFms, mod := rndFtz, dst := oD, sa := oS, aux := auxTypIn tFms,
    more := fun x => (x.typ != .md8 || rndRneRs x.mod) &&
      !(x.typ == .md8 && auxTyp x.aux == some .md8) && !(x.typ == .s16 && auxTyp x.aux == some .s16) }
def cardF2i : RCard :=
  { typ := fun t => tI t || tN t, mod := fun m => modIn 0x17 m && rndNoRs m, dst := oD, sa := oS,
    aux := auxTypIn tFms }
def cardI2f : RCard :=
  { typ := tF, mod := fun m => modIn 7 m && rndOk m, dst := oD, sa := oS, aux := auxTypIn (fun t => tI t || tN t) }
def cardQmax : RCard :=
  { typ := tH, mod := modIn 0x10, dst := oD, sa := oS, sb := fun _ => true, sc := oLs,
    more := fun x => if x.typ == .f32x2 then oS x.sb else oNone x.sb }
def cardQscl : RCard := { typ := tQ, dst := oD, sa := oS }
def cardQcvt : RCard :=
  { typ := tQ, mod := fun m => modIn 0x17 m && rndRneRs m, dst := oD, sa := oS, sb := fun _ => true, sc := oS,
    aux := auxTypIn tH,
    more := fun x => if auxTyp x.aux == some .f32x2 then oS x.sb else oNone x.sb }
def cardDqcvt : RCard :=
  { typ := tH, mod := fun m => modIn 0x37 m && rndOk m, dst := oD, sa := oS, sb := oS, aux := auxTypIn tQ,
    more := fun x => x.typ == .f32x2 || modField x.mod 5 1 == 0 }
def cardFdot2 : RCard :=
  { typ := fun t => t == .f32, mod := fun m => modIn 0x37 m && rndOk m, dst := oD, sa := oS, sb := oS, sc := oS,
    aux := auxTypIn (fun t => t == .f16x4 || t == .bf16x4) }
def cardFlg : RCard :=
  { typ := tF, mod := fun m => if modField m 5 1 == 1 then modIn 0x37 m && rndNoRs m else m == 0,
    dst := oD, sa := oS, sb := fun _ => true,
    more := fun x => if modField x.mod 5 1 == 1 then oS x.sb else oNone x.sb }

/-! ### Class 0b010 (R211, R216) -/

/-- AUX6 holds a space and nothing else. -/
def spaceOnly (a : BitVec 6) : Bool := a &&& 0x3C == 0 && a &&& 3 != 3
/-- AUX6 holds a space and an `ldv` or `stv` count. -/
def spaceCount (a : BitVec 6) : Bool := a &&& 0x30 == 0 && a &&& 3 != 3 && a &&& 0xC != 0xC
/-- Registers moved by an `ldv` or `stv` (AUX6 3:2). -/
def vecCount (a : BitVec 6) : Nat := match fieldOf a.toNat 2 2 with | 0 => 2 | 1 => 4 | _ => 8
/-- The first register of an `ldv` or `stv` leaves room for the others (R211). -/
def vecFits (n : Nat) : Opd → Bool
  | .v k => k.toNat + n ≤ 262144
  | .g k => k.toNat + n ≤ 262144
  | .t k => k.val + n ≤ 16
  | _ => false
def modLoad (m : BitVec 6) : Bool := modIn 0x1F m && scopeOk m && ordLoad m
def modStore (m : BitVec 6) : Bool := modIn 0x1F m && scopeOk m && ordStore m
def modAtom (m : BitVec 6) : Bool := modIn 0x1F m && scopeOk m
def oDg (o : Opd) : Bool := oDm o || oG o
def cardLd : ICard := { typ := tAny, mod := modLoad, dst := oDg, sa := oBase, aux6 := spaceOnly }
def cardSt : ICard := { typ := tAny, mod := modStore, sa := oBase, sb := oS, aux6 := spaceOnly }
def cardLdv : ICard :=
  { typ := fun t => t == .b64, mod := modLoad, dst := oVGT, sa := oBase, aux6 := spaceCount,
    more := fun x => vecFits (vecCount x.aux6) x.dst }
def cardStv : ICard :=
  { typ := fun t => t == .b64, mod := modStore, sa := oBase, sb := oVGT, aux6 := spaceCount,
    more := fun x => vecFits (vecCount x.aux6) x.sb }
def cardLdk : ICard := { typ := tAny, dst := oDg, sa := oBase }
/-- The operations and types of `atom` and `red` (R216). -/
def atomOk (isRed : Bool) (op : Nat) (t : Typ) : Bool :=
  match op with
  | 0 | 1 | 2 => (t matches .i32 | .i64 | .n32 | .n64 | .f32 | .f64)
  | 3 | 4 | 5 => (t matches .b32 | .b64)
  | 6 => !isRed && (t matches .b32 | .b64)
  | 7 | 8 => !isRed && (t matches .n32 | .n64)
  | _ => false
/-- AUX holds a `.g` or `.s` space and an operation. -/
def auxAtom (a : BitVec 18) : Bool := a &&& ~~~(0x3D : BitVec 18) == 0
def cardAtom : RCard :=
  { typ := tAny, mod := modAtom, dst := oDm, sa := oBase, sb := oS, aux := auxAtom,
    more := fun x => atomOk false (fieldOf x.aux.toNat 2 4) x.typ }
def cardAtomc : RCard :=
  { typ := fun t => t == .b32 || t == .b64, mod := modAtom, dst := oDm, sa := oBase, sb := oS, sc := oS,
    aux := fun a => a &&& ~~~(1 : BitVec 18) == 0 }
def cardRed : RCard :=
  { typ := tAny, mod := modStore, sa := oBase, sb := oS, aux := auxAtom,
    more := fun x => atomOk true (fieldOf x.aux.toNat 2 4) x.typ }
def cardFence : RCard :=
  { mod := modAtom, aux := fun a => a &&& ~~~(3 : BitVec 18) == 0 && a != 3,
    more := fun x => if x.aux == 0 then modField x.mod 3 2 != 0 else x.mod == 0 }
def cardPref : ICard := { sa := oBase, aux6 := fun a => a == 0 || a == 4 }
def cardProbe : ICard := { dst := oVT, sa := oBase, sb := oP }
def cardPrinv : RCard :=
  { mod := modIn 1, sa := oBase, more := fun x => x.mod == 0 || oNone x.sa }
def cardStmc : ICard := { typ := tAny, mod := modStore, sa := oBase, sb := oS }
def cardCctl : RCard :=
  { mod := modIn 3, sa := oBase, more := fun x => modField x.mod 1 1 == 0 || oNone x.sa }

/-! ### Class 0b011 (R143, R148) -/

def tBw (t : Typ) : Bool := tB t
def oLsW : Opd → Bool | .ls i => i.val != 0 | _ => false
def cardLsplit : RCard :=
  { dst := oLsW, sa := oLs, sb := fun o => o == .imm 4 || o == .imm 8 || o == .imm 16 || o == .imm 32 }
def cardLsjoin : RCard := { dst := oLsW, sa := oLs, sb := oLs }
def cardVote : RCard := { mod := fun m => modIn 3 m && m != 3, dst := oPz, sa := oP, sb := oLs }
def cardBallot : RCard := { dst := oVGT, sa := oP, sb := oLs }
def cardShfl : RCard := { typ := tBw, mod := modIn 3, dst := oVT, sa := oVGT, sb := oSi, sc := oLs }
def cardBcast : RCard := { dst := oVGT, sa := oVGT, sb := fun o => oG o || oImm o, sc := oLs }
/-- The pairings of operation, type and `.sat` of R148. -/
def gredOk (m : BitVec 6) (t : Typ) : Bool :=
  (match modField m 0 3 with
   | 0 | 1 | 2 => tI t || tN t || tF t
   | 3 | 4 | 5 => tB t
   | _ => false) &&
  (modField m 3 1 == 0 || (modField m 0 3 == 0 && (tI t || tN t)))
def cardGred : RCard :=
  { typ := tAny, mod := modIn 0xF, dst := oVGT, sa := oVT, sb := oLs, more := fun x => gredOk x.mod x.typ }
def cardGscan : RCard :=
  { typ := tAny, mod := modIn 0x2F, dst := oVT, sa := oVT, sb := oLs, more := fun x => gredOk x.mod x.typ }
def cardMatch : RCard := { typ := tBw, dst := oVGT, sa := oVT, sb := oLs }
def cardElect : RCard := { dst := oPz, sa := oLs }
def cardLmask : RCard := { mod := fun m => modIn 3 m && m != 3, dst := oVGT, sa := oLs }
def cardLsync : RCard := { sa := oLs }
def cardRdfl : RCard := { dst := oVGT, sa := oVT, sb := oLs }

/-! ### Class 0b100 (R230, R271, R281, R317, R318) -/

/-- AUX holds a `.g` or `.s` space. -/
def auxGs (a : BitVec 18) : Bool := a == 0 || a == 1
def cardTpost : RCard :=
  { mod := fun m => scopeOk m && ordStore m, dst := oSigz, sa := fun o => oV o || oG o, sb := oSi, sc := oSi,
    aux := auxGs }
def cardTwait : RCard := { typ := tAny, dst := oDg, sa := oVGT }
def cardTtst : RCard := { mod := fun m => modIn 3 m && m != 3, dst := oPz, sa := oVGT }
def cardTmark : RCard := { mod := modIn 1, sa := oVGT }
def cardTmask : RCard :=
  { mod := modIn 1, dst := oDg, sa := oVGT, more := fun x => x.mod == 0 || oNone x.sa }
def cardTbind : RCard :=
  { sa := fun o => oV o || oG o, sb := oSi, sc := oSi, aux := fun a => a &&& ~~~(0xF : BitVec 18) == 0 }
def cardBank : RCard := { mod := fun m => modIn 3 m && m != 3, dst := oPz, sa := oSi, sb := oSi }

/-- Source space of a copy command (R281). -/
def cpSrc (a : BitVec 18) : Nat := fieldOf a.toNat 0 2
/-- Destination space of a copy command (R281). -/
def cpDst (a : BitVec 18) : Nat := fieldOf a.toNat 2 2
def auxCp (a : BitVec 18) : Bool := a &&& ~~~(0xF : BitVec 18) == 0 && cpSrc a < 2 && cpDst a < 3
/-- SB names a FIFO exactly where the destination space is `.f` (R281). -/
def cpSbOk (x : RWord) : Bool := if cpDst x.aux == 2 then oFifo x.sb else oVGT x.sb
def cardCp : RCard :=
  { mod := modIn 1, dst := oSigz, sa := oVGT, sb := fun o => oVGT o || oFifo o, sc := oSi, aux := auxCp,
    more := fun x => cpSbOk x && (x.mod == 0 || oGn 3 x.sc) }
def cardCpmc : RCard :=
  { dst := oSigz, sa := oVGT, sb := fun o => oVGT o || oFifo o, sc := oGn 2, aux := auxCp,
    more := fun x => cpSbOk x && cpDst x.aux != 0 }
def cardCpgat : RCard :=
  { dst := oSigz, sa := oVGT, sb := fun o => oVGT o || oFifo o, sc := oGn 3, aux := auxCp, more := cpSbOk }
def cardCpst : RCard := { dst := oD, sa := oImmTo 15 }
def cardCpcan : RCard := { dst := oPz, sa := oImmTo 15 }
def cardFfcfg : RCard := { sa := oFifo, sb := oSi }
def cardFfst : RCard := { dst := oD, sa := oFifo }
def cardSigt : RCard :=
  { mod := modIn 1, dst := fun o => oD o || oP o, sa := oSig,
    more := fun x => if x.mod == 0 then oD x.dst else oPz x.dst }
def cardMxset : RCard := { sa := oSi, sb := oNx }
def cardMxseti : ICard := { sb := oNx }
def cardNone : RCard := {}
def cardMxst : RCard :=
  { mod := modIn 1, dst := oDg, sb := fun o => oNx o || oNone o,
    more := fun x => if x.mod == 0 then oNone x.sb else oNx x.sb }
def tAcc (t : Typ) : Bool := t == .f32 || t == .f32x2
def cardAcld : RCard := { typ := tAcc, dst := oDg, sa := oAcc, sb := oSi }
def cardAcst : RCard := { typ := tAcc, sa := oAcc, sb := oSi, sc := oSi }
def cardAcclr : RCard := { sa := oAcc }
def cardAcred : RCard := { dst := oSigz, sa := oAcc, sb := oAcc }
def cardAcflg : RCard := { dst := oDg, sa := oAcc }
/-- Kind of an `nsend` (AUX 3:2): 0 `.m`, 1 `.t`, 2 `.b`. -/
def nsKind (a : BitVec 18) : Nat := fieldOf a.toNat 2 2
def cardNsend : RCard :=
  { mod := fun m => modIn 0x38 m && ordStore m, dst := oSigz, sa := oVGT, sb := oVGT,
    sc := fun o => oGn 2 o || oZ o,
    aux := fun a => a &&& ~~~(0xF : BitVec 18) == 0 && fieldOf a.toNat 0 2 < 2 && nsKind a < 3,
    more := fun x => (nsKind x.aux == 2) == oZ x.sc }
def cardNcc : RCard := { dst := oD, sa := oVGT }

/-! ### Class 0b101 (R75, R98, R248) -/

/-- The registers of R74 whose Kind is U. -/
def SReg.uniform (r : SReg) : Bool :=
  !(r matches .lane | .tidx | .tidy | .tidz | .emusa | .emusb | .emusc)
def oSrU : Opd → Bool | .sr r => r.uniform | _ => false
def oSrRW : Opd → Bool | .sr r => (r matches .fflg | .seed) | _ => false
def cardRdsr : RCard :=
  { dst := oVGT, sa := oSr, more := fun x => !oG x.dst || oSrU x.sa }
def cardWrsr : RCard := { dst := oSrRW, sa := oSi }
def oVgtzImm (o : Opd) : Bool := oVGT o || oZ o || oImm o
def cardSys : ICard := { dst := oDm, sa := oVgtzImm, sb := oVgtzImm }
def cardImm : ICard := {}
def cardProf : RCard := { sa := oImmTo 7 }
def cardEmuwr : RCard := { sa := oSi }
def cardClk : RCard := { dst := oVGT }
def cardBinit : RCard := { sa := oBar, sb := oSi }
def cardBar : RCard := { sa := oBar }
def cardBphase : RCard := { dst := oVT, sa := oBar }
def cardBarm : RCard := { sa := oBar, sb := oSigz, sc := oSi }
def cardQrec : RCard := { sa := oSi, sb := oImmTo 6 }
def oVg (o : Opd) : Bool := oV o || oG o
def oVgImm (o : Opd) : Bool := oVg o || oImm o
def cardQjoin : RCard := { dst := oPz, sa := oVg, sb := oVgImm }
def cardQsig : RCard := { mod := modIn 1, sa := oVg, sb := oVgImm }

/-! ### Trailers (R53, R54) -/

/-- The fields a trailer of each kind may set beside AWAIT and DBG. -/
def tCard (conv grd reg tgt : Bool) (x : TWord) : Option WordError :=
  if (conv || !x.conv) && (grd || x.grd == 0) && (tgt || x.tgt == 0) &&
     (if reg then oVg x.reg else oNone x.reg)
  then none else some .malformedTrailer

end Sys2Proof
end

