-- ==== Sys2Proof/WellFormed.lean ====
section
/-!
DEFINITION. Well-formedness: an instruction or trailer is well formed when its fields obey its card (R45 to R47, R54,
R59). Events carry bounded operands by their types and are always well formed.
-/
namespace Sys2Proof

/-- The first condition of R54 or R59 that an instruction's fields break against its card. -/
def Instr.wordError : Instr → Option WordError
  | .mov x => cardMov.check x
  | .movi x => cardMovi.check x
  | .add x => cardAddSub.check x
  | .sub x => cardAddSub.check x
  | .neg x => cardNegAbs.check x
  | .abs x => cardNegAbs.check x
  | .min x => cardMinMax.check x
  | .max x => cardMinMax.check x
  | .mul x => cardAddSub.check x
  | .mulhi x => cardMinMax.check x
  | .mad x => cardMad.check x
  | .madw x => cardMadw.check x
  | .div x => cardDivRem.check x
  | .rem x => cardDivRem.check x
  | .sad x => cardSad.check x
  | .dot4 x => cardDot4.check x
  | .and x => cardLogic.check x
  | .or x => cardLogic.check x
  | .xor x => cardLogic.check x
  | .not x => cardUnary.check x
  | .andn x => cardLogic.check x
  | .shl x => cardLogic.check x
  | .shr x => cardLogic.check x
  | .sar x => cardLogic.check x
  | .rot x => cardLogic.check x
  | .bfx x => cardBfx.check x
  | .bfi x => cardBfi.check x
  | .popc x => cardUnary.check x
  | .clz x => cardUnary.check x
  | .ctz x => cardUnary.check x
  | .brev x => cardUnary.check x
  | .perm x => cardPerm.check x
  | .swz x => cardSwz.check x
  | .pack x => cardPack.check x
  | .unpk x => cardUnpk.check x
  | .lea x => cardLea.check x
  | .sel x => cardSel.check x
  | .cmp x => cardCmp.check x
  | .cmpv x => cardCmpv.check x
  | .cvt x => cardCvt.check x
  | .pand x => cardPlogic.check x
  | .por x => cardPlogic.check x
  | .pxor x => cardPlogic.check x
  | .pnot x => cardPnot.check x
  | .pmov x => cardPmov.check x
  | .fadd x => cardF2.check x
  | .fsub x => cardF2.check x
  | .fmul x => cardF2.check x
  | .fma x => cardFma.check x
  | .fmin x => cardFminmax.check x
  | .fmax x => cardFminmax.check x
  | .fabs x => cardFabsneg.check x
  | .fneg x => cardFabsneg.check x
  | .fdiv x => cardF2.check x
  | .fsqrt x => cardFsqrt.check x
  | .frcp x => cardFspec.check x
  | .frsq x => cardFspec.check x
  | .ex2 x => cardFspec.check x
  | .lg2 x => cardFspec.check x
  | .fexp x => cardFspec.check x
  | .flog x => cardFspec.check x
  | .fsin x => cardFspec.check x
  | .fcos x => cardFspec.check x
  | .ftanh x => cardFspec.check x
  | .fsigm x => cardFspec.check x
  | .fcmp x => cardFcmp.check x
  | .fclass x => cardFclass.check x
  | .frnd x => cardFrnd.check x
  | .fcvt x => cardFcvt.check x
  | .f2i x => cardF2i.check x
  | .i2f x => cardI2f.check x
  | .qmax x => cardQmax.check x
  | .qscl x => cardQscl.check x
  | .qcvt x => cardQcvt.check x
  | .dqcvt x => cardDqcvt.check x
  | .fdot2 x => cardFdot2.check x
  | .flg x => cardFlg.check x
  | .ld x => cardLd.check x
  | .st x => cardSt.check x
  | .ldv x => cardLdv.check x
  | .stv x => cardStv.check x
  | .ldk x => cardLdk.check x
  | .atom x => cardAtom.check x
  | .atomc x => cardAtomc.check x
  | .red x => cardRed.check x
  | .fence x => cardFence.check x
  | .pref x => cardPref.check x
  | .probe x => cardProbe.check x
  | .prinv x => cardPrinv.check x
  | .stmc x => cardStmc.check x
  | .cctl x => cardCctl.check x
  | .lsplit x => cardLsplit.check x
  | .lsjoin x => cardLsjoin.check x
  | .vote x => cardVote.check x
  | .ballot x => cardBallot.check x
  | .shfl x => cardShfl.check x
  | .bcast x => cardBcast.check x
  | .gred x => cardGred.check x
  | .gscan x => cardGscan.check x
  | .matchEq x => cardMatch.check x
  | .elect x => cardElect.check x
  | .lmask x => cardLmask.check x
  | .lsync x => cardLsync.check x
  | .rdfl x => cardRdfl.check x
  | .tpost x => cardTpost.check x
  | .twait x => cardTwait.check x
  | .ttake x => cardTwait.check x
  | .ttst x => cardTtst.check x
  | .tmark x => cardTmark.check x
  | .tmask x => cardTmask.check x
  | .tbind x => cardTbind.check x
  | .bank x => cardBank.check x
  | .cp x => cardCp.check x
  | .cpmc x => cardCpmc.check x
  | .cpgat x => cardCpgat.check x
  | .cpst x => cardCpst.check x
  | .cpcan x => cardCpcan.check x
  | .ffcfg x => cardFfcfg.check x
  | .ffst x => cardFfst.check x
  | .sigt x => cardSigt.check x
  | .mxset x => cardMxset.check x
  | .mxseti x => cardMxseti.check x
  | .mxgo x => cardNone.check x
  | .mxab x => cardNone.check x
  | .mxst x => cardMxst.check x
  | .acld x => cardAcld.check x
  | .acst x => cardAcst.check x
  | .acclr x => cardAcclr.check x
  | .acred x => cardAcred.check x
  | .acflg x => cardAcflg.check x
  | .nsend x => cardNsend.check x
  | .ncc x => cardNcc.check x
  | .nst x => cardNcc.check x
  | .nop x => cardNone.check x
  | .rdsr x => cardRdsr.check x
  | .wrsr x => cardWrsr.check x
  | .sys x => cardSys.check x
  | .trap x => cardImm.check x
  | .brk x => cardImm.check x
  | .hint x => cardImm.check x
  | .prof x => cardProf.check x
  | .emuwr x => cardEmuwr.check x
  | .emuret x => cardNone.check x
  | .clk x => cardClk.check x
  | .binit x => cardBinit.check x
  | .barr x => cardBar.check x
  | .bwait x => cardBar.check x
  | .bsync x => cardBar.check x
  | .bdrop x => cardBar.check x
  | .bphase x => cardBphase.check x
  | .barm x => cardBarm.check x
  | .gbar x => cardBar.check x
  | .qrec x => cardQrec.check x
  | .qpush x => cardNone.check x
  | .qjoin x => cardQjoin.check x
  | .qsig x => cardQsig.check x
  | .endRun x => tCard false false false false x
  | .bra x => tCard true false false true x
  | .brc x => tCard true true false true x
  | .brx x => tCard true false true false x
  | .call x => tCard false false false true x
  | .callx x => tCard false false true false x
  | .ret x => tCard true false false false x
  | .exit x => tCard false false false false x
  | .yield x => tCard false false false false x
  | .illegalWord _ => none
  | .faultRecordWrite _ => none
  | .engineFaultDelivery _ => none
  | .debugStop _ _ _ => none
  | .awaitRelease _ _ _ => none
  | .convWaitExpiry _ _ _ => none
  | .promotion _ _ _ => none
  | .yieldExpiry _ _ _ => none
  | .lsyncRelease _ _ _ => none
  | .sysResult _ _ _ _ => none
  | .atomicPerform _ _ _ => none
  | .aliasRollback _ _ _ => none
  | .queueWake _ => none
  | .packetTake _ => none
  | .launchPacket _ => none
  | .copyPacket _ => none
  | .copyPacketSegmentEnd _ _ _ _ => none
  | .waitPacket _ => none
  | .waitComplete _ _ => none
  | .signalPacket _ => none
  | .markPacket _ => none
  | .counterPoll => none
  | .qjoinRelease _ _ _ => none
  | .childLaunch _ => none
  | .translationComplete _ _ => none
  | .polderKeyLookup _ _ _ => none
  | .hotRunCount _ => none
  | .reoptimisationStart _ => none
  | .reoptimisationComplete _ _ => none
  | .eviction => none
  | .translationCoreFailure _ _ => none
  | .teamPlacement _ _ => none
  | .quantumExpiry _ => none
  | .waitPriorityBoost _ => none
  | .parkedRestoreTimeout _ => none
  | .teamSwapOut _ => none
  | .teamRestore _ _ => none
  | .teamRetire _ => none
  | .contextCreate => none
  | .contextStart => none
  | .contextSuspend => none
  | .suspendComplete _ => none
  | .contextResume => none
  | .contextAcknowledge => none
  | .contextDestroy => none
  | .contextDestroyed _ => none
  | .contextReclaim => none
  | .faultRingHeadWrite _ => none
  | .queueEnable _ => none
  | .queueDisable _ => none
  | .kernelLoad => none
  | .kernelLoadDone _ _ => none
  | .kernelUnload _ => none
  | .profileRequest _ => none
  | .cancelLaunch _ _ => none
  | .cancelAbort _ _ => none
  | .pgRootWrite _ => none
  | .pageWalk _ => none
  | .pageReplay _ => none
  | .pageFail _ => none
  | .invalidatePage _ => none
  | .invalidateAll _ => none
  | .invalidateComplete => none
  | .counterEpoch => none
  | .migrationStart _ _ => none
  | .migrationCopyEnd _ _ => none
  | .replicaAdd _ => none
  | .replicaRemove _ => none
  | .tileArrival _ _ => none
  | .fragmentFailure _ => none
  | .probeFillComplete _ _ => none
  | .windowFillComplete _ _ => none
  | .copySegmentEnd _ _ _ => none
  | .nestStart _ _ => none
  | .kblockRetire _ _ => none
  | .acredComplete _ => none
  | .linkIrqClear => none
  | .linkReset => none
  | .linkRepair => none
  | .linkRetrain _ => none
  | .trainingSuccess _ _ => none
  | .trainingTimeout _ => none
  | .marginInterrupt _ _ _ _ => none
  | .laneFailure _ _ => none
  | .correctedErrorBurst _ => none
  | .flitRetry _ => none
  | .spillwayTimer _ => none
  | .wcAgeDrain _ _ => none
  | .remoteResponse _ _ _ => none
  | .linkTimeout _ => none
  | .endpointCreate _ => none
  | .endpointDestroy _ => none
  | .packetPlacement _ _ _ _ _ => none
  | .packetAck _ _ => none
  | .packetRefusal _ _ => none
  | .retransmit _ _ => none
  | .messageTimeout _ => none
  | .debugAttach _ => none
  | .dbgSet _ => none
  | .dbgClear _ => none
  | .debugRegisterRead => none
  | .debugRegisterWrite _ => none
  | .continueAll => none
  | .stepRun => none
  | .stopAll => none
  | .continueGroup => none
  | .samplePeriod => none
  | .packageReset => none
  | .liveUpdate => none
  | .raiseFloor => none
  | .keyCreate _ => none
  | .keyDestroy _ => none
  | .freezeMaster _ _ _ => none
  | .correctableError _ => none
  | .eccFreezeEnd _ => none
  | .uncorrectableError _ => none
  | .writebackDataError _ _ => none
  | .bankRetire _ _ => none
  | .thermalStepDown _ => none
  | .thermalStepUp _ => none
  | .clockStop _ => none
  | .clockResume _ => none
  | .thermalShutdown => none
  | .powerCapSet _ => none
  | .pldmMonitorRead _ => none
  | .registerWrite _ _ => none
  | .pgFqhHeadWrite _ => none
  | .dbgSptrHeadWrite _ => none
  | .peerPackageReset _ => none
  | .systemCoreAccess _ _ _ _ => none
  | .powerCapClockStep => none

/-- The fields of the instruction obey its card. -/
abbrev WellFormed (i : Instr) : Prop := i.wordError = none

end Sys2Proof
end

