-- ==== Sys2Proof/Decode.lean ====
section
/-!
DEFINITION. Decoding a 128-bit word to an instruction or trailer, rejecting by name (R42 to R47, R53, R54, R58, R59),
and the encoder from the same tables.
-/
namespace Sys2Proof

/-! ### Operand fields (R44) -/

/-- The special register at an index of bank 5; none for an index R74 does not list. -/
def SReg.ofIndex : Nat → Option SReg
  | 0 => some .lane | 1 => some .group | 2 => some .ngroup | 3 => some .tidx | 4 => some .tidy | 5 => some .tidz
  | 6 => some .teamx | 7 => some .teamy | 8 => some .teamz | 9 => some .gridx | 10 => some .gridy | 11 => some .gridz
  | 12 => some .role | 13 => some .teamh | 14 => some .core | 15 => some .die | 16 => some .pkg | 17 => some .ctx
  | 18 => some .clk | 19 => some .fflg | 20 => some .seed | 21 => some .lmask
  | 32 => some .emuop | 33 => some .emucls | 34 => some .emutyp | 35 => some .emumod | 36 => some .emudst
  | 37 => some .emusa | 38 => some .emusb | 39 => some .emusc | 40 => some .emuimm | 41 => some .emupc
  | _ => none

/-- Index of a special register in bank 5 (R74). -/
def SReg.index : SReg → Nat
  | .lane => 0 | .group => 1 | .ngroup => 2 | .tidx => 3 | .tidy => 4 | .tidz => 5
  | .teamx => 6 | .teamy => 7 | .teamz => 8 | .gridx => 9 | .gridy => 10 | .gridz => 11
  | .role => 12 | .teamh => 13 | .core => 14 | .die => 15 | .pkg => 16 | .ctx => 17
  | .clk => 18 | .fflg => 19 | .seed => 20 | .lmask => 21
  | .emuop => 32 | .emucls => 33 | .emutyp => 34 | .emumod => 35 | .emudst => 36
  | .emusa => 37 | .emusb => 38 | .emusc => 39 | .emuimm => 40 | .emupc => 41

/-- A number below a bound. -/
def finOf (n k : Nat) : Option (Fin n) := if h : k < n then some ⟨k, h⟩ else none

/-- The fixed register at `idx` of `bank` (R44). -/
def fixedOf (bank idx : Nat) : Option Opd :=
  match bank with
  | 0 => (finOf 16 idx).map .t
  | 1 => (finOf 8 idx).map .p
  | 2 => (finOf 8 idx).map .ls
  | 3 => (finOf 16 idx).map .s
  | 4 => (finOf 16 idx).map .b
  | 5 => (SReg.ofIndex idx).map .sr
  | 6 => (finOf 4 idx).map .a
  | 7 => (finOf 8 idx).map .f
  | 8 => (finOf 20 idx).map .nx
  | 63 => if idx = 0 then some .z else none
  | _ => none

/-- The operand a 20-bit field names; none for a reserved KIND, bank or index (R44). -/
def Opd.ofBits (b : BitVec 20) : Option Opd :=
  let low : BitVec 18 := b.extractLsb' 0 18
  match (b.extractLsb' 18 2).toNat with
  | 0 => some (.v low)
  | 1 => some (.g low)
  | 2 => fixedOf (low.extractLsb' 12 6).toNat (low.extractLsb' 0 12).toNat
  | _ => some (.imm low)

/-- The field of a fixed register. -/
def fixedBits (bank idx : Nat) : BitVec 20 :=
  (2 : BitVec 2) ++ (BitVec.ofNat 6 bank) ++ (BitVec.ofNat 12 idx)

/-- The 20-bit field of an operand (R44). -/
def Opd.bits : Opd → BitVec 20
  | .v n => (0 : BitVec 2) ++ n
  | .g n => (1 : BitVec 2) ++ n
  | .t i => fixedBits 0 i.val
  | .p i => fixedBits 1 i.val
  | .ls i => fixedBits 2 i.val
  | .s i => fixedBits 3 i.val
  | .b i => fixedBits 4 i.val
  | .sr r => fixedBits 5 r.index
  | .a i => fixedBits 6 i.val
  | .f i => fixedBits 7 i.val
  | .nx i => fixedBits 8 i.val
  | .z => fixedBits 63 0
  | .imm x => (3 : BitVec 2) ++ x

/-! ### Words (R42, R43, R53) -/

/-- A format-R word from its class, opcode and fields. -/
def packR (cls : BitVec 3) (opc : BitVec 10) (x : RWord) : Word :=
  BitVec.ofBool x.dbg ++ cls ++ opc ++ BitVec.ofNat 6 x.typ.code ++ x.mod ++ x.grd ++
    x.dst.bits ++ x.sa.bits ++ x.sb.bits ++ x.sc.bits ++ x.aux

/-- A format-I word from its class, opcode and fields. -/
def packI (cls : BitVec 3) (opc : BitVec 10) (x : IWord) : Word :=
  BitVec.ofBool x.dbg ++ cls ++ opc ++ BitVec.ofNat 6 x.typ.code ++ x.mod ++ x.grd ++
    x.dst.bits ++ x.sa.bits ++ x.sb.bits ++ x.imm ++ x.aux6

/-- A trailer word from its kind and fields. -/
def packT (tk : BitVec 4) (x : TWord) : Word :=
  BitVec.ofBool x.dbg ++ (7 : BitVec 3) ++ tk ++ x.await ++ x.grd ++
    (if x.conv then (1 : BitVec 2) else (0 : BitVec 2)) ++ x.reg.bits ++ (0 : BitVec 46) ++ x.tgt

/-- The fields of a format-R word, or the first reserved type or operand (R44, R46). -/
def parseR (w : Word) : Except WordError RWord :=
  match Typ.ofCode (w.extractLsb' 108 6).toNat with
  | none => .error .reservedType
  | some typ =>
    match Opd.ofBits (w.extractLsb' 78 20), Opd.ofBits (w.extractLsb' 58 20),
          Opd.ofBits (w.extractLsb' 38 20), Opd.ofBits (w.extractLsb' 18 20) with
    | some dst, some sa, some sb, some sc =>
      .ok { dbg := w.getLsbD 127, typ := typ, mod := w.extractLsb' 102 6, grd := w.extractLsb' 98 4,
            dst := dst, sa := sa, sb := sb, sc := sc, aux := w.extractLsb' 0 18 }
    | _, _, _, _ => .error .reservedOperand

/-- The fields of a format-I word, or the first reserved type or operand (R44, R46). -/
def parseI (w : Word) : Except WordError IWord :=
  match Typ.ofCode (w.extractLsb' 108 6).toNat with
  | none => .error .reservedType
  | some typ =>
    match Opd.ofBits (w.extractLsb' 78 20), Opd.ofBits (w.extractLsb' 58 20),
          Opd.ofBits (w.extractLsb' 38 20) with
    | some dst, some sa, some sb =>
      .ok { dbg := w.getLsbD 127, typ := typ, mod := w.extractLsb' 102 6, grd := w.extractLsb' 98 4,
            dst := dst, sa := sa, sb := sb, imm := w.extractLsb' 6 32, aux6 := w.extractLsb' 0 6 }
    | _, _, _ => .error .reservedOperand

/-- The fields of a trailer word (R53). -/
def parseT (w : Word) : Except WordError TWord :=
  match Opd.ofBits (w.extractLsb' 78 20) with
  | none => .error .malformedTrailer
  | some reg =>
    if w.extractLsb' 32 46 != 0 || w.getLsbD 99 then .error .malformedTrailer
    else .ok { dbg := w.getLsbD 127, await := w.extractLsb' 104 16, grd := w.extractLsb' 100 4,
               conv := w.getLsbD 98, reg := reg, tgt := w.extractLsb' 0 32 }

/-- What an opcode stands for: its format and constructor. -/
inductive Form where
  | r (mk : RWord → Instr)
  | i (mk : IWord → Instr)

/-- The opcodes of class 0 (R58). -/
def ops0 : Nat → Option Form
  | 0x000 => some (.r .mov)
  | 0x001 => some (.i .movi)
  | 0x002 => some (.r .add)
  | 0x003 => some (.r .sub)
  | 0x004 => some (.r .neg)
  | 0x005 => some (.r .abs)
  | 0x006 => some (.r .min)
  | 0x007 => some (.r .max)
  | 0x008 => some (.r .mul)
  | 0x009 => some (.r .mulhi)
  | 0x00A => some (.r .mad)
  | 0x00B => some (.r .madw)
  | 0x00C => some (.r .div)
  | 0x00D => some (.r .rem)
  | 0x00E => some (.r .sad)
  | 0x00F => some (.r .dot4)
  | 0x010 => some (.r .and)
  | 0x011 => some (.r .or)
  | 0x012 => some (.r .xor)
  | 0x013 => some (.r .not)
  | 0x014 => some (.r .andn)
  | 0x015 => some (.r .shl)
  | 0x016 => some (.r .shr)
  | 0x017 => some (.r .sar)
  | 0x018 => some (.r .rot)
  | 0x019 => some (.r .bfx)
  | 0x01A => some (.r .bfi)
  | 0x01B => some (.r .popc)
  | 0x01C => some (.r .clz)
  | 0x01D => some (.r .ctz)
  | 0x01E => some (.r .brev)
  | 0x01F => some (.r .perm)
  | 0x020 => some (.r .swz)
  | 0x021 => some (.r .pack)
  | 0x022 => some (.r .unpk)
  | 0x023 => some (.i .lea)
  | 0x024 => some (.r .sel)
  | 0x025 => some (.r .cmp)
  | 0x026 => some (.r .cmpv)
  | 0x027 => some (.r .cvt)
  | 0x028 => some (.r .pand)
  | 0x029 => some (.r .por)
  | 0x02A => some (.r .pxor)
  | 0x02B => some (.r .pnot)
  | 0x02C => some (.r .pmov)
  | _ => none

/-- The opcodes of class 1 (R58). -/
def ops1 : Nat → Option Form
  | 0x000 => some (.r .fadd)
  | 0x001 => some (.r .fsub)
  | 0x002 => some (.r .fmul)
  | 0x003 => some (.r .fma)
  | 0x004 => some (.r .fmin)
  | 0x005 => some (.r .fmax)
  | 0x006 => some (.r .fabs)
  | 0x007 => some (.r .fneg)
  | 0x008 => some (.r .fdiv)
  | 0x009 => some (.r .fsqrt)
  | 0x00A => some (.r .frcp)
  | 0x00B => some (.r .frsq)
  | 0x00C => some (.r .ex2)
  | 0x00D => some (.r .lg2)
  | 0x00E => some (.r .fexp)
  | 0x00F => some (.r .flog)
  | 0x010 => some (.r .fsin)
  | 0x011 => some (.r .fcos)
  | 0x012 => some (.r .ftanh)
  | 0x013 => some (.r .fsigm)
  | 0x014 => some (.r .fcmp)
  | 0x015 => some (.r .fclass)
  | 0x016 => some (.r .frnd)
  | 0x017 => some (.r .fcvt)
  | 0x018 => some (.r .f2i)
  | 0x019 => some (.r .i2f)
  | 0x01A => some (.r .qmax)
  | 0x01B => some (.r .qscl)
  | 0x01C => some (.r .qcvt)
  | 0x01D => some (.r .dqcvt)
  | 0x01E => some (.r .fdot2)
  | 0x01F => some (.r .flg)
  | _ => none

/-- The opcodes of class 2 (R58). -/
def ops2 : Nat → Option Form
  | 0x000 => some (.i .ld)
  | 0x001 => some (.i .st)
  | 0x002 => some (.i .ldv)
  | 0x003 => some (.i .stv)
  | 0x004 => some (.i .ldk)
  | 0x005 => some (.r .atom)
  | 0x006 => some (.r .atomc)
  | 0x007 => some (.r .red)
  | 0x008 => some (.r .fence)
  | 0x009 => some (.i .pref)
  | 0x00A => some (.i .probe)
  | 0x00B => some (.r .prinv)
  | 0x00C => some (.i .stmc)
  | 0x00D => some (.r .cctl)
  | _ => none

/-- The opcodes of class 3 (R58). -/
def ops3 : Nat → Option Form
  | 0x000 => some (.r .lsplit)
  | 0x001 => some (.r .lsjoin)
  | 0x002 => some (.r .vote)
  | 0x003 => some (.r .ballot)
  | 0x004 => some (.r .shfl)
  | 0x005 => some (.r .bcast)
  | 0x006 => some (.r .gred)
  | 0x007 => some (.r .gscan)
  | 0x008 => some (.r .matchEq)
  | 0x009 => some (.r .elect)
  | 0x00A => some (.r .lmask)
  | 0x00B => some (.r .lsync)
  | 0x00C => some (.r .rdfl)
  | _ => none

/-- The opcodes of class 4 (R58). -/
def ops4 : Nat → Option Form
  | 0x000 => some (.r .tpost)
  | 0x001 => some (.r .twait)
  | 0x002 => some (.r .ttake)
  | 0x003 => some (.r .ttst)
  | 0x004 => some (.r .tmark)
  | 0x005 => some (.r .tmask)
  | 0x006 => some (.r .tbind)
  | 0x007 => some (.r .bank)
  | 0x100 => some (.r .cp)
  | 0x101 => some (.r .cpmc)
  | 0x102 => some (.r .cpgat)
  | 0x103 => some (.r .cpst)
  | 0x104 => some (.r .cpcan)
  | 0x105 => some (.r .ffcfg)
  | 0x106 => some (.r .ffst)
  | 0x107 => some (.r .sigt)
  | 0x200 => some (.r .mxset)
  | 0x201 => some (.i .mxseti)
  | 0x202 => some (.r .mxgo)
  | 0x203 => some (.r .mxab)
  | 0x204 => some (.r .mxst)
  | 0x205 => some (.r .acld)
  | 0x206 => some (.r .acst)
  | 0x207 => some (.r .acclr)
  | 0x208 => some (.r .acred)
  | 0x209 => some (.r .acflg)
  | 0x300 => some (.r .nsend)
  | 0x301 => some (.r .ncc)
  | 0x302 => some (.r .nst)
  | _ => none

/-- The opcodes of class 5 (R58). -/
def ops5 : Nat → Option Form
  | 0x000 => some (.r .nop)
  | 0x001 => some (.r .rdsr)
  | 0x002 => some (.r .wrsr)
  | 0x003 => some (.i .sys)
  | 0x004 => some (.i .trap)
  | 0x005 => some (.i .brk)
  | 0x006 => some (.i .hint)
  | 0x007 => some (.r .prof)
  | 0x008 => some (.r .emuwr)
  | 0x009 => some (.r .emuret)
  | 0x00A => some (.r .clk)
  | 0x100 => some (.r .binit)
  | 0x101 => some (.r .barr)
  | 0x102 => some (.r .bwait)
  | 0x103 => some (.r .bsync)
  | 0x104 => some (.r .bdrop)
  | 0x105 => some (.r .bphase)
  | 0x106 => some (.r .barm)
  | 0x107 => some (.r .gbar)
  | 0x200 => some (.r .qrec)
  | 0x201 => some (.r .qpush)
  | 0x202 => some (.r .qjoin)
  | 0x203 => some (.r .qsig)
  | _ => none

/-- The trailer kinds (R54). -/
def trailerOf : Nat → Option (TWord → Instr)
  | 0 => some .endRun
  | 1 => some .bra
  | 2 => some .brc
  | 3 => some .brx
  | 4 => some .call
  | 5 => some .callx
  | 6 => some .ret
  | 7 => some .exit
  | 8 => some .yield
  | _ => none

/-- What a class and opcode stand for (R58). -/
def formOf (cls opc : Nat) : Except WordError Form :=
  let row := match cls with
    | 0 => ops0 opc | 1 => ops1 opc | 2 => ops2 opc | 3 => ops3 opc | 4 => ops4 opc | 5 => ops5 opc
    | _ => none
  match row with
  | some f => .ok f
  | none => .error (if cls = 6 then .reservedClass else .unassignedOpcode)

/-- The instruction, if it obeys its card. -/
def checked (i : Instr) : Except WordError Instr :=
  match i.wordError with
  | none => .ok i
  | some e => .error e

/-- Is the word a trailer (R42, R53)? -/
def isTrailerWord (w : Word) : Bool := w.extractLsb' 124 3 == 7

/-- The instruction or trailer a word stands for, or the name of what it breaks. -/
def decode (w : Word) : Except WordError Instr :=
  if isTrailerWord w then
    match trailerOf (w.extractLsb' 120 4).toNat with
    | none => .error .malformedTrailer
    | some mk =>
      match parseT w with
      | .ok x => checked (mk x)
      | .error e => .error e
  else
    match formOf (w.extractLsb' 124 3).toNat (w.extractLsb' 114 10).toNat with
    | .error e => .error e
    | .ok (.r mk) =>
      match parseR w with
      | .ok x => checked (mk x)
      | .error e => .error e
    | .ok (.i mk) =>
      match parseI w with
      | .ok x => checked (mk x)
      | .error e => .error e

/-- What issuing a non-trailer word executes: the instruction, or an illegal word (R59). -/
def decodeRun (w : Word) : Instr :=
  match decode w with
  | .ok i => i
  | .error _ => .illegalWord w

/-- A word from its sixteen bytes, lowest address first (R5, R42). -/
def wordOfBytes (bs : List Byte) : Nat := bs.foldr (fun b acc => b.toNat + 256 * acc) 0

/-- The bytes of a word, lowest address first (R5, R42). -/
def bytesOfWord (w : Word) : List Byte :=
  [0, 1, 2, 3, 4, 5, 6, 7, 8, 9, 10, 11, 12, 13, 14, 15].map (fun k => w.extractLsb' (8 * k) 8)

/-- The word at the head of a byte stream and the rest; none for fewer than sixteen bytes. -/
def decodeBytes (bs : List Byte) : Option (Except WordError Instr × List Byte) :=
  if bs.length < 16 then none
  else some (decode (BitVec.ofNat 128 (wordOfBytes (bs.take 16))), bs.drop 16)

/-- The instruction the decoder reads from `nbits` bits, bit 0 the least significant; the bits above are zero. -/
def decodeTableWord (nbits w : Nat) : Option Instr :=
  match decode (BitVec.ofNat 128 (w % 2 ^ nbits)) with
  | .ok i => some i
  | .error _ => none

/-! ### Encoding -/

/-- The word of an instruction or trailer (R42, R53, R58); events have none. -/
def encode : Instr → Option Word
  | .mov x => some (packR 0 0x000 x)
  | .movi x => some (packI 0 0x001 x)
  | .add x => some (packR 0 0x002 x)
  | .sub x => some (packR 0 0x003 x)
  | .neg x => some (packR 0 0x004 x)
  | .abs x => some (packR 0 0x005 x)
  | .min x => some (packR 0 0x006 x)
  | .max x => some (packR 0 0x007 x)
  | .mul x => some (packR 0 0x008 x)
  | .mulhi x => some (packR 0 0x009 x)
  | .mad x => some (packR 0 0x00A x)
  | .madw x => some (packR 0 0x00B x)
  | .div x => some (packR 0 0x00C x)
  | .rem x => some (packR 0 0x00D x)
  | .sad x => some (packR 0 0x00E x)
  | .dot4 x => some (packR 0 0x00F x)
  | .and x => some (packR 0 0x010 x)
  | .or x => some (packR 0 0x011 x)
  | .xor x => some (packR 0 0x012 x)
  | .not x => some (packR 0 0x013 x)
  | .andn x => some (packR 0 0x014 x)
  | .shl x => some (packR 0 0x015 x)
  | .shr x => some (packR 0 0x016 x)
  | .sar x => some (packR 0 0x017 x)
  | .rot x => some (packR 0 0x018 x)
  | .bfx x => some (packR 0 0x019 x)
  | .bfi x => some (packR 0 0x01A x)
  | .popc x => some (packR 0 0x01B x)
  | .clz x => some (packR 0 0x01C x)
  | .ctz x => some (packR 0 0x01D x)
  | .brev x => some (packR 0 0x01E x)
  | .perm x => some (packR 0 0x01F x)
  | .swz x => some (packR 0 0x020 x)
  | .pack x => some (packR 0 0x021 x)
  | .unpk x => some (packR 0 0x022 x)
  | .lea x => some (packI 0 0x023 x)
  | .sel x => some (packR 0 0x024 x)
  | .cmp x => some (packR 0 0x025 x)
  | .cmpv x => some (packR 0 0x026 x)
  | .cvt x => some (packR 0 0x027 x)
  | .pand x => some (packR 0 0x028 x)
  | .por x => some (packR 0 0x029 x)
  | .pxor x => some (packR 0 0x02A x)
  | .pnot x => some (packR 0 0x02B x)
  | .pmov x => some (packR 0 0x02C x)
  | .fadd x => some (packR 1 0x000 x)
  | .fsub x => some (packR 1 0x001 x)
  | .fmul x => some (packR 1 0x002 x)
  | .fma x => some (packR 1 0x003 x)
  | .fmin x => some (packR 1 0x004 x)
  | .fmax x => some (packR 1 0x005 x)
  | .fabs x => some (packR 1 0x006 x)
  | .fneg x => some (packR 1 0x007 x)
  | .fdiv x => some (packR 1 0x008 x)
  | .fsqrt x => some (packR 1 0x009 x)
  | .frcp x => some (packR 1 0x00A x)
  | .frsq x => some (packR 1 0x00B x)
  | .ex2 x => some (packR 1 0x00C x)
  | .lg2 x => some (packR 1 0x00D x)
  | .fexp x => some (packR 1 0x00E x)
  | .flog x => some (packR 1 0x00F x)
  | .fsin x => some (packR 1 0x010 x)
  | .fcos x => some (packR 1 0x011 x)
  | .ftanh x => some (packR 1 0x012 x)
  | .fsigm x => some (packR 1 0x013 x)
  | .fcmp x => some (packR 1 0x014 x)
  | .fclass x => some (packR 1 0x015 x)
  | .frnd x => some (packR 1 0x016 x)
  | .fcvt x => some (packR 1 0x017 x)
  | .f2i x => some (packR 1 0x018 x)
  | .i2f x => some (packR 1 0x019 x)
  | .qmax x => some (packR 1 0x01A x)
  | .qscl x => some (packR 1 0x01B x)
  | .qcvt x => some (packR 1 0x01C x)
  | .dqcvt x => some (packR 1 0x01D x)
  | .fdot2 x => some (packR 1 0x01E x)
  | .flg x => some (packR 1 0x01F x)
  | .ld x => some (packI 2 0x000 x)
  | .st x => some (packI 2 0x001 x)
  | .ldv x => some (packI 2 0x002 x)
  | .stv x => some (packI 2 0x003 x)
  | .ldk x => some (packI 2 0x004 x)
  | .atom x => some (packR 2 0x005 x)
  | .atomc x => some (packR 2 0x006 x)
  | .red x => some (packR 2 0x007 x)
  | .fence x => some (packR 2 0x008 x)
  | .pref x => some (packI 2 0x009 x)
  | .probe x => some (packI 2 0x00A x)
  | .prinv x => some (packR 2 0x00B x)
  | .stmc x => some (packI 2 0x00C x)
  | .cctl x => some (packR 2 0x00D x)
  | .lsplit x => some (packR 3 0x000 x)
  | .lsjoin x => some (packR 3 0x001 x)
  | .vote x => some (packR 3 0x002 x)
  | .ballot x => some (packR 3 0x003 x)
  | .shfl x => some (packR 3 0x004 x)
  | .bcast x => some (packR 3 0x005 x)
  | .gred x => some (packR 3 0x006 x)
  | .gscan x => some (packR 3 0x007 x)
  | .matchEq x => some (packR 3 0x008 x)
  | .elect x => some (packR 3 0x009 x)
  | .lmask x => some (packR 3 0x00A x)
  | .lsync x => some (packR 3 0x00B x)
  | .rdfl x => some (packR 3 0x00C x)
  | .tpost x => some (packR 4 0x000 x)
  | .twait x => some (packR 4 0x001 x)
  | .ttake x => some (packR 4 0x002 x)
  | .ttst x => some (packR 4 0x003 x)
  | .tmark x => some (packR 4 0x004 x)
  | .tmask x => some (packR 4 0x005 x)
  | .tbind x => some (packR 4 0x006 x)
  | .bank x => some (packR 4 0x007 x)
  | .cp x => some (packR 4 0x100 x)
  | .cpmc x => some (packR 4 0x101 x)
  | .cpgat x => some (packR 4 0x102 x)
  | .cpst x => some (packR 4 0x103 x)
  | .cpcan x => some (packR 4 0x104 x)
  | .ffcfg x => some (packR 4 0x105 x)
  | .ffst x => some (packR 4 0x106 x)
  | .sigt x => some (packR 4 0x107 x)
  | .mxset x => some (packR 4 0x200 x)
  | .mxseti x => some (packI 4 0x201 x)
  | .mxgo x => some (packR 4 0x202 x)
  | .mxab x => some (packR 4 0x203 x)
  | .mxst x => some (packR 4 0x204 x)
  | .acld x => some (packR 4 0x205 x)
  | .acst x => some (packR 4 0x206 x)
  | .acclr x => some (packR 4 0x207 x)
  | .acred x => some (packR 4 0x208 x)
  | .acflg x => some (packR 4 0x209 x)
  | .nsend x => some (packR 4 0x300 x)
  | .ncc x => some (packR 4 0x301 x)
  | .nst x => some (packR 4 0x302 x)
  | .nop x => some (packR 5 0x000 x)
  | .rdsr x => some (packR 5 0x001 x)
  | .wrsr x => some (packR 5 0x002 x)
  | .sys x => some (packI 5 0x003 x)
  | .trap x => some (packI 5 0x004 x)
  | .brk x => some (packI 5 0x005 x)
  | .hint x => some (packI 5 0x006 x)
  | .prof x => some (packR 5 0x007 x)
  | .emuwr x => some (packR 5 0x008 x)
  | .emuret x => some (packR 5 0x009 x)
  | .clk x => some (packR 5 0x00A x)
  | .binit x => some (packR 5 0x100 x)
  | .barr x => some (packR 5 0x101 x)
  | .bwait x => some (packR 5 0x102 x)
  | .bsync x => some (packR 5 0x103 x)
  | .bdrop x => some (packR 5 0x104 x)
  | .bphase x => some (packR 5 0x105 x)
  | .barm x => some (packR 5 0x106 x)
  | .gbar x => some (packR 5 0x107 x)
  | .qrec x => some (packR 5 0x200 x)
  | .qpush x => some (packR 5 0x201 x)
  | .qjoin x => some (packR 5 0x202 x)
  | .qsig x => some (packR 5 0x203 x)
  | .endRun x => some (packT 0 x)
  | .bra x => some (packT 1 x)
  | .brc x => some (packT 2 x)
  | .brx x => some (packT 3 x)
  | .call x => some (packT 4 x)
  | .callx x => some (packT 5 x)
  | .ret x => some (packT 6 x)
  | .exit x => some (packT 7 x)
  | .yield x => some (packT 8 x)
  | .illegalWord _ => none
  | .faultRecordWrite _ => none
  | .engineFaultDelivery _ => none
  | .debugStop _ _ _ => none
  | .awaitRelease _ _ _ => none
  | .convWaitExpiry _ _ _ => none
  | .promotion _ _ _ => none
  | .yieldExpiry _ _ _ => none
  | .lsyncRelease _ _ _ => none
  | .sysResult _ _ _ _ => none
  | .atomicPerform _ _ _ => none
  | .aliasRollback _ _ _ => none
  | .queueWake _ => none
  | .packetTake _ => none
  | .launchPacket _ => none
  | .copyPacket _ => none
  | .copyPacketSegmentEnd _ _ _ _ => none
  | .waitPacket _ => none
  | .waitComplete _ _ => none
  | .signalPacket _ => none
  | .markPacket _ => none
  | .counterPoll => none
  | .qjoinRelease _ _ _ => none
  | .childLaunch _ => none
  | .translationComplete _ _ => none
  | .polderKeyLookup _ _ _ => none
  | .hotRunCount _ => none
  | .reoptimisationStart _ => none
  | .reoptimisationComplete _ _ => none
  | .eviction => none
  | .translationCoreFailure _ _ => none
  | .teamPlacement _ _ => none
  | .quantumExpiry _ => none
  | .waitPriorityBoost _ => none
  | .parkedRestoreTimeout _ => none
  | .teamSwapOut _ => none
  | .teamRestore _ _ => none
  | .teamRetire _ => none
  | .contextCreate => none
  | .contextStart => none
  | .contextSuspend => none
  | .suspendComplete _ => none
  | .contextResume => none
  | .contextAcknowledge => none
  | .contextDestroy => none
  | .contextDestroyed _ => none
  | .contextReclaim => none
  | .faultRingHeadWrite _ => none
  | .queueEnable _ => none
  | .queueDisable _ => none
  | .kernelLoad => none
  | .kernelLoadDone _ _ => none
  | .kernelUnload _ => none
  | .profileRequest _ => none
  | .cancelLaunch _ _ => none
  | .cancelAbort _ _ => none
  | .pgRootWrite _ => none
  | .pageWalk _ => none
  | .pageReplay _ => none
  | .pageFail _ => none
  | .invalidatePage _ => none
  | .invalidateAll _ => none
  | .invalidateComplete => none
  | .counterEpoch => none
  | .migrationStart _ _ => none
  | .migrationCopyEnd _ _ => none
  | .replicaAdd _ => none
  | .replicaRemove _ => none
  | .tileArrival _ _ => none
  | .fragmentFailure _ => none
  | .probeFillComplete _ _ => none
  | .windowFillComplete _ _ => none
  | .copySegmentEnd _ _ _ => none
  | .nestStart _ _ => none
  | .kblockRetire _ _ => none
  | .acredComplete _ => none
  | .linkIrqClear => none
  | .linkReset => none
  | .linkRepair => none
  | .linkRetrain _ => none
  | .trainingSuccess _ _ => none
  | .trainingTimeout _ => none
  | .marginInterrupt _ _ _ _ => none
  | .laneFailure _ _ => none
  | .correctedErrorBurst _ => none
  | .flitRetry _ => none
  | .spillwayTimer _ => none
  | .wcAgeDrain _ _ => none
  | .remoteResponse _ _ _ => none
  | .linkTimeout _ => none
  | .endpointCreate _ => none
  | .endpointDestroy _ => none
  | .packetPlacement _ _ _ _ _ => none
  | .packetAck _ _ => none
  | .packetRefusal _ _ => none
  | .retransmit _ _ => none
  | .messageTimeout _ => none
  | .debugAttach _ => none
  | .dbgSet _ => none
  | .dbgClear _ => none
  | .debugRegisterRead => none
  | .debugRegisterWrite _ => none
  | .continueAll => none
  | .stepRun => none
  | .stopAll => none
  | .continueGroup => none
  | .samplePeriod => none
  | .packageReset => none
  | .liveUpdate => none
  | .raiseFloor => none
  | .keyCreate _ => none
  | .keyDestroy _ => none
  | .freezeMaster _ _ _ => none
  | .correctableError _ => none
  | .eccFreezeEnd _ => none
  | .uncorrectableError _ => none
  | .writebackDataError _ _ => none
  | .bankRetire _ _ => none
  | .thermalStepDown _ => none
  | .thermalStepUp _ => none
  | .clockStop _ => none
  | .clockResume _ => none
  | .thermalShutdown => none
  | .powerCapSet _ => none
  | .pldmMonitorRead _ => none
  | .registerWrite _ _ => none
  | .pgFqhHeadWrite _ => none
  | .dbgSptrHeadWrite _ => none
  | .peerPackageReset _ => none
  | .systemCoreAccess _ _ _ _ => none
  | .powerCapClockStep => none

end Sys2Proof
end

