-- ==== Sys2Proof/Config.lean ====
section
/-!
DEFINITION. What an implementation fixes and the spec leaves open. Each constant has no body: a statement about it
holds for every value it may have.
-/
namespace Sys2Proof.Config

/-- A free 64-bit value, drawn with the counter `State.free`: an unpredictable value (R3), bounded by its user.
(DESIGN CHOICE, log entry 9) -/
opaque freeWord : Nat → BitVec 64

/-- A free natural number, drawn with the counter `State.free`: a choice the spec leaves to the device.
(DESIGN CHOICE, log entry 9) -/
opaque freeNat : Nat → Nat

/-- A free natural number for a key under a draw: one choice for each pair. (DESIGN CHOICE, log entry 9) -/
opaque freePick : Nat → Nat → Nat

/-- Data lanes and repair lanes of an HBM4 channel, which HBM4 defines (R304); together at most 128.
(DESIGN CHOICE, log entry 13) -/
opaque hbmLanes : Nat
/-- (DESIGN CHOICE, log entry 13) -/
opaque hbmRepair : Nat

/-- Whether a polder link's lane carries traffic at a reduced width: width and lane (R304).
(DEDUCED, log entry 47) -/
opaque narrowLane : Nat → Nat → Bool

/-- What the resident operating system answers to a `sys` (R78), and a byte of another package's team scratch (R194), by time
or access and place. (DESIGN CHOICE, log entry 55) -/
opaque service : Nat → Nat → BitVec 64
opaque farByte : Nat → Nat → BitVec 8

/-- What another package's team table says of an aperture address (R194, R226), by draw and address.
(DEDUCED, log entry 33) -/
opaque farTeam : Nat → Nat → Nat

/-- What the security monitor fixes at boot: the windows `FW_WIN0` to `FW_WIN7`, the egress allowlist as leading bits of a
128-bit address with their count, and the rate limit of each port (R325, R340, R344). (DESIGN CHOICE, log entry 7) -/
opaque window : Nat → BitVec 64
/-- The places, by offset in the package and length, that the spec gives no address: the monitor's memory, and the memory of the
translator; and the bytes of the update area from AREA of `FW_UPD` on (R17, R343, R344). (DESIGN CHOICE, log entry 7) -/
opaque monitorMemory : List (Nat × Nat)
opaque translatorMemory : List (Nat × Nat)
opaque areaBytes : Nat
opaque allowlist : List (Nat × Nat)
opaque portRate : Nat → Nat

end Sys2Proof.Config
end

