-- ==== Sys2Proof/Machine/Arith.lean ====
section
/-!
DEFINITION. Integer and raw-bit elements of a register and the arithmetic of class 0b000 on their values (R23 to R25,
R150 to R170), without machine state.
-/
namespace Sys2Proof.Machine

/-- Element width of a type in bits (R46, R150). -/
def tyWidth : Typ → Nat
  | .i8 | .n8 | .b8 | .md8 | .i8x8 | .n8x8 | .md8x8 => 8
  | .i16 | .n16 | .b16 | .f16 | .bf16 | .s16 | .i16x4 | .n16x4 | .f16x4 | .bf16x4 => 16
  | .i32 | .n32 | .b32 | .f32 | .i32x2 | .n32x2 | .f32x2 => 32
  | .i64 | .n64 | .b64 | .f64 => 64

/-- Is the type packed (R150)? -/
def tyPacked (t : Typ) : Bool := tP t || tH t || t == .md8x8

/-- Elements of a type: 1 for a scalar, 64 ÷ w for a packed type (R150). -/
def tyElems (t : Typ) : Nat := if tyPacked t then 64 / tyWidth t else 1

/-- Width in bytes of a memory access of the type; 8 for a packed type (R214). -/
def tyBytes (t : Typ) : Nat := if tyPacked t then 8 else tyWidth t / 8

/-- Elements are read as two's complement (R150). -/
def tySigned (t : Typ) : Bool := tI t || tPs t

/-- Lo(T). -/
def tyLo (t : Typ) : Int := if tySigned t then -(2 ^ (tyWidth t - 1)) else 0
/-- Hi(T). -/
def tyHi (t : Typ) : Int := if tySigned t then 2 ^ (tyWidth t - 1) - 1 else 2 ^ tyWidth t - 1

/-- Raw bits of element `e` of width `w`. -/
def elemBits (w e : Nat) (r : Reg) : Nat := fieldOf r.toNat (w * e) w

/-- A `w`-bit pattern read as two's complement. -/
def signedOf (w n : Nat) : Int := if n < 2 ^ (w - 1) then n else (n : Int) - 2 ^ w

/-- A `w`-bit pattern read with a signedness. -/
def intOf (sgn : Bool) (w n : Nat) : Int := if sgn then signedOf w n else n

/-- Element `e` of a register as an exact integer of the type (R150). -/
def elemInt (t : Typ) (e : Nat) (r : Reg) : Int := intOf (tySigned t) (tyWidth t) (elemBits (tyWidth t) e r)

/-- The `w`-bit pattern of an integer modulo 2^w. -/
def wrapBits (w : Nat) (v : Int) : Nat := (v % 2 ^ w).toNat

/-- A scalar result of width `w`: sign-filled for `i` types and zero-filled for others (R24). -/
def fillReg (sgn : Bool) (w n : Nat) : Reg :=
  if sgn then BitVec.ofInt 64 (signedOf w (n % 2 ^ w)) else BitVec.ofNat 64 (n % 2 ^ w)

/-- A scalar bit pattern written under R24 with the type's fill. -/
def scalarReg (t : Typ) (n : Nat) : Reg := fillReg (tySigned t) (tyWidth t) n

/-- Elements of width `w` placed from bit 0 up (R5). -/
def packElems (w : Nat) (vals : List Nat) : Reg :=
  BitVec.ofNat 64 (vals.foldr (fun v acc => v % 2 ^ w + 2 ^ w * acc) 0)

/-- A result of the type from its element patterns (R24). -/
def resultReg (t : Typ) (vals : List Nat) : Reg :=
  if tyPacked t then packElems (tyWidth t) vals else scalarReg t (vals.headD 0)

/-- Value and SAT flag of an element. -/
abbrev Fitted := Nat × Bool

/-- Clamp into a range. -/
def clampInt (lo hi v : Int) : Int := if v < lo then lo else if hi < v then hi else v

/-- Fit an exact integer to a width and signedness: clamped under `.sat`, else modulo 2^w (R25, R152). -/
def fitTo (sgn : Bool) (w : Nat) (sat : Bool) (v : Int) : Fitted :=
  if sat then
    let lo : Int := if sgn then -(2 ^ (w - 1)) else 0
    let hi : Int := if sgn then 2 ^ (w - 1) - 1 else 2 ^ w - 1
    (wrapBits w (clampInt lo hi v), decide (clampInt lo hi v ≠ v))
  else (wrapBits w v, false)

/-- Fit an exact integer to a type (R152). -/
def fit (t : Typ) (sat : Bool) (v : Int) : Fitted := fitTo (tySigned t) (tyWidth t) sat v

/-- A register result and whether SAT was raised. -/
structure IntRes where
  val : Reg
  sat : Bool
  deriving DecidableEq, Repr

/-- The element pattern of R152: `op` on the elements of up to three sources, each fitted. -/
def elementwise (t : Typ) (sat : Bool) (op : Int → Int → Int → Int) (a b c : Reg) : IntRes :=
  let rs := (List.range (tyElems t)).map fun e => fit t sat (op (elemInt t e a) (elemInt t e b) (elemInt t e c))
  ⟨resultReg t (rs.map (·.1)), rs.any (·.2)⟩

/-! ### The Op of each arithmetic instruction (R157) -/

def opAdd (x y _ : Int) : Int := x + y
def opSub (x y _ : Int) : Int := x - y
def opNeg (x _ _ : Int) : Int := -x
def opAbs (x _ _ : Int) : Int := if x < 0 then -x else x
def opMin (x y _ : Int) : Int := if x ≤ y then x else y
def opMax (x y _ : Int) : Int := if x ≤ y then y else x
def opMul (x y _ : Int) : Int := x * y
def opMulhi (w : Nat) (x y _ : Int) : Int := (x * y) / 2 ^ w
def opMad (x y c : Int) : Int := x * y + c

/-- `madw` (R158): sources of width w, addend and result of width 2w. -/
def madw (t : Typ) (sat : Bool) (a b c : Reg) : IntRes :=
  let w := tyWidth t
  let v := elemInt t 0 a * elemInt t 0 b + intOf (tySigned t) (2 * w) (elemBits (2 * w) 0 c)
  let f := fitTo (tySigned t) (2 * w) sat v
  ⟨fillReg (tySigned t) (2 * w) f.1, f.2⟩

/-- Exact absolute difference of element `e`. -/
def absDiff (t : Typ) (e : Nat) (a b : Reg) : Int := opAbs (elemInt t e a - elemInt t e b) 0 0

/-- `sad` (R158). -/
def sad (t : Typ) (a b c : Reg) : Reg :=
  if tyPacked t then
    BitVec.ofInt 64 (((List.range (tyElems t)).map fun e => absDiff t e a b).sum + (c.toNat : Int))
  else scalarReg t (wrapBits (tyWidth t) (absDiff t 0 a b + elemInt t 0 c))

/-- `dot4` (R158). -/
def dot4 (t : Typ) (sat : Bool) (a b c : Reg) : IntRes :=
  let byte (r : Reg) (k : Nat) : Int := intOf (tySigned t) 8 (elemBits 8 k r)
  let v := elemInt t 0 c + ([0, 1, 2, 3].map fun k => byte a k * byte b k).sum
  let f := fit t sat v
  ⟨scalarReg t f.1, f.2⟩

/-- Quotient and remainder of R159, as bit patterns of width w. -/
def divRem (t : Typ) (a b : Reg) : Nat × Nat :=
  let w := tyWidth t
  let x := elemInt t 0 a
  let y := elemInt t 0 b
  if y = 0 then (2 ^ w - 1, wrapBits w x)
  else if tySigned t ∧ x = tyLo t ∧ y = -1 then (wrapBits w x, 0)
  else
    let q := Int.tdiv x y
    (wrapBits w q, wrapBits w (x - q * y))

/-! ### Bitwise logic, shifts and fields (R160 to R163) -/

/-- A bitwise result at the type's width: packed types act as b64 (R160). -/
def logicReg (t : Typ) (v : Reg) : Reg := if tyPacked t then v else scalarReg t v.toNat

/-- One element shifted by `s` (R161): `k` 0 left, 1 right zero-filled, 2 right sign-filled, 3 rotate left. -/
def shiftElem (k w x s : Nat) : Nat :=
  match k with
  | 0 => if s < w then (x * 2 ^ s) % 2 ^ w else 0
  | 1 => if s < w then x / 2 ^ s else 0
  | 2 =>
    let top := x / 2 ^ (w - 1) % 2
    let n := if s < w then s else w
    x / 2 ^ n + (if top = 1 then 2 ^ w - 2 ^ (w - n) else 0)
  | _ =>
    let r := s % w
    (x * 2 ^ r) % 2 ^ w + x / 2 ^ (w - r)

/-- A shift instruction (R161): the amount is the whole register for a scalar and the element for a packed type. -/
def shiftReg (k : Nat) (t : Typ) (a b : Reg) : Reg :=
  let w := tyWidth t
  resultReg t <| (List.range (tyElems t)).map fun e =>
    shiftElem k w (elemBits w e a) (if tyPacked t then elemBits w e b else b.toNat)

/-- `bfx` (R162). -/
def bfx (t : Typ) (a ctl : Reg) : Reg :=
  let w := tyWidth t
  let pos := fieldOf ctl.toNat 0 8
  let len := fieldOf ctl.toNat 8 8
  if len = 0 ∨ w ≤ pos then 0
  else
    let l := min len (w - pos)
    scalarReg t (wrapBits w (intOf (tI t) l (fieldOf (elemBits w 0 a) pos l)))

/-- `bfi` (R162). -/
def bfi (t : Typ) (a b ctl : Reg) : Reg :=
  let w := tyWidth t
  let x := elemBits w 0 a
  let pos := fieldOf ctl.toNat 0 8
  let len := fieldOf ctl.toNat 8 8
  if len = 0 ∨ w ≤ pos then scalarReg t x
  else
    let l := min len (w - pos)
    scalarReg t (x - fieldOf x pos l * 2 ^ pos + fieldOf b.toNat 0 l * 2 ^ pos)

/-- Bits `w-1 … 0` of a number, lowest first. -/
def bitsOf (w n : Nat) : List Bool := (List.range w).map fun k => n.testBit k

/-- One bits of an element. -/
def popcount (w n : Nat) : Nat := ((bitsOf w n).filter id).length
/-- Zero bits below the lowest one; `w` for zero. -/
def countTrailing (w n : Nat) : Nat := ((bitsOf w n).takeWhile (!·)).length
/-- Zero bits above the highest one; `w` for zero. -/
def countLeading (w n : Nat) : Nat := ((bitsOf w n).reverse.takeWhile (!·)).length
/-- The bits of an element reversed. -/
def reverseBits (w n : Nat) : Nat := (bitsOf w n).foldl (fun acc b => 2 * acc + bitOf b) 0

/-- An instruction that maps each element's bits (R163). -/
def mapElems (f : Nat → Nat → Nat) (t : Typ) (a : Reg) : Reg :=
  resultReg t ((List.range (tyElems t)).map fun e => f (tyWidth t) (elemBits (tyWidth t) e a))

/-! ### Rearrangement (R164 to R166) -/

/-- `perm` (R164). -/
def perm (a b sel : Reg) : Reg :=
  packElems 8 <| (List.range 8).map fun i =>
    let k := fieldOf sel.toNat (4 * i) 4
    if k < 8 then elemBits 8 k a else elemBits 8 (k - 8) b

/-- `swz` (R165). -/
def swz (t : Typ) (a pat : Reg) : Reg :=
  let n := tyElems t
  let f := if n = 8 then 3 else if n = 4 then 2 else 1
  packElems (tyWidth t) <| (List.range n).map fun i => elemBits (tyWidth t) (fieldOf pat.toNat (f * i) f) a

/-- `pack` (R166). -/
def packNarrow (t : Typ) (sat : Bool) (a b : Reg) : IntRes :=
  let w := tyWidth t
  let h := tyElems t / 2
  let rs := (List.range (tyElems t)).map fun e =>
    let bits := if e < h then elemBits (2 * w) e a else elemBits (2 * w) (e - h) b
    fit t sat (intOf (tySigned t) (2 * w) bits)
  ⟨packElems w (rs.map (·.1)), rs.any (·.2)⟩

/-- `unpk` (R166). -/
def unpackWiden (t : Typ) (hi : Bool) (a : Reg) : Reg :=
  let w := tyWidth t
  let h := tyElems t / 2
  packElems (2 * w) <| (List.range h).map fun e =>
    wrapBits (2 * w) (elemInt t (if hi then h + e else e) a)

/-- `lea` (R167). -/
def lea (t : Typ) (w32 : Bool) (shift : Nat) (base idx : Reg) (disp : BitVec 32) : Reg :=
  let i : Reg := if w32 then
      (if t == .i64 then (idx.extractLsb' 0 32).signExtend 64 else (idx.extractLsb' 0 32).zeroExtend 64)
    else idx
  base + BitVec.ofNat 64 (i.toNat * 2 ^ shift) + disp.signExtend 64

/-! ### Comparison and conversion (R168 to R170) -/

/-- The integer compare codes of R47. -/
def intCompare (cc : Nat) (x y : Int) : Bool :=
  match cc with
  | 0 => x == y
  | 1 => x != y
  | 2 => decide (x < y)
  | 3 => decide (x ≤ y)
  | 4 => decide (y < x)
  | _ => decide (y ≤ x)

/-- `cmpv` (R169). -/
def cmpv (t : Typ) (cc : Nat) (a b : Reg) : Reg :=
  resultReg t <| (List.range (tyElems t)).map fun e =>
    if intCompare cc (elemInt t e a) (elemInt t e b) then 2 ^ tyWidth t - 1 else 0

/-- `cvt` (R170). -/
def cvtInt (t src : Typ) (sat : Bool) (a : Reg) : IntRes :=
  let f := fit t sat (elemInt src 0 a)
  ⟨scalarReg t f.1, f.2⟩

/-- A move at a type's width (R154, R156). (DEDUCED, log entry 26) -/
def moveReg (t : Typ) (a : Reg) : Reg := if tyPacked t then a else scalarReg t a.toNat

end Sys2Proof.Machine
end

