-- ==== Sys2Proof/Machine/FloatCore.lean ====
section
/-!
DEFINITION. Floating values, rounding and the arithmetic of class 0b001 on exact rationals (R26 to R30, R177 to R188),
without machine state.
-/
namespace Sys2Proof.Machine

/-! ### Flags (R38) -/

abbrev Flags := BitVec 6
def fNV : Flags := 0x01
def fDZ : Flags := 0x02
def fOF : Flags := 0x04
def fUF : Flags := 0x08
def fIX : Flags := 0x10
def fSAT : Flags := 0x20
/-- A flag if a condition holds. -/
def flagIf (c : Bool) (f : Flags) : Flags := if c then f else 0

/-! ### Formats and values (R26) -/

/-- A binary interchange format: exponent and fraction widths. -/
structure Fmt where
  eb : Nat
  fb : Nat
  deriving DecidableEq, Repr

def fmtF16 : Fmt := ⟨5, 10⟩
def fmtBf16 : Fmt := ⟨8, 7⟩
def fmtF32 : Fmt := ⟨8, 23⟩
def fmtF64 : Fmt := ⟨11, 52⟩

/-- Format of the elements of a floating type. -/
def fmtOf : Typ → Fmt
  | .f16 | .f16x4 => fmtF16
  | .bf16 | .bf16x4 => fmtBf16
  | .f64 => fmtF64
  | _ => fmtF32

/-- Width of a format. -/
def Fmt.width (f : Fmt) : Nat := 1 + f.eb + f.fb
/-- Bias of a format. -/
def Fmt.bias (f : Fmt) : Nat := 2 ^ (f.eb - 1) - 1
/-- Magnitude bits of infinity. -/
def Fmt.infBits (f : Fmt) : Nat := (2 ^ f.eb - 1) * 2 ^ f.fb
/-- Magnitude bits of the largest finite value. -/
def Fmt.maxBits (f : Fmt) : Nat := f.infBits - 1
/-- The canonical NaN (R26, R27). -/
def Fmt.nan (f : Fmt) : Nat := f.infBits + 2 ^ (f.fb - 1)
/-- The sign bit. -/
def Fmt.signBit (f : Fmt) : Nat := 2 ^ (f.eb + f.fb)
/-- Exponent of the smallest normal. -/
def Fmt.emin (f : Fmt) : Int := 1 - (f.bias : Int)
/-- Exponent of the unit of the smallest subnormal. -/
def Fmt.qmin (f : Fmt) : Int := f.emin - f.fb

/-- An exact value: a NaN, an infinity, or a signed rational. -/
inductive FVal where
  | nan (signalling : Bool)
  | inf (neg : Bool)
  | fin (neg : Bool) (num den : Nat)
  deriving DecidableEq, Repr

/-- `m * 2^e` as a fraction. -/
def scale2 (m : Nat) (e : Int) : Nat × Nat :=
  if 0 ≤ e then (m * 2 ^ e.toNat, 1) else (m, 2 ^ (-e).toNat)

/-- Is the magnitude a subnormal of the format? -/
def Fmt.subnormal (f : Fmt) (mag : Nat) : Bool := mag != 0 && decide (mag < 2 ^ f.fb)

/-- The value of a bit pattern (R26); under `.ftz` a subnormal reads as a zero of its sign (R28). -/
def readF (f : Fmt) (ftz : Bool) (bits : Nat) : FVal :=
  let neg := decide (f.signBit ≤ bits)
  let mag := bits % f.signBit
  if f.infBits < mag then .nan (mag / 2 ^ (f.fb - 1) % 2 == 0)
  else if mag = f.infBits then .inf neg
  else
    let e := mag / 2 ^ f.fb
    let frac := mag % 2 ^ f.fb
    if e = 0 then
      if ftz then .fin neg 0 1
      else let s := scale2 frac f.qmin; .fin neg s.1 s.2
    else let s := scale2 (2 ^ f.fb + frac) (f.qmin + e - 1); .fin neg s.1 s.2

/-- A result: its bits and the flags it raises. -/
structure FRes where
  bits : Nat
  fl   : Flags
  deriving DecidableEq, Repr

/-- Bits with a sign. -/
def Fmt.signed (f : Fmt) (neg : Bool) (mag : Nat) : Nat := if neg then f.signBit + mag else mag

/-- The canonical NaN, with NV where the source signalled or the operation is invalid (R27). -/
def Fmt.nanRes (f : Fmt) (nv : Bool) : FRes := ⟨f.nan, flagIf nv fNV⟩

/-! ### Rounding (R28 to R30) -/

/-- Rounding modes (R29); `.rs` carries its 32 random bits. -/
inductive RMode where
  | rne | rz | rdn | rup | rna | rs (w0 : Nat)
  deriving DecidableEq, Repr

/-- Does the magnitude round up from quotient `k` with remainder `rem` of `den` (R29, R30)? -/
def roundsUp (mode : RMode) (neg : Bool) (k rem den : Nat) : Bool :=
  if rem = 0 then false
  else match mode with
  | .rne => decide (den < 2 * rem) || (decide (2 * rem = den) && k % 2 == 1)
  | .rz => false
  | .rdn => neg
  | .rup => !neg
  | .rna => decide (den ≤ 2 * rem)
  | .rs w0 => if neg then decide ((den - rem) * 2 ^ 32 ≤ w0 * den) else decide (w0 * den < rem * 2 ^ 32)

/-- A fraction rounded to an integer, and whether it was inexact. -/
def roundInt (mode : RMode) (neg : Bool) (num den : Nat) : Nat × Bool :=
  let k := num / den
  let rem := num % den
  (if roundsUp mode neg k rem den then k + 1 else k, rem != 0)

/-- Floor of log2 of a positive fraction. -/
def flog2 (num den : Nat) : Int :=
  let e : Int := (Nat.log2 num : Int) - Nat.log2 den
  let s := scale2 1 e
  if num * s.2 < den * s.1 then e - 1 else e

/-- A positive fraction in units of `2^q`, rounded. -/
def roundAt (mode : RMode) (neg : Bool) (num den : Nat) (q : Int) : Nat × Bool :=
  let s := scale2 1 q
  roundInt mode neg (num * s.2) (den * s.1)

/-- The infinity or largest finite value that overflow delivers (R29). -/
def overflowMag (f : Fmt) (mode : RMode) (neg : Bool) : Nat :=
  match mode with
  | .rz => f.maxBits
  | .rdn => if neg then f.infBits else f.maxBits
  | .rup => if neg then f.maxBits else f.infBits
  | _ => f.infBits

/-- Is the fraction above the largest finite value? -/
def aboveMax (f : Fmt) (num den : Nat) : Bool :=
  let s := scale2 (2 ^ (f.fb + 1) - 1) ((f.bias : Int) - f.fb)
  decide (s.1 * den < num * s.2)

/-- The mode in effect: `.rs` beyond the largest finite value is `.rne` (R30 step 3). -/
def effMode (f : Fmt) (mode : RMode) (num den : Nat) : RMode :=
  match mode with
  | .rs w0 => if aboveMax f num den then .rne else .rs w0
  | m => m

/-- Is the result tiny: after rounding with unbounded exponent, or for `.rs` by the value chosen (R28, R30 step 7)? -/
def isTiny (f : Fmt) (mode : RMode) (neg : Bool) (num den : Nat) (e : Int) (mag : Nat) : Bool :=
  match mode with
  | .rs _ => decide (mag < 2 ^ f.fb)
  | m =>
    if f.emin ≤ e then false
    else if e = f.emin - 1 then decide ((roundAt m neg num den (e - f.fb)).1 < 2 ^ (f.fb + 1))
    else true

/-- A nonzero exact value rounded to a format with its flags, then `.ftz` (R28 to R30). -/
def roundNonzero (f : Fmt) (mode0 : RMode) (ftz neg : Bool) (num den : Nat) : FRes :=
  let mode := effMode f mode0 num den
  let e := flog2 num den
  let q : Int := if e - f.fb < f.qmin then f.qmin else e - f.fb
  let r := roundAt mode neg num den q
  let mag := r.1 + (q - f.qmin).toNat * 2 ^ f.fb
  if f.infBits ≤ mag then ⟨f.signed neg (overflowMag f mode neg), fOF ||| fIX⟩
  else
    let tiny := isTiny f mode neg num den e mag
    let fl := flagIf r.2 fIX ||| flagIf (r.2 && tiny) fUF
    if ftz && f.subnormal mag then ⟨f.signed neg 0, fl ||| fUF ||| fIX⟩
    else ⟨f.signed neg mag, fl⟩

/-- An exact value rounded to a format (R27 to R30). -/
def roundF (f : Fmt) (mode : RMode) (ftz : Bool) : FVal → FRes
  | .nan s => f.nanRes s
  | .inf neg => ⟨f.signed neg f.infBits, 0⟩
  | .fin neg 0 _ => ⟨f.signed neg 0, 0⟩
  | .fin neg num den => roundNonzero f mode ftz neg num den

/-! ### Exact operations (R177) -/

/-- A NaN among the operands: signalling if any signals. -/
def nanOf (xs : List FVal) : Option Bool :=
  if xs.any (fun x => match x with | .nan _ => true | _ => false) then
    some (xs.any fun x => match x with | .nan s => s | _ => false)
  else none

/-- Negation of a value. -/
def FVal.negate : FVal → FVal
  | .nan s => .nan s
  | .inf n => .inf !n
  | .fin n a b => .fin (!n) a b

/-- Exact product; an invalid product is a signalling NaN. -/
def mulF (x y : FVal) : FVal :=
  match x, y with
  | .nan s, .nan t => .nan (s || t)
  | .nan s, _ => .nan s
  | _, .nan s => .nan s
  | .inf a, .inf b => .inf (a != b)
  | .inf a, .fin b n _ => if n = 0 then .nan true else .inf (a != b)
  | .fin a n _, .inf b => if n = 0 then .nan true else .inf (a != b)
  | .fin a n d, .fin b m e => .fin (a != b) (n * m) (d * e)

/-- A finite value as a signed fraction. -/
def FVal.ratio : FVal → Int × Nat
  | .fin neg n d => (if neg then -(n : Int) else n, d)
  | _ => (0, 1)

def FVal.isInf : FVal → Bool | .inf _ => true | _ => false
def FVal.isNeg : FVal → Bool | .inf n => n | .fin n _ _ => n | .nan _ => false
def FVal.isZero : FVal → Bool | .fin _ n _ => n == 0 | _ => false
def FVal.isNan : FVal → Bool | .nan _ => true | _ => false

/-- The exact sum of terms; an exact zero takes its sign as R177 and R193 give it. A quiet NaN among the terms makes the sum that NaN
with no flag of its own, even where the other terms are infinities of both signs. (DESIGN CHOICE, log entry 66) -/
def sumF (mode : RMode) (xs : List FVal) : FVal :=
  match nanOf xs with
  | some s => .nan s
  | none =>
    let infs := xs.filter FVal.isInf
    match infs with
    | x :: rest => if rest.all (fun y => y.isNeg == x.isNeg) then x else .nan true
    | [] =>
      let den := (xs.map fun x => x.ratio.2).foldl (· * ·) 1
      let num : Int := (xs.map fun x => x.ratio.1 * ((den / x.ratio.2 : Nat) : Int)).sum
      if num = 0 then
        if xs.all FVal.isZero && (xs.all FVal.isNeg || xs.all (fun x => !x.isNeg)) then
          .fin (xs.all FVal.isNeg) 0 1
        else .fin (mode == .rdn) 0 1
      else .fin (decide (num < 0)) num.natAbs den

/-- The exact quotient and the flags of a division by zero. -/
def divF (x y : FVal) : FVal × Flags :=
  match x, y with
  | .nan s, .nan t => (.nan (s || t), 0)
  | .nan s, _ => (.nan s, 0)
  | _, .nan s => (.nan s, 0)
  | .inf _, .inf _ => (.nan true, 0)
  | .inf a, .fin b _ _ => (.inf (a != b), 0)
  | .fin a _ _, .inf b => (.fin (a != b) 0 1, 0)
  | .fin a n d, .fin b m e =>
    if m = 0 then (if n = 0 then (.nan true, 0) else (.inf (a != b), fDZ))
    else (.fin (a != b) (n * e) (d * m), 0)

/-- Integer square root by bits, from bit `b` down. -/
def isqrtGo : Nat → Nat → Nat → Nat
  | 0, n, acc => if (acc + 1) * (acc + 1) ≤ n then acc + 1 else acc
  | b + 1, n, acc =>
    let t := acc + 2 ^ (b + 1)
    isqrtGo b n (if t * t ≤ n then t else acc)

/-- Integer square root. -/
def isqrt (n : Nat) : Nat := isqrtGo (Nat.log2 n / 2 + 1) n 0

/-- A fraction that rounds as the square root of `num/den` does to `bits` bits and 32 random bits: the root itself
where it is exact at the scale, else a point strictly inside its last unit. -/
def sqrtFrac (bits num den : Nat) : Nat × Nat :=
  let e := flog2 num den
  let k := ((bits : Int) + 48 - e / 2).toNat
  let x := num * 4 ^ k
  let s := isqrt (x / den)
  if s * s * den = x then (s, 2 ^ k) else (2 * s + 1, 2 ^ (k + 1))

/-- The square root of a value (R177). -/
def sqrtF (f : Fmt) : FVal → FVal
  | .nan s => .nan s
  | .inf neg => if neg then .nan true else .inf false
  | .fin neg 0 _ => .fin neg 0 1
  | .fin true _ _ => .nan true
  | .fin false num den => let r := sqrtFrac f.fb num den; .fin false r.1 r.2

/-- 1/√x (R181). -/
def rsqrtF (f : Fmt) : FVal → FVal × Flags
  | .nan s => (.nan s, 0)
  | .inf neg => if neg then (.nan true, 0) else (.fin false 0 1, 0)
  | .fin neg 0 _ => (.inf neg, fDZ)
  | .fin true _ _ => (.nan true, 0)
  | .fin false num den => let r := sqrtFrac f.fb den num; (.fin false r.1 r.2, 0)

/-- Add extra flags to a result. -/
def FRes.with (r : FRes) (fl : Flags) : FRes := ⟨r.bits, r.fl ||| fl⟩

/-! ### Ordering (R178, R182) -/

/-- Order of two non-NaN values with −0 below +0 where `signed` (R178); 0 less, 1 equal, 2 greater. -/
def orderF (zeroSigned : Bool) (x y : FVal) : Nat :=
  let key (v : FVal) : Int := match v with | .inf n => if n then -1 else 1 | _ => 0
  if key x < key y then 0 else if key y < key x then 2
  else if x.isInf && y.isInf then 1
  else
    let a := x.ratio.1 * y.ratio.2
    let b := y.ratio.1 * x.ratio.2
    if a < b then 0 else if b < a then 2
    else if zeroSigned && x.isNeg != y.isNeg then (if x.isNeg then 0 else 2) else 1

/-- Bits of a source as `.ftz` reads it. -/
def ftzBits (f : Fmt) (ftz : Bool) (bits : Nat) : Nat :=
  if ftz && f.subnormal (bits % f.signBit) then bits - bits % f.signBit else bits

/-- `fmin` and `fmax` on bit patterns (R178). -/
def minmaxF (f : Fmt) (isMax ftz : Bool) (a b : Nat) : FRes :=
  let x := readF f ftz a
  let y := readF f ftz b
  let nv := flagIf (x == .nan true || y == .nan true) fNV
  match x, y with
  | .nan _, .nan _ => ⟨f.nan, nv⟩
  | .nan _, _ => ⟨ftzBits f ftz b, nv⟩
  | _, .nan _ => ⟨ftzBits f ftz a, nv⟩
  | x, y =>
    let o := orderF true x y
    ⟨if (if isMax then o == 0 else o == 2) then ftzBits f ftz b else ftzBits f ftz a, nv⟩

/-- The float compare codes of R47 (R182). -/
def floatCompare (cc : Nat) (x y : FVal) : Bool :=
  let un := x.isNan || y.isNan
  let o := orderF false x y
  let rel : Bool := match cc % 6 with
    | 0 => o == 1
    | 1 => o != 1
    | 2 => o == 0
    | 3 => o != 2
    | 4 => o == 2
    | _ => o != 0
  if cc = 12 then !un else if cc = 13 then un
  else if un then decide (6 ≤ cc) else rel

/-- The class bit of R183. -/
def classBit (f : Fmt) (bits : Nat) : Nat :=
  let neg := decide (f.signBit ≤ bits)
  let mag := bits % f.signBit
  if f.infBits < mag then (if mag / 2 ^ (f.fb - 1) % 2 = 0 then 8 else 9)
  else if mag = f.infBits then (if neg then 0 else 7)
  else if mag = 0 then (if neg then 3 else 4)
  else if mag < 2 ^ f.fb then (if neg then 2 else 5)
  else if neg then 1 else 6

/-- `frnd` (R180). -/
def frndF (f : Fmt) (mode : RMode) (ftz : Bool) (bits : Nat) : FRes :=
  match readF f ftz bits with
  | .nan s => f.nanRes s
  | .inf n => ⟨f.signed n f.infBits, 0⟩
  | .fin n 0 _ => ⟨f.signed n 0, 0⟩
  | .fin n num den =>
    let k := (roundInt mode n num den).1
    ⟨(roundF f .rne false (.fin n k 1)).bits, 0⟩

/-- `f2i` on an exact value: the integer pattern of width w and its flags (R187). -/
def toInt (t : Typ) (mode : RMode) : FVal → FRes
  | .nan _ => ⟨0, fNV⟩
  | .inf n => ⟨wrapBits (tyWidth t) (if n then tyLo t else tyHi t), fNV⟩
  | .fin n num den =>
    let r := roundInt mode n num den
    let v : Int := if n then -(r.1 : Int) else r.1
    if v < tyLo t ∨ tyHi t < v then ⟨wrapBits (tyWidth t) (if n then tyLo t else tyHi t), fNV⟩
    else ⟨wrapBits (tyWidth t) v, flagIf r.2 fIX⟩

/-- `flg` without `.scl` (R184). -/
def exponentOf (f : Fmt) (bits : Nat) : Int × Flags :=
  match readF f false bits with
  | .nan _ => (-(2 ^ 31), fNV)
  | .inf _ => (2 ^ 31 - 1, fNV)
  | .fin _ 0 _ => (-(2 ^ 31), fNV)
  | .fin _ num den => (flog2 num den, 0)

/-- A value times 2^k (R184). A huge |k| is cut where the result has long over- or underflowed. -/
def scaleF (x : FVal) (k : Int) : FVal :=
  match x with
  | .fin n num den =>
    let k' := clampInt (-5000) 5000 k
    if 0 ≤ k' then .fin n (num * 2 ^ k'.toNat) den else .fin n num (den * 2 ^ (-k').toNat)
  | v => v

/-- An integer as an exact value. -/
def ofIntF (v : Int) : FVal := .fin (decide (v < 0)) v.natAbs 1

end Sys2Proof.Machine
end

