-- ==== Sys2Proof/Machine/Trans.lean ====
section
/-!
DEFINITION. The special functions of R181, correctly rounded to nearest even: each is enclosed between two fractions,
and the precision is doubled until both ends round alike. No value of these functions but the ones treated apart is
representable or halfway between two representable values, so the loop ends.
-/
namespace Sys2Proof.Machine

/-- A fixed-point number at scale `2^p` and a bound on its error in units. -/
structure Fx where
  v   : Int
  err : Nat
  deriving DecidableEq, Repr

/-- An enclosure: the value lies between `lo/den` and `hi/den`. -/
structure Encl where
  lo  : Int
  hi  : Int
  den : Nat
  deriving DecidableEq, Repr

/-- Σ z^(2k+1)/(2k+1) with alternating signs where `alt`: `t` is the current power at scale `2^p`. -/
def oddSeries (alt : Bool) (z2 : Int) (p : Nat) : Nat → Nat → Int → Int → Int
  | 0, _, _, acc => acc
  | n + 1, k, t, acc =>
    let term := t / (2 * k + 1)
    let t' := t * z2 / 2 ^ p
    oddSeries alt z2 p n (k + 1) (if alt then -t' else t') (acc + term)

/-- atanh(num/den) for |num/den| ≤ 1/2, or atan where `alt`. -/
def atanhFx (alt : Bool) (num : Int) (den p : Nat) : Fx :=
  let z := num * 2 ^ p / den
  let z2 := z * z / 2 ^ p
  let n := p / 2 + 8
  ⟨oddSeries alt z2 p n 0 z 0, 4 * n + 16⟩

/-- ln 2 = 2 atanh(1/3). -/
def ln2Fx (p : Nat) : Fx := let a := atanhFx false 1 3 p; ⟨2 * a.v, 2 * a.err⟩

/-- π = 16 atan(1/5) − 4 atan(1/239). -/
def piFx (p : Nat) : Fx :=
  let a := atanhFx true 1 5 p
  let b := atanhFx true 1 239 p
  ⟨16 * a.v - 4 * b.v, 16 * a.err + 4 * b.err⟩

/-- Σ r^k/k! by steps: `k` runs over the successive indices, `t` is the current term. -/
def expSeries (r : Int) (p : Nat) : Nat → Nat → Int → Int → Int
  | 0, _, _, acc => acc
  | n + 1, k, t, acc =>
    let t' := t * r / (2 ^ p * (k + 1))
    expSeries r p n (k + 1) t' (acc + t)

/-- Σ (−1)^k r^(2k+s)/(2k+s)!, from term `t` of index `i`. -/
def trigSeries (r2 : Int) (p : Nat) : Nat → Nat → Int → Int → Int
  | 0, _, _, acc => acc
  | n + 1, i, t, acc =>
    let t' := -(t * r2 / (2 ^ p * ((i + 1) * (i + 2))))
    trigSeries r2 p n (i + 2) t' (acc + t)

/-- Rounded quotient of integers. -/
def roundDiv (a : Int) (b : Nat) : Int := (2 * a + b) / (2 * b)

/-- `e^x` as `2^m` times an enclosure: for x = num/den with |x| < 2^13. -/
def expEncl (num : Int) (den p : Nat) : Encl × Int :=
  let q := p + 20
  let l := ln2Fx q
  let x := num * 2 ^ q / den
  let m := roundDiv x l.v.toNat
  let r := x - m * l.v
  let er := 2 + m.natAbs * l.err
  let n := q / 3 + 10
  let e := expSeries r q n 0 (2 ^ q) 0
  let err : Int := ((8 * n + 32 + 4 * er : Nat) : Int)
  (⟨e - err, e + err, 2 ^ q⟩, m)

/-- `2^x` as `2^m` times an enclosure. -/
def exp2Encl (num : Int) (den p : Nat) : Encl × Int :=
  let q := p + 20
  let m := roundDiv num den
  let l := ln2Fx q
  let f := (num - m * den) * 2 ^ q / den
  let r := f * l.v / 2 ^ q
  let er := 4 + l.err
  let n := q / 3 + 10
  let e := expSeries r q n 0 (2 ^ q) 0
  let err : Int := ((8 * n + 32 + 4 * er : Nat) : Int)
  (⟨e - err, e + err, 2 ^ q⟩, m)

/-- ln x for x = num/den > 0, or log2 x where `two`. -/
def logEncl (two : Bool) (num den p : Nat) : Encl :=
  let e0 := flog2 num den
  -- the mantissa is taken in [3/4, 3/2)
  let s0 := scale2 1 e0
  let e := if 3 * den * s0.1 ≤ 2 * num * s0.2 then e0 + 1 else e0
  let s := scale2 1 e
  let a := num * s.2
  let b := den * s.1
  let t := atanhFx false ((a : Int) - b) (a + b) p
  let l := ln2Fx p
  if two then
    -- log2 x = e + 2 atanh / ln 2
    let v := 2 * t.v * 2 ^ p / l.v + e * 2 ^ p
    let err : Int := ((8 + 4 * t.err + 4 * l.err : Nat) : Int)
    ⟨v - err, v + err, 2 ^ p⟩
  else
    let v := 2 * t.v + e * l.v
    let err : Int := ((8 + 2 * t.err + e.natAbs * l.err : Nat) : Int)
    ⟨v - err, v + err, 2 ^ p⟩

/-- sin x or cos x for x = num/den, reduced exactly by multiples of π/2. -/
def trigEncl (isCos : Bool) (num : Int) (den p : Nat) : Encl :=
  let big := Nat.log2 (num.natAbs / den + 1)
  let q := p + 2 * big + 20
  let pi := piFx q
  let x := num * 2 ^ q / den
  let k := roundDiv (2 * x) pi.v.toNat
  let r := x - k * pi.v / 2
  let er := 4 + k.natAbs * pi.err
  let n := q / 4 + 10
  let r2 := r * r / 2 ^ q
  let j := (k % 4).toNat
  let j' := if isCos then j + 1 else j
  let sinr := trigSeries r2 q n 1 r 0
  let cosr := trigSeries r2 q n 0 (2 ^ q) 0
  let v := match j' % 4 with | 0 => sinr | 1 => cosr | 2 => -sinr | _ => -cosr
  let err : Int := ((8 * n + 32 + 4 * er : Nat) : Int)
  ⟨v - err, v + err, 2 ^ q⟩

/-- The enclosure of `2^m` times another. -/
def Encl.shift (c : Encl) (m : Int) : Encl :=
  if 0 ≤ m then ⟨c.lo * 2 ^ m.toNat, c.hi * 2 ^ m.toNat, c.den⟩ else ⟨c.lo, c.hi, c.den * 2 ^ (-m).toNat⟩

/-- Quotient of enclosures of positive numbers, at scale `2^q` beyond the size of the result. -/
def Encl.quot (a b : Encl) (q : Nat) : Encl :=
  ⟨a.lo * b.den * 2 ^ q / (a.den * b.hi), a.hi * b.den * 2 ^ q / (a.den * b.lo) + 1, 2 ^ q⟩

/-- An enclosure around one fraction, widened inward of the next value by a relative part of `2^-200`. -/
def Encl.near (neg : Bool) (num den : Nat) (below : Bool) : Encl :=
  let a : Int := num * 2 ^ 200
  let b : Int := if below then a - num else a + num
  let v := if neg then -b else b
  ⟨v, v, den * 2 ^ 200⟩

/-- The special functions that need an enclosure. -/
inductive SpecFn where
  | ex2 | lg2 | fexp | flog | fsin | fcos | ftanh | fsigm
  deriving DecidableEq, Repr

/-- The enclosure at precision `p` of a function at the nonzero finite `±num/den`. -/
def specEncl (fn : SpecFn) (neg : Bool) (num den p : Nat) : Encl :=
  let x : Int := if neg then -(num : Int) else num
  let e := flog2 num den
  match fn with
  | .fexp => if 13 ≤ e then (if neg then ⟨1, 1, 2 ^ 3000⟩ else ⟨2 ^ 3000, 2 ^ 3000, 1⟩)
      else let r := expEncl x den p; r.1.shift r.2
  | .ex2 => if 13 ≤ e then (if neg then ⟨1, 1, 2 ^ 3000⟩ else ⟨2 ^ 3000, 2 ^ 3000, 1⟩)
      else let r := exp2Encl x den p; r.1.shift r.2
  | .flog => logEncl false num den p
  | .lg2 => logEncl true num den p
  | .fsin => if e < -70 then .near neg num den true else trigEncl false x den p
  | .fcos => if e < -70 then .near false 1 1 true else trigEncl true x den p
  | .ftanh =>
    if e < -70 then .near neg num den true
    else if 8 ≤ e then .near neg 1 1 true
    else
      -- tanh |x| = (E − 1)/(E + 1) with E = e^(2|x|)
      let r := expEncl (2 * num : Nat) den p
      let c := r.1.shift r.2
      let q := Encl.quot ⟨c.lo - c.den, c.hi - c.den, c.den⟩ ⟨c.lo + c.den, c.hi + c.den, c.den⟩ (p + 20)
      if neg then ⟨-q.hi, -q.lo, q.den⟩ else q
  | .fsigm =>
    if 13 ≤ e then (if neg then ⟨1, 1, 2 ^ 3000⟩ else .near false 1 1 true)
    else
      -- with E = e^(−|x|): 1/(1 + E) for x > 0 and E/(1 + E) for x < 0
      let r := expEncl (-(num : Int)) den p
      let c := r.1.shift r.2
      let d : Encl := ⟨c.lo + c.den, c.hi + c.den, c.den⟩
      if neg then Encl.quot c d (p + 20 + (-r.2).toNat) else Encl.quot ⟨c.den, c.den, c.den⟩ d (p + 20)

/-- One end of an enclosure rounded. -/
def roundEnd (f : Fmt) (ftz : Bool) (v : Int) (den : Nat) : FRes :=
  roundF f .rne ftz (.fin (decide (v < 0)) v.natAbs den)

/-- Double the precision until both ends round to one result. -/
def specLoop (f : Fmt) (ftz : Bool) (fn : SpecFn) (neg : Bool) (num den : Nat) : Nat → Nat → FRes
  | 0, p => let c := specEncl fn neg num den p; (roundEnd f ftz c.lo c.den).with fIX
  | n + 1, p =>
    let c := specEncl fn neg num den p
    let a := roundEnd f ftz c.lo c.den
    let b := roundEnd f ftz c.hi c.den
    if a.bits = b.bits ∧ c.lo ≠ 0 ∧ c.hi ≠ 0 then ⟨a.bits, a.fl ||| b.fl ||| fIX⟩
    else specLoop f ftz fn neg num den n (2 * p)

/-- The exact value of a function where it is representable: 2^n, log2 of a power of two, ln 1. -/
def specExact (fn : SpecFn) (neg : Bool) (num den : Nat) : Option FVal :=
  match fn with
  | .ex2 =>
    if num % den = 0 ∧ num / den < 5000 then
      let s := scale2 1 (if neg then -((num / den : Nat) : Int) else ((num / den : Nat) : Int))
      some (.fin false s.1 s.2)
    else none
  | .lg2 =>
    let e := flog2 num den
    let s := scale2 1 e
    if num * s.2 = den * s.1 then some (.fin (decide (e < 0)) e.natAbs 1) else none
  | .flog => if num = den then some (.fin false 0 1) else none
  | _ => none

/-- A special function of R181 at a value: its special operands, its exact values, else the nearest value. -/
def specF (f : Fmt) (ftz : Bool) (fn : SpecFn) (x : FVal) : FRes :=
  let one := (f.bias) * 2 ^ f.fb
  match x with
  | .nan s => f.nanRes s
  | .inf neg =>
    match fn with
    | .ex2 | .fexp => ⟨if neg then 0 else f.infBits, 0⟩
    | .lg2 | .flog => if neg then f.nanRes true else ⟨f.infBits, 0⟩
    | .fsin | .fcos => f.nanRes true
    | .ftanh => ⟨f.signed neg one, 0⟩
    | .fsigm => ⟨if neg then 0 else one, 0⟩
  | .fin neg 0 _ =>
    match fn with
    | .ex2 | .fexp | .fcos => ⟨one, 0⟩
    | .lg2 | .flog => ⟨f.signed true f.infBits, fDZ⟩
    | .fsin | .ftanh => ⟨f.signed neg 0, 0⟩
    | .fsigm => ⟨one - 2 ^ f.fb, 0⟩
  | .fin neg num den =>
    if neg && (fn == .lg2 || fn == .flog) then f.nanRes true
    else match specExact fn neg num den with
      | some v => roundF f .rne ftz v
      | none => specLoop f ftz fn neg num den 8 (2 * f.fb + 32)

end Sys2Proof.Machine
end

