-- ==== Sys2Proof/Machine/Formats.lean ====
section
/-!
DEFINITION. MD8, the S16 block scale and stochastic bits (R30 to R36, R185 to R192), without machine state.
-/
namespace Sys2Proof.Machine

/-! ### Philox-4x32-10 (R30) -/

/-- One round of the generator on a counter under a key. (PRESUMED, log entry 28) -/
def philoxRound (c : Nat × Nat × Nat × Nat) (k0 k1 : Nat) : Nat × Nat × Nat × Nat :=
  let p0 := 0xD2511F53 * c.1
  let p1 := 0xCD9E8D57 * c.2.2.1
  (((p1 / 2 ^ 32) ^^^ c.2.1) ^^^ k0, p1 % 2 ^ 32, ((p0 / 2 ^ 32) ^^^ c.2.2.2) ^^^ k1, p0 % 2 ^ 32)

/-- `n` rounds, the key increased between rounds. (PRESUMED, log entry 28) -/
def philoxGo : Nat → Nat × Nat × Nat × Nat → Nat → Nat → Nat × Nat × Nat × Nat
  | 0, c, _, _ => c
  | n + 1, c, k0, k1 =>
    philoxGo n (philoxRound c k0 k1) ((k0 + 0x9E3779B9) % 2 ^ 32) ((k1 + 0xBB67AE85) % 2 ^ 32)

/-- The 32 random bits w0 for a seed, word index, lane and element (R30). (DEDUCED, log entry 27) -/
def stochBits (seed : Reg) (pc lane e : Nat) : Nat :=
  (philoxGo 10 (pc % 2 ^ 32, pc / 2 ^ 32 % 2 ^ 32, lane, e)
    (fieldOf seed.toNat 0 32) (fieldOf seed.toNat 32 32)).1

/-- The rounding mode of MOD 2:0, with its random bits for `.rs` (R29, R30). -/
def modeOf (m : BitVec 6) (seed : Reg) (pc lane e : Nat) : RMode :=
  match modField m 0 3 with
  | 0 => .rne | 1 => .rz | 2 => .rdn | 3 => .rup | 4 => .rna
  | _ => .rs (stochBits seed pc lane e)

/-! ### MD8 (R31, R32) -/

/-- Magnitude of a body in units of 1/64,000 (R31). -/
def md8Mag (body : Nat) : Nat :=
  if 64 ≤ body then (64 + 9 * (body % 64)) * 1000
  else if 32 ≤ body then (32 + 9 * (body % 32)) * 200
  else if 16 ≤ body then (16 + 9 * (body % 16)) * 40
  else if 8 ≤ body then (8 + 9 * (body % 8)) * 8
  else 8 * body

/-- DecodeMD8 (R31): none for NaV. -/
def decodeMd8 (c : Nat) : Option Int :=
  let body := c % 128
  let neg := decide (128 ≤ c)
  if body = 0 then (if neg then none else some 0)
  else some (if neg then -(md8Mag body : Int) else md8Mag body)

/-- The largest body whose magnitude is at most `x/den`, searched from the top down. -/
def md8Floor (x den : Nat) : Nat → Nat
  | 0 => 0
  | b + 1 => if md8Mag (b + 1) * den ≤ x then b + 1 else md8Floor x den b

/-- EncodeMD8 (R32); under `.rs` the choice of R30 between adjacent codes, where only a choice of zero is tiny, since R31 gives MD8
no smallest normal. (DEDUCED, log entry 27) -/
def encodeMd8 (mode : RMode) : FVal → FRes
  | .nan s => ⟨0x80, flagIf s fNV⟩
  | .inf n => ⟨if n then 0xFF else 0x7F, fSAT⟩
  | .fin n num den =>
    let x := num * 64000
    if 631000 * den < x then ⟨if n then 0xFF else 0x7F, fSAT ||| fIX⟩
    else
      let b := md8Floor x den 127
      let rem := x - md8Mag b * den
      if rem = 0 then ⟨if n && b != 0 then 128 + b else b, 0⟩
      else
        let gap := (md8Mag (b + 1) - md8Mag b) * den
        let c := if roundsUp mode n b rem gap then b + 1 else b
        let uf := match mode with | .rs _ => flagIf (c == 0) fUF | _ => 0
        ⟨if n && c != 0 then 128 + c else c, fIX ||| uf⟩

/-! ### S16 (R35, R186) -/

/-- What an S16 code stands for: a zero block, a NaV block, or a positive fraction. -/
inductive SVal where
  | zero | nav | val (num den : Nat)
  deriving DecidableEq, Repr

/-- The value of an S16 code (R35). -/
def decodeS16 (c : Nat) : SVal :=
  let x := c / 256 % 256
  if x = 0 then .zero else if x = 255 then .nav
  else let s := scale2 (256 + c % 256) ((x : Int) - 135); .val s.1 s.2

/-- An S16 code as a conversion source (R185). -/
def s16Source (c : Nat) : FVal :=
  match decodeS16 c with
  | .zero => .fin false 0 1
  | .nav => .nan false
  | .val n d => .fin false n d

/-- The largest S16 code at or below a positive fraction within range; 0 below 2^-126. -/
def s16Floor (num den : Nat) : Nat :=
  let e := flog2 num den
  if e < -126 then 0
  else
    let s := scale2 1 (e - 8)
    (e + 127).toNat * 256 + (num * s.2 / (den * s.1) - 256)

/-- The fraction of a code of `s16Floor`. -/
def s16Frac (c : Nat) : Nat × Nat :=
  match decodeS16 c with | .val n d => (n, d) | _ => (0, 1)

/-- `fcvt` to s16 (R186). -/
def encodeS16 (mode : RMode) : FVal → FRes
  | .nan s => ⟨0xFF00, flagIf s fNV⟩
  | .inf _ => ⟨0xFF00, fNV⟩
  | .fin _ 0 _ => ⟨0, 0⟩
  | .fin true _ _ => ⟨0xFF00, fNV⟩
  | .fin false num den =>
    let top := s16Frac 0xFEFF
    if top.1 * den < num * top.2 then ⟨0xFEFF, fOF ||| fIX⟩
    else
      let lo := s16Floor num den
      let hi := if lo = 0 then 0x0100 else lo + 1
      let l := s16Frac lo
      let h := s16Frac (if lo = 0xFEFF then 0xFEFF else hi)
      -- (x − lo)/(hi − lo) = rem/gap
      let rem := (num * l.2 - l.1 * den) * h.2
      let gap := (h.1 * l.2 - l.1 * h.2) * den
      if rem = 0 then ⟨lo, 0⟩
      else
        let near : RMode := match mode with | .rna => .rne | m => m
        let c := if roundsUp near false lo rem gap then hi else lo
        ⟨c, fIX ||| flagIf (c == 0) fUF⟩

/-! ### Conversion sources and the quantiser (R185, R190 to R192) -/

/-- A conversion source of type F, md8 or s16 as an exact value (R185). -/
def convSource (t : Typ) (ftz : Bool) (bits : Nat) : FVal :=
  match t with
  | .md8 => match decodeMd8 bits with | none => .nan false | some q => .fin (decide (q < 0)) q.natAbs 64000
  | .s16 => s16Source bits
  | _ => readF (fmtOf t) ftz bits

/-- `fcvt` of an exact value (R186). -/
def convertTo (t : Typ) (mode : RMode) (ftz : Bool) (x : FVal) : FRes :=
  match t with
  | .md8 => encodeMd8 mode x
  | .s16 => encodeS16 mode x
  | _ => roundF (fmtOf t) mode ftz x

/-- `qscl` on an f32 pattern (R190): L is 9.859375 for md8 and 127 for i8. -/
def quantScale (isMd8 : Bool) (bits : Nat) : FRes :=
  match readF fmtF32 false (bits % 2 ^ 31) with
  | .nan s => ⟨0xFF00, flagIf s fNV⟩
  | .inf _ => ⟨0xFF00, fNV⟩
  | .fin _ 0 _ => ⟨0, 0⟩
  | .fin _ num den =>
    let n := if isMd8 then num * 64000 else num
    let d := if isMd8 then den * 631000 else den * 127
    let lo := s16Floor n d
    if lo = 0 then ⟨0x0100, 0⟩
    else
      let l := s16Frac lo
      ⟨if l.1 * d = n * l.2 then lo else lo + 1, 0⟩

/-- One element of `qcvt` (R191); a choice of zero under `.rs` is tiny for either format (R30). To i8 under `.rs` the scaled value goes to
one of its two neighbouring integers, whatever its size, and is then clamped: R30's step for values beyond the destination's largest
is read as one for formats with a largest finite value. (DEDUCED, log entry 27) -/
def quantElem (isMd8 : Bool) (mode : RMode) (s : SVal) (x : FVal) : FRes :=
  match s with
  | .zero => ⟨0, 0⟩
  | .nav => if isMd8 then ⟨0x80, 0⟩ else ⟨0, fNV⟩
  | .val sn sd =>
    let y : FVal := match x with | .fin n a b => .fin n (a * sd) (b * sn) | v => v
    if isMd8 then encodeMd8 mode y
    else match y with
      | .nan _ => ⟨0, fNV⟩
      | .inf n => ⟨if n then 0x80 else 0x7F, fSAT⟩
      | .fin n a b =>
        let r := roundInt mode n a b
        let v : Int := if n then -(r.1 : Int) else r.1
        let c := clampInt (-128) 127 v
        let tiny : Bool := match mode with | .rs _ => r.2 && r.1 == 0 | _ => false
        ⟨wrapBits 8 c, flagIf (c != v) fSAT ||| flagIf r.2 fIX ||| flagIf tiny fUF⟩

/-- One element of `dqcvt` (R192). -/
def dequantElem (f : Fmt) (isMd8 : Bool) (mode : RMode) (ftz : Bool) (s : SVal) (code : Nat) : FRes :=
  match s with
  | .zero => ⟨0, 0⟩
  | .nav => ⟨f.nan, 0⟩
  | .val sn sd =>
    match (if isMd8 then decodeMd8 code else some (signedOf 8 code)) with
    | none => ⟨f.nan, 0⟩
    | some q => roundF f mode ftz (.fin (decide (q < 0)) (q.natAbs * sn) ((if isMd8 then 64000 else 1) * sd))

end Sys2Proof.Machine
end

