-- ==== Sys2Proof/Machine/Sparse.lean ====
section
/-!
DEFINITION. Sparse tables in canonical form: keys strictly rising, and no entry that equals what an unlisted key reads
as. Equal tables are equal data.
-/
namespace Sys2Proof.Machine

/-- A sparse table from numbers. -/
abbrev AMap (α : Type) := List (Nat × α)

/-- The value at a key, `d` where it is not listed. -/
def aget {α : Type} (d : α) : AMap α → Nat → α
  | [], _ => d
  | (k, v) :: m, i => if i = k then v else aget d m i

/-- The table without a key. -/
def adel {α : Type} (m : AMap α) (i : Nat) : AMap α := m.filter fun e => e.1 != i

/-- The table with the key's value replaced; a value equal to `d` is not listed. -/
def aset {α : Type} [DecidableEq α] (d : α) : AMap α → Nat → α → AMap α
  | [], i, x => if x = d then [] else [(i, x)]
  | (k, v) :: m, i, x =>
    if i = k then (if x = d then adel m i else (i, x) :: adel m i)
    else if i < k then (if x = d then (k, v) :: adel m i else (i, x) :: (k, v) :: adel m i)
    else (k, v) :: aset d m i x

/-- Every key of the list is above `lo`, keys rise strictly, and no value is the default. -/
def awfFrom {α : Type} [DecidableEq α] (d : α) : Option Nat → AMap α → Bool
  | _, [] => true
  | lo, (k, v) :: m => (match lo with | none => true | some b => decide (b < k)) && decide (v ≠ d) && awfFrom d (some k) m

/-- The canonical form of a sparse table. -/
def awf {α : Type} [DecidableEq α] (d : α) (m : AMap α) : Bool := awfFrom d none m

/-- The entries whose key satisfies a test. -/
def akeep {α : Type} (p : Nat → Bool) (m : AMap α) : AMap α := m.filter fun e => p e.1

/-- Replace the first element that satisfies `p`. -/
def lreplace {α : Type} (p : α → Bool) (f : α → α) : List α → List α
  | [] => []
  | x :: xs => if p x then f x :: xs else x :: lreplace p f xs

/-- Insert a number into a rising list without repeats. -/
def sinsert (x : Nat) : List Nat → List Nat
  | [] => [x]
  | y :: ys => if x = y then y :: ys else if x < y then x :: y :: ys else y :: sinsert x ys

/-- Union of rising lists. -/
def sunion (xs ys : List Nat) : List Nat := xs.foldr sinsert ys

/-- Insert an element by key, after those of the same key. -/
def kinsert {α : Type} (e : Nat × α) : List (Nat × α) → List (Nat × α)
  | [] => [e]
  | x :: xs => if e.1 < x.1 then e :: x :: xs else x :: kinsert e xs

/-- The element that a free number chooses; `d` from an empty list. (DESIGN CHOICE, log entry 9) -/
def choose {α : Type} (n : Nat) (d : α) : List α → α
  | [] => d
  | [x] => x
  | xs => xs.getD (n % xs.length) d

/-- A list of numbers comes before another. -/
def lexLt : List Nat → List Nat → Bool
  | x :: xs, y :: ys => decide (x < y) || (x == y && lexLt xs ys)
  | [], _ :: _ => true
  | _, [] => false

/-- The element of least key; the earlier of equals. -/
def leastOf {α : Type} (key : α → List Nat) : List α → Option α
  | [] => none
  | x :: xs => match leastOf key xs with
    | none => some x
    | some y => if lexLt (key y) (key x) then some y else some x

/-- Elements in rising order of their keys. -/
def ksort {α : Type} (xs : List (Nat × α)) : List α := (xs.foldl (fun acc e => kinsert e acc) []).map (·.2)

end Sys2Proof.Machine
end

