-- ==== Sys2Proof/Machine/State.lean ====
section
/-!
DEFINITION. The state of a GN16 package as plain data, the reasons a step may stop, and the state after reset.
-/
namespace Sys2Proof.Machine

/-- Faults that stop the machine. The faults of R68 are no such stop: they are taken by the context and the machine
goes on. -/
inductive Fault where
  /-- Raised by `step` when a thread set's PC lies outside its kernel's text. R49 and R139 rule that out for every target that
  a trailer names; lanes that fall through past the last trailer of the text reach it, of which the spec says nothing: R57
  rejects malformed trailers only, and a text whose last trailer is an `end`, `brc` or `yield` passes. Safe.
  (DESIGN CHOICE, log entry 64) -/
  | fetchOutsideText
  deriving DecidableEq, Repr

/-- Refusals: a step that has no meaning. -/
inductive Refusal where
  /-- An instruction with no meaning in this model: safe. -/
  | notModelled (mnemonic : String)
  /-- Raised by `exec` of a word or trailer when no thread set is issuing: safe, R125 executes words only for a thread
  set. -/
  | noIssuingThreadSet
  /-- Raised by `step` on a malformed trailer in stored text: safe, R57 rejects such a kernel before it can run. -/
  | malformedTrailerInText
  deriving DecidableEq, Repr

abbrev Flag6 := BitVec 6

/-- Memory: physical bytes by 56-bit physical address, key ID included (R14). (DEDUCED, log entry 14) -/
abbrev Memory := List Host.Cell

/-- What an unlisted byte of memory reads as. (DESIGN CHOICE, log entry 2) -/
def memDefault : Byte := 0

/-! ### Faults of contexts (R68, R69) -/

/-- What a fault reports beside its place (R69). -/
structure FInfo where
  code   : Nat
  lane   : Nat := 0
  addr   : Nat := 0
  detail : Nat := 0
  kind   : Nat := 0
  src    : Nat := 0
  deriving DecidableEq, Repr

/-- A fault record waiting for its slot of the ring (R69, R71). -/
structure FRecord where
  team   : Nat
  group  : Nat
  core   : Nat
  pc     : Nat
  grid   : Nat
  ctx    : Nat
  info   : FInfo
  lanes  : List Nat              -- lanes of the thread set, for the trace record (R332)
  ids    : Nat := 0              -- PID and TID of the launch, for the same
  deriving DecidableEq, Repr

/-! ### Places of data -/

/-- Where an access lands: a physical byte of polder memory, a scratch byte of a team of this package, or an address of
another package's team scratch. -/
inductive Loc where
  | mem (pa : Nat)
  | scr (team off : Nat)
  | far (pkg handle off : Nat)
  deriving DecidableEq, Repr

/-! ### Acts held to the commit (R51) -/

/-- One lane's part of an atomic (R217). -/
structure AtomLane where
  lane : Nat
  loc  : Loc
  va   : Nat
  b    : Reg
  c    : Reg
  deriving DecidableEq, Repr

/-- The operands of a copy command (R282). -/
structure CopyArgs where
  kind   : Nat            -- 0 cp, 1 cp.d2, 2 cpgat, 3 cpmc
  sig    : Option Nat
  srcS   : Bool           -- the source is scratch
  dstSp  : Nat            -- 0 .g, 1 .s, 2 .f
  src    : Nat
  dst    : Nat            -- an address, an offset or a FIFO number
  width  : Nat            -- L, or W of a row
  rows   : Nat
  sstr   : Int
  dstr   : Int
  table  : Nat
  mask   : Nat
  deriving DecidableEq, Repr

/-- The operands of a message (R319). -/
structure MsgArgs where
  kind : Nat              -- 0 .m, 1 .t, 2 .b
  sig  : Option Nat
  ep   : Nat
  gen  : Nat
  dst  : Nat
  srcS : Bool
  src  : Nat
  len  : Nat
  rel  : Bool
  ord  : Bool
  deriving DecidableEq, Repr

/-- One lane's fragment of a `tpost` (R231). -/
structure PostLane where
  lane : Nat
  dst  : Loc
  src  : Nat
  mask : Nat
  deriving DecidableEq, Repr

/-- An effect that a word holds to its run's commit (R51). -/
inductive Act where
  | store (loc : Loc) (va : Nat) (bytes : List Byte) (rel : Bool)
  | storeVa (lane va : Nat) (bytes : List Byte) (multi rel : Bool)   -- to a page under migration (R203)
  | mxset (field : Nat) (value : BitVec 32)
  | tmark (off : Nat) (full : Bool)
  | tbind (k src soff len : Nat)
  | acst (tile idx : Nat) (bits : BitVec 32)
  | acclr (tile : Nat)
  | acflg (tile : Nat) (flags : Nat)
  | bank (core bank mode : Nat)
  | ffcfg (f first nb entry : Nat)
  | mxab
  | cpcan (dst : Opd) (k : Nat)
  | qsig (loc : Loc) (va amount : Nat) (err : Bool)
  | emuTemp (index : Nat) (vals : List (Nat × Reg))        -- `emuwr` to a saved temporary (R60)
  | atom (isRed isCmp : Bool) (op : Nat) (typ : Typ) (dst : Opd) (parts : List AtomLane) (rel : Bool)
  | fence (kind : Nat) (order : Nat) (scope : Nat)
  | tpost (sig : Option Nat) (sealed rel : Bool) (parts : List PostLane)
  | ttake (typ : Typ) (dst : Opd) (offs : List (Nat × Nat))
  | copy (a : CopyArgs)
  | mxgo
  | acred (sig : Option Nat) (aD aS : Nat)
  | nsend (a : MsgArgs)
  | qpush
  | qjoin (dst : Opd) (parts : List (Nat × Nat × Nat × Nat)) -- lane, physical address, target, virtual address
  | sys (dst : Opd) (service : Nat) (parts : List (Nat × Reg × Reg))
  | barrier (op b n : Nat) (sig : Option Nat) (dst : Opd)
  deriving DecidableEq, Repr

/-- A held act with the word that made it, the lanes active for that word, and the lane that the act is of. -/
structure Held where
  pc    : Nat
  lanes : List Nat
  act   : Act
  lane  : Nat
  deriving DecidableEq, Repr

/-! ### Thread sets (R125) -/

/-- Why a thread set is parked inside its run (R55, R196, R198, R203, R233, R279, R305, R313). -/
inductive Park where
  | walk
  | migrating
  | remote (id : Nat)
  | tile
  | signalRoom
  | copyRoom
  | armed
  | queueFull
  | join
  | link                         -- a link on its path is in training (R305, R307)
  | lsync (ls : Nat)
  deriving DecidableEq, Repr

/-- What a thread set waits for between its commit and the targets of its trailer. -/
inductive Post where
  | atomics
  | service
  | barrier (b : Nat)
  | stores
  deriving DecidableEq, Repr

/-- Where a thread set stands (R55, R56, R60, R125, R136). -/
inductive Phase where
  | ready
  | parked (p : Park)
  | post (p : Post)
  | await
  | conv (since : Nat)
  | inHandler (child : Nat)
  deriving DecidableEq, Repr

/-- The fields an `.emu` handler reads, and the set it serves (R60). -/
structure Emu where
  word   : Word
  pc     : Nat
  sa     : AMap Reg
  sb     : AMap Reg
  sc     : AMap Reg
  parent : Nat
  deriving DecidableEq, Repr

/-- An alias-detection entry: the bytes that a load of the open run read in a lane, kept to the run's commit (R116). -/
structure Alias where
  pc   : Nat
  lane : Nat
  loc  : Loc
  len  : Nat
  va   : Nat                     -- the address it read at, for a store that is held by address (R203)
  deriving DecidableEq, Repr

/-- What a thread set keeps of the run it committed last, into which a load of the open run may be hoisted (R115): its first
word, its trailer, the lanes that committed it and when, when each word was first issued, newest first, and the word, place
and length of each store. -/
structure Before where
  start  : Nat := 0
  last   : Nat := 0
  lanes  : List Nat := []
  time   : Nat := 0
  words  : List (Nat × Nat) := []
  stores : List (Nat × Loc × Nat) := []
  deriving DecidableEq, Repr

/-- A thread set (R125). -/
structure TSet where
  id        : Nat
  lanes     : List Nat
  start     : Nat                -- first word of the run, or where it resumes (R52)
  pc        : Nat
  phase     : Phase
  fresh     : Bool               -- at its run's start with no word issued (R125)
  begun     : Nat                -- time its run began (R238)
  mid       : Bool               -- `start` lies inside its run (R52)
  committed : Bool               -- the run has committed and its trailer has not resolved (R136)
  temps     : List (Nat × Reg)   -- temporaries written in this run, by 32·index + lane, newest first
  temps0    : List (Nat × Reg)   -- temporaries at `start` (R52, R60)
  undoV     : List (Nat × Reg)   -- lane registers as they stood at `start`, newest first
  undoP     : List (Nat × BitVec 8)
  gOv       : List (Nat × Reg)   -- uniform writes of the run, newest first (R126)
  lsOv      : List (Nat × Nat)
  seedOv    : Option Reg
  recOv     : List (Nat × Reg)
  profOv    : List (Nat × Nat)
  fl        : Flag6              -- flags raised in the run (R40)
  flWrite   : Option Flag6       -- a `wrsr` of the run
  fl0       : Flag6              -- `sr.fflg` when the run began
  held      : List Held          -- newest first
  draw      : Nat                -- names the run's free values
  got       : List (Nat × Reg)   -- reads by lane that a parked `twait` has performed (R233)
  got2      : List (Nat × Byte)  -- bytes a remote read has returned
  met       : List (Nat × Nat)   -- words of the open run with lanes that met the set at their `lsync` and went on, kept past a
                                 -- discard (R149)
  next      : AMap Nat           -- next PC plus one by lane once the trailer has resolved; 0 for an exit
  await     : BitVec 16
  conv      : Bool
  hot       : Bool               -- a `hint 1` with an active lane in the run (R80, R109)
  emu       : Option Emu
  pass      : Nat                -- issue cycles passed over (R128)
  slotAt    : Nat                -- time after its last issue
  promoted  : Option Nat         -- when it was promoted
  readyAt   : Nat
  hold      : Option Nat         -- issue cycles left of a yield's hold (R138)
  stop      : Bool               -- stopped for the debugger (R327)
  stopNext  : Nat                -- 0, the class of the stop it takes at its next run boundary or where it parks (R329), or a
                                 -- step, which is a stop of class 10 from its next commit on: 26, or 27 where its trailer has
                                 -- still to resolve (R330)
  resumed   : Option Nat         -- the word it was resumed at, past whose DBG bit it goes (R327)
  dying     : Bool               -- it runs no more and ends once its held stores are performed (R203)
  prot      : List Nat           -- probe slots protected by the current run (R224)
  prot1     : List Nat           -- and by the run before
  issued    : Option Nat := none -- a word of the run that it has issued and parked at (R328)
  aliases   : List Alias := []   -- alias-detection entries of the open run (R116)
  before    : Before := {}       -- the run it committed last (R115)
  inOrder   : Bool := false      -- re-executes after a rollback: no load is hoisted (R116)
  words     : List (Nat × Nat) := [] -- when each word of the open run was first issued, newest first (R116)
  roOwn     : List Nat := []     -- held bytes that `ldk` has read, by 32·address + lane: the physical, and the virtual + 2^64 (R220)
  freed     : List (Nat × Nat) := [] -- words and lanes of the open run that an `lsync` has released, kept past a discard (R149)
  deriving DecidableEq, Repr

/-! ### Groups (R119, R124) -/

/-- The uninitialised-register marker (R37). -/
def marker : Reg := 0x7FF400007FA00000

/-- State of one of a group's last sixteen copy commands (R286). -/
structure CopyStat where
  cmd   : Nat
  bytes : Nat
  code  : Nat
  state : Nat
  deriving DecidableEq, Repr

/-- A group (R119). Lane registers are keyed by 32·register + lane. -/
structure Group where
  index  : Nat
  role   : Nat
  v      : AMap Reg
  g      : AMap Reg
  p      : AMap (BitVec 8)       -- p1 to p7 by lane
  ls     : AMap Nat              -- ls1 to ls7
  sig    : AMap Nat
  fflg   : Flag6
  seed   : Reg
  recb   : AMap Reg
  uev    : AMap Reg
  stk    : AMap (List Nat)       -- entries 1 to 4 of each lane's call stack, outermost first (R140)
  depth  : AMap Nat
  exited : List Nat
  tHist  : AMap (List Reg)       -- values of temporaries in earlier runs (R51)
  copies : List CopyStat         -- most recent first
  roSeen : AMap Nat              -- oldest write `ldk` may still return, by 32·byte address + lane (R220)
  roFence : AMap Nat             -- the write log at each lane's last `fence.ro`
  rels   : List Nat              -- lanes that have committed a `fence.rel` or `.ar` of scope `.team` or wider (R294)
  runs   : Nat                   -- runs committed
  slotAt : Nat                   -- time after the last slot a set of it took (R128)
  flRuns : List (Nat × Flag6) := [] -- flags that runs have raised, by the time after their commit (R40)
  tsets  : List TSet
  nextTs : Nat
  deriving DecidableEq, Repr

/-! ### Teams (R119) -/

/-- A barrier (R242). -/
structure Barrier where
  e    : Nat
  a    : Nat
  dn   : Nat
  m    : Nat
  c    : Nat
  link : Option (Nat × Nat)      -- LSIG: group and signal
  lrem : Nat
  kind : Nat                     -- 0 none, 1 team, 2 gang
  ph   : Bool
  arr  : List Nat                -- threads arrived
  drp  : List Nat                -- threads dropped
  held : Bool
  deriving DecidableEq, Repr

/-- A probe slot (R223). -/
structure Slot where
  state : Nat                    -- 0 FREE, 1 PENDING, 2 VALID
  tag   : Nat
  prot  : Nat                    -- protections held
  deriving DecidableEq, Repr

/-- An operand FIFO of a team core (R287). -/
structure Fifo where
  conf  : Bool
  first : Nat
  nb    : Nat
  entry : Nat
  wr    : Nat
  rd    : Nat
  rl    : Nat
  bytes : List Byte              -- bytes RL to WR − 1
  bad   : List Nat               -- positions of bytes that have an uncorrectable error (R348)
  deriving DecidableEq, Repr

/-- The set of a running nest with each level's place (R265, R267). -/
structure Active where
  set    : AMap Nat              -- fields that differ from their reset values
  its    : List Nat              -- iteration counts of levels 0 to 5
  xs     : List Nat              -- tile index of each level
  tiles  : List Nat              -- tile set
  group  : Nat
  lanes  : List Nat
  pc     : Nat
  gang   : Bool
  owner  : Bool                  -- this core issued the `mxgo`
  team   : Nat
  clr    : Option Nat := none    -- the level up to whose CLR the next K-block's tile is entered (R265)
  rew    : Option Nat := none    -- the level whose rewinds come before the next K-block (R265)
  deriving DecidableEq, Repr

/-- The nest engine and accumulator store of a team core (R256, R263, R276). -/
structure Nest where
  shadow : AMap Nat
  armed  : Option Active
  active : Option Active
  kb     : Nat
  abt    : Bool
  acc    : AMap (BitVec 32)      -- elements by 16384·tile + index
  hist   : AMap (List (BitVec 32)) -- values elements of the running nest's tiles held since its `mxgo` commit (R275)
  histA  : AMap (List (BitVec 32)) -- and those of the armed nest's
  flags  : AMap Nat              -- NAV, OVF, INX, ALN by tile
  deriving DecidableEq, Repr

/-- A tag of a scratch tile (R227). -/
structure Tag where
  mask : BitVec 16
  ovr  : Bool
  pend : Bool
  deriving DecidableEq, Repr

/-- A bound window (R237). -/
structure Window where
  src  : Nat
  soff : Nat
  len  : Nat
  since : Nat                    -- time of the commit that bound it (R238)
  deriving DecidableEq, Repr

/-- An engine failure charged to a thread set (R73). -/
structure Pend where
  group : Nat
  lanes : List Nat               -- lanes active for the issuing word
  pc    : Nat
  info  : FInfo
  deriving DecidableEq, Repr

/-- A scratch-plan entry (R108). -/
structure PlanEnt where
  kind  : Nat                    -- 0 SCRATCH, 1 FIFO
  core  : Nat
  bank  : Nat
  boff  : Nat
  soff  : Nat
  size  : Nat
  first : Nat
  last  : Nat
  deriving DecidableEq, Repr

/-- What a swapped-out team's lanes wait on, as it stood when the image was written (R72, R132).
(DESIGN CHOICE, log entry 23) -/
structure Swapped where
  size   : Nat                   -- bytes of the image
  parked : Bool                  -- every lane was parked, and no timeout has passed since
  why    : List Phase            -- what its sets waited for when it began to leave
  tags   : AMap Tag
  bars   : AMap Barrier
  sigs   : List (AMap Nat)
  counts : List (Nat × Nat)      -- joined counters: physical address and value
  walks  : List Nat              -- walks, with or without a page request
  rooms  : List Nat              -- copy commands that take up the engine in which a lane waits for room
  links  : List Nat              -- links in training on which a lane waits
  sets   : List (Nat × Nat × Phase) -- phase of each thread set
  works  : List Nat              -- remote accesses in flight that a set waits for
  kids   : Nat                   -- records in the pending-launch queue
  nests  : List Nat              -- team cores with an armed nest
  mig    : Bool                  -- a set waits for the end of a migration
  chunks : List Nat              -- 64 KiB chunks of the swap area that hold the image (R72)
  deriving DecidableEq, Repr

/-- A team placed at least once (R119). -/
structure Team where
  id       : Nat
  launch   : Nat
  index    : Nat                 -- linear index (R120)
  handle   : Nat
  cores    : List Nat            -- package-wide core of each team core
  resident : Bool
  plan     : List PlanEnt
  scr      : AMap Byte           -- scratch bytes by bank location
  bad      : List Nat            -- bank locations with an uncorrectable error (R348)
  tags     : AMap Tag            -- by bank tile
  ovc      : Nat
  ovlast   : Nat
  windows  : AMap (Option Window)
  slots    : AMap Slot
  next     : Nat                 -- next-victim index (R223)
  released : List Nat            -- 32·team core + bank held in CACHE mode
  closed   : List Nat            -- banks closed by `bank` to the run's end, one entry for each open run's word
  bars     : AMap Barrier
  children : List (List Reg)     -- pending-launch queue (R97)
  kids     : Nat                 -- children that have left the queue and not completed
  nests    : AMap Nest           -- by team core
  fifos    : AMap Fifo           -- by 8·team core + f
  pend     : List Pend
  groups   : List Group
  halting  : Bool                -- stops at run boundaries (R65, R95)
  placedAt : Nat
  slice    : Nat                 -- the quantum of its residency, and whether it has expired (R132)
  quantum  : Bool
  wantSwap : Bool
  swappedAt : Nat
  leaving  : Option Swapped      -- its parked runs are discarded, and its copies run to completion (R133)
  out      : Option Swapped
  boosted  : Bool
  roT0     : Nat                 -- the write log at the last dispatch or restore (R220)
  unf      : List (Nat × Nat × Byte) -- scratch stores with no later `fence.op`: 32·group + lane, offset, old byte (R219)
  deriving DecidableEq, Repr

/-! ### Contexts (R64 to R72) -/

/-- A context and its driver registers (R65, R70 to R72, R374, R375). -/
structure Ctx where
  state   : Nat := 0             -- 0 FREE, 1 CREATED, 2 ACTIVE, 3 SUSPENDED, 4 FAULTED, 5 DRAINING, 6 DESTROYED
  keys    : BitVec 64 := 0
  tag     : BitVec 16 := 0
  res     : Nat := 0
  fring   : BitVec 64 := 0
  fhead   : BitVec 32 := 0
  ftail   : BitVec 32 := 0
  flost   : BitVec 32 := 0
  fwait   : List FRecord := []   -- records not yet written or lost
  fwalk   : Option Nat := none   -- the page request that delays the next record
  swap    : BitVec 64 := 0
  swlen   : BitVec 64 := 0
  root    : BitVec 44 := 0
  rooted  : Bool := false        -- PG_ROOT written since create (R70)
  launchNo : BitVec 32 := 0
  faultedWhile : Bool := false   -- a fault was reported while SUSPENDED (R65)
  deriving DecidableEq, Repr

/-! ### Kernels (R103 to R108) -/

/-- A role entry (R107). -/
structure Role where
  kind   : Nat
  groups : Nat
  budget : Nat
  deriving DecidableEq, Repr

/-- A kernel as loaded (R107, R108). -/
structure Kernel where
  text    : List Word := []      -- with every DBG bit cleared
  dbg     : List Nat := []       -- words whose DBG bit is set in the stored text
  raw     : List (List Byte) := [] -- the sections of R111 part 3 as loaded
  threads : Nat := 32
  cores   : Nat := 1
  gang    : Nat := 0
  lat     : Nat := 0
  fifos   : Nat := 0
  scratch : Nat := 0
  probe   : Nat := 0
  priv    : Nat := 0
  roles   : List Role := []
  params  : List Nat := []
  emu     : Option Nat := none
  plan    : List PlanEnt := []
  planned : Bool := false        -- it has a `.nx.plan` section
  rejected : Bool := false
  diag    : Nat := 0             -- address of its diagnostic buffer
  deriving DecidableEq, Repr

/-! ### Queues (R83 to R93) -/

/-- A packet taken and not complete (R92, R93). -/
structure Pkt where
  num     : Nat
  words   : List Reg             -- the 64 bytes as eight words
  state   : Nat                  -- 0 taken, 1 executing, 2 complete with STATUS owed, 3 counter step owed, 4 STATUS written
  launch  : Nat := 0
  segs    : List Nat := []       -- COPY segments not ended
  done    : List Nat := []       -- COPY segments ended well
  fails   : List (Nat × Nat × Nat) := [] -- COPY segments failed: segment, bytes it completed, code
  reqSeg  : Nat := 0             -- the COPY segment that a page request holds, and its bytes done
  reqAt   : Nat := 0
  since   : Nat := 0             -- when the packet, or its open segment, began to access memory (R313)
  wrote   : List (Nat × Byte) := [] -- original bytes of places a COPY has overwritten (R90)
  taken   : Nat := 0             -- stamps and charges of the time account (R336, R337); 0 when not reached
  ready   : Nat := 0
  first   : Nat := 0
  ended   : Nat := 0
  serv    : Nat := 0
  waits   : Nat := 0
  code    : Nat := 0
  detail  : Nat := 0
  ccfail  : Bool := false
  failed  : Bool := false
  stepped : Bool := false        -- its own effect on CTR is done
  req     : Option Nat := none   -- the page request that delays it
  grid    : BitVec 32 := 0       -- the number a LAUNCH took (R375)
  slot    : Nat := 0             -- the kernel that a LAUNCH's handle named when it was taken, with its slot and generation (R92)
  gen     : Nat := 0
  kernel  : Option Kernel := none
  deriving DecidableEq, Repr

/-- A queue (R83 to R88). (DESIGN CHOICE, log entry 3) -/
structure Queue where
  state : Nat := 0               -- 0 DISABLED, 1 ENABLED, 2 HALTED, 3 DRAINED
  ctx   : Nat := 0
  pri   : Nat := 0
  en    : Bool := false
  ring  : BitVec 64 := 0
  wakePage : BitVec 64 := 0
  head  : Nat := 0
  done  : Nat := 0
  tail  : Nat := 0               -- the TAIL last read
  err   : Nat := 0
  errOwed : Option Nat := none   -- a write of ERR not yet made (R85, R88)
  wake  : Bool := false
  paused : Option Nat := none    -- the page request that pauses it
  lost  : List Nat := []         -- pages of its ring and records whose request has failed since it was enabled (R85)
  pkts  : List Pkt := []
  qrec  : BitVec 64 := 0
  qid   : BitVec 64 := 0
  taRec : Nat := 0
  deriving DecidableEq, Repr

/-! ### Kernel slots and translations (R104 to R117) -/

/-- A kernel slot of a context (R104). -/
structure KSlot where
  gen    : Nat := 0
  kernel : Option Kernel := none
  deriving DecidableEq, Repr

/-- A profile site (R117). -/
structure Site where
  ldw : Nat
  stw : Nat
  count : Nat
  deriving DecidableEq, Repr

/-- A translation-cache entry (R109, R111, R113, R117). Its key parts are compared whole. -/
structure TEntry where
  id      : Nat
  text    : List Word            -- parts of the key (R111)
  raw     : List (List Byte)
  state   : Nat                  -- 1 READY, 2 HOT, 3 REOPTIMISING
  last    : Nat                  -- order of its last launch
  stored  : Nat                  -- runs committed since stored
  launches : Nat
  runs    : Nat
  rollbacks : Nat
  sites   : List Site
  rev     : Nat := 1             -- the revision part of its key (R10)
  kept    : List (Nat × Nat) := [] -- sites above whose store its code hoists no load: LDW and STW (R118)
  deriving DecidableEq, Repr

/-- A key in translation, named by the kernel whose launch missed first (R109). -/
structure Xlate where
  ctx  : Nat
  slot : Nat
  handle : Nat
  kernel : Kernel
  looked : Bool                  -- the polder has answered with a miss (R112)
  names  : List Nat              -- handles whose kernels are TRANSLATING under it (R109)
  deriving DecidableEq, Repr

/-! ### Launches (R90 to R97) -/

/-- A launch taken and not complete, or complete and remembered by its packet (R94, R96, R375). -/
structure Launch where
  id      : Nat
  num     : BitVec 32
  ctx     : Nat
  slot    : Nat
  gen     : Nat := 0             -- generation of its kernel's slot (R104)
  kernel  : Kernel
  entry   : Nat := 0
  gx      : Nat
  gy      : Nat
  gz      : Nat
  params  : List Reg := []
  read    : Bool := false        -- its parameters have been read (R90)
  pblock  : Nat := 0
  privb   : Nat := 0
  pri     : Nat := 0
  phase   : Nat := 0             -- 0 waiting for a translation, 1 ready for dispatch, 2 complete
  nextTeam : Nat := 0            -- next linear team index to place
  ended   : Nat := 0             -- teams retired or stopped
  halted  : Nat := 0             -- of these, teams stopped
  req     : Option Nat := none   -- the page request that delays its parameter read or counter step
  fault   : Option Nat := none   -- code of the first recorded fault (R96)
  aborted : Bool := false
  queue   : Option (Nat × Nat) := none -- queue and packet
  parent  : Option Nat := none   -- team that pushed it
  origin  : Option Nat := none   -- queue whose TA_QID names its process (R332)
  ccaddr  : Nat := 0
  ccinc   : Nat := 0
  stepped : Bool := false
  bar     : Bool := false
  ready   : Nat := 0             -- stamps and charges of the time account (R336, R337); 0 when not reached
  first   : Nat := 0
  serv    : Nat := 0
  waits   : Nat := 0
  waitSince : Nat := 0           -- since when its next team waits for room (R132)
  endedAt : Nat := 0             -- when it completed (R343)
  kept    : List (Nat × Nat) := [] -- the sites above whose store the code it runs hoists no load (R118)
  boosted : Bool := false
  deriving DecidableEq, Repr

/-! ### Paging (R195 to R204) -/

/-- A cached translation (R197). -/
structure Tlb where
  core  : Nat                    -- 256 and above for engines of no core
  ctx   : Nat
  vpn   : Nat                    -- address bits 63:12
  pa    : Nat                    -- physical base of the 4 KiB page, key ID included
  write : Bool                   -- the leaf passed a write's checks and D is set
  rep   : Nat                    -- 0 none, else 1 + index of the replica set, 8192 where none is registered
  mig   : Bool
  span  : Nat                    -- 4 KiB pages of the page that the leaf maps
  deriving DecidableEq, Repr

/-- Who waits for a walk: a thread set, by team, group and identifier, or an engine's work by identifier. -/
inductive Waiter where
  | set (team group tset : Nat)
  | engine (id : Nat)
  deriving DecidableEq, Repr

/-- A walk in flight: who missed and the kind of access (R197); it stays while its request is outstanding (R198). -/
structure Walk where
  id   : Nat
  core : Nat
  ctx  : Nat
  va   : Nat
  kind : Nat                     -- 0 read, 1 write, 2 atomic
  multi : Bool                   -- for `stmc`
  req  : Option Nat := none
  waiters : List Waiter := []
  deriving DecidableEq, Repr

/-- A page request outstanding, written or held for a slot of the ring (R198). -/
structure PReq where
  id    : Nat
  va    : Nat
  ctx   : Nat
  kind  : Nat
  cause : Nat
  level : Nat
  written : Bool
  deriving DecidableEq, Repr

/-- A walk that ended in a fault, kept until its waiters have taken it (R198). -/
structure WalkEnd where
  core : Nat
  ctx  : Nat
  vpn  : Nat
  kind : Nat
  info : FInfo
  waiters : List Waiter := []
  va   : Option Nat := none      -- the address of the request that failed (R198)
  deriving DecidableEq, Repr

/-- A migration copy engine and its registers (R203, R206). -/
structure Mig where
  src  : BitVec 64 := 0
  dst  : BitVec 64 := 0
  pte  : BitVec 64 := 0
  size : Nat := 0
  status : Nat := 0
  busy : Bool := false
  leaf : Nat := 0                -- the leaf value written in step 1, with what the registers named at GO: frames, leaf and size
  srcPa : Nat := 0
  dstPa : Nat := 0
  pteAt : Nat := 0
  code : Nat := 0
  deriving DecidableEq, Repr

/-- A replica set (R204). -/
structure Repl where
  desc : Nat
  ctx  : Nat
  size : Nat
  frames : List Nat
  deriving DecidableEq, Repr

/-- The package's paging registers (R206). -/
structure Pg where
  root  : BitVec 64 := 0
  fq    : BitVec 64 := 0
  fqt   : BitVec 32 := 0
  fqh   : BitVec 32 := 0
  inval : BitVec 64 := 0
  invalPages : List Nat := []    -- physical pages whose translations the invalidation dropped
  former : List (Nat × Nat × Nat × Nat) := []
    -- translations that a later walk replaced: context, page, span and physical page (R199)
  cthr  : BitVec 64 := 0x000000000400FFFF
  hotq  : BitVec 64 := 0
  hotFull : Bool := false        -- every slot of the hot ring is written (R202)
  replS : Nat := 0
  migs  : AMap Mig := []
  epoch : Nat := 0               -- time of the last halving
  deriving DecidableEq, Repr

/-- A diagnostic or profile record on its way to memory (R110, R117). -/
structure Late where
  ctx   : Nat
  va    : Nat
  bytes : List Byte
  prof  : Bool                   -- the record of the last profile request (R117)
  req   : Option Nat             -- the page request that delays it
  deriving DecidableEq, Repr

/-- The command complex's registers (R70, R85, R95, R103, R117, R132). -/
structure Cxq where
  csel  : Nat := 0
  qsel  : Nat := 0
  canst : Nat := 0
  kimg  : BitVec 64 := 0
  klen  : BitVec 64 := 0
  kdiag : BitVec 64 := 0
  khandle : BitVec 32 := 0
  kreq  : Option Nat := none     -- the page request that holds the load in progress
  kfail : Bool := false          -- and its failure
  kres  : Nat := 0
  kpbuf : BitVec 64 := 0
  kpres : Nat := 0
  late  : List Late := []
  quant : BitVec 64 := 0x00124F80
  deriving DecidableEq, Repr

/-! ### Cores and engines in flight -/

/-- Who issued a store: a word of a thread set, with the lane and the core. -/
structure From where
  team  : Nat
  group : Nat
  lanes : List Nat
  pc    : Nat
  lane  : Nat
  core  : Nat
  deriving DecidableEq, Repr

/-- A recent write of a byte of memory: its order and time, the byte it replaced, and the team, group and lane that made it,
none for an agent of another kind (R116, R220). -/
structure MemWrote where
  order : Nat
  time  : Nat
  pa    : Nat
  old   : Byte
  party : Option (Nat × Nat × Nat)
  deriving DecidableEq, Repr

/-- A recent write of bytes of a team's scratch: when, the team, the bank locations, and who made it (R116). -/
structure ScrWrote where
  time  : Nat
  team  : Nat
  keys  : List Nat
  party : Option (Nat × Nat × Nat)
  deriving DecidableEq, Repr

/-- An entry of a write-combining buffer, with each word that stored into it, oldest first (R311, R313). -/
structure WcEntry where
  line  : Nat                    -- physical address of its 128-byte line
  bytes : AMap (Option Byte)
  by_   : List (From × Nat)      -- the words, with the virtual address of the store
  born  : Nat
  deriving DecidableEq, Repr

/-- A core (R12, R225, R346, R347). -/
structure Core where
  offline : List Nat := []       -- banks OFFLINE, or marked to be once no team holds them (R225, R346)
  frozen  : Nat := 0             -- end of an error freeze
  wc      : List WcEntry := []
  deriving DecidableEq, Repr

/-- A copy command in flight (R284 to R286). -/
structure Cmd where
  id    : Nat
  team  : Nat
  group : Nat
  core  : Nat                    -- team core
  pc    : Nat
  lane  : Nat
  lanes : List Nat
  args  : CopyArgs
  ranks : List (Nat × Nat)       -- team and team core of each destination
  idx   : List (Nat × Nat)       -- `cpgat` rows whose index has been read
  open_ : List Nat               -- segments not ended
  good  : List Nat               -- segments ended well
  fails : List (Nat × FInfo)
  cancelled : Bool
  begun : Bool
  parts : AMap Nat               -- bytes of a begun FIFO segment appended, by segment
  wrote : List (Nat × Byte)      -- original bytes of source places the command has overwritten (R284)
  into  : List Nat               -- ranks whose FIFO has taken bytes of the command
  zeros : List Nat               -- FIFO segments that have failed or been dropped, whose zeros are going in (R285, R286)
  since : Nat                    -- when it was issued (R313)
  deriving DecidableEq, Repr

/-- A `tpost` fragment in flight (R231). -/
structure Frag where
  id    : Nat
  team  : Nat
  group : Nat
  lanes : List Nat
  pc    : Nat
  lane  : Nat
  sig   : Option Nat
  dst   : Loc
  src   : Nat
  data  : List Byte              -- source tile as it stood at the commit
  left  : BitVec 16              -- beats not yet applied
  mask  : BitVec 16              -- beats it carries
  sent  : Nat                    -- arrivals made
  sealed : Bool
  handle : Nat
  deriving DecidableEq, Repr

/-- A fill of a probe slot or a bound window (R223, R239). -/
structure Fill where
  id    : Nat
  team  : Nat
  group : Nat
  lanes : List Nat
  pc    : Nat
  lane  : Nat
  slot  : Option Nat
  off   : Nat
  va    : Nat
  since : Nat                    -- when it was queued (R313)
  deriving DecidableEq, Repr

/-- A gang reduction in flight (R277). -/
structure Acred where
  id    : Nat
  team  : Nat
  group : Nat
  lanes : List Nat
  pc    : Nat
  core  : Nat
  sig   : Option Nat
  aD    : Nat
  aS    : Nat
  hist  : AMap (List (BitVec 32))
  deriving DecidableEq, Repr

/-- A message in flight (R319, R320). -/
structure Msg where
  id    : Nat
  team  : Nat
  group : Nat
  lanes : List Nat
  pc    : Nat
  lane  : Nat
  args  : MsgArgs
  data  : List Byte
  total : Nat
  pay   : Nat                    -- bytes of a packet, as they stood at the commit (R319, R354)
  acked : List Nat
  retx  : AMap Nat               -- retransmissions of packets
  posted : Nat
  ended : Bool
  since : Nat                    -- when it was posted (R313)
  deriving DecidableEq, Repr

/-- A remote access awaiting its response (R313). -/
structure Access where
  id    : Nat
  team  : Nat
  group : Nat
  lanes : List Nat
  pc    : Nat
  lane  : Nat
  kind  : Nat                    -- 0 load, 1 store, 2 atomic
  loc   : Loc
  va    : Nat
  len   : Nat
  undo  : List (Nat × Byte × Byte) -- bytes of a store with what they replaced
  sent  : Nat
  part  : Nat                    -- index of the lane's part in its word
  spill : Bool := false          -- its packet has moved to the spillway channel (R310)
  pkt   : Nat := 0               -- the packet that carries it: the identifier of the first access it carries
  core  : Nat := 0               -- the core that sends it
  queued : Bool := false         -- not yet sent: an earlier write to its line is unacknowledged (R310)
  data  : List Byte := []        -- the bytes of a store to another package's team scratch
  deriving DecidableEq, Repr

/-- A packet or request the package has sent to a peer. -/
inductive Wire where
  | store (pkg pa : Nat) (bytes : List Byte)
  | scratch (pkg handle off : Nat) (bytes : List Byte)
  | access (id pkg pa : Nat)
  | post (frag pkg handle off : Nat) (beats : BitVec 16)
  | packet (msg pkt : Nat) (ep : Nat) (dst : Nat) (bytes : List Byte)
  | ack (ep seqNo : Nat)
  | refuse (ep seqNo : Nat)
  deriving DecidableEq, Repr

/-- An interrupt raised on the system cores or towards the driver (R71, R90, R198, R202, R306, R332, R345).
(DESIGN CHOICE, log entry 46) -/
inductive Irq where
  | fault (ctx : Nat)
  | completion (ctx : Nat)
  | page
  | hot
  | link (n : Nat)
  | freeze
  | uncorrectable
  | frame (pfn : Nat)            -- a frame with a lasting memory error, for the driver to retire (R346)
  deriving DecidableEq, Repr

/-! ### Links and the transport engine (R304 to R326) -/

/-- A link, keyed by 512·KIND + INDEX (R304, R309). (DESIGN CHOICE, log entry 6) -/
structure Link where
  state  : Nat := 0              -- 0 DOWN, 1 TRAINING, 2 ACTIVE, 3 DEGRADED, 4 RETRAIN, 5 FAILED
  lost   : List Nat := []        -- lanes retired as failed (FAILED)
  width  : Nat := 0              -- lanes carrying traffic, or the widest width a training may reach; 0: the kind's full width
  thr    : BitVec 16 := 0x4040
  irq    : Bool := false
  auto   : Bool := true
  corr   : BitVec 32 := 0
  fail   : BitVec 32 := 0
  eyes   : AMap Nat := []        -- HGT and WID of each lane
  since  : Nat := 0              -- when the present state was entered
  recent : List Nat := []        -- times of the corrections of the last 2^20 ac, newest first (R305)
  deriving DecidableEq, Repr

/-- An endpoint (R316, R323, R324). (DESIGN CHOICE, log entry 6) -/
structure Ep where
  state : Nat := 0               -- 0 INVALID, 1 READY, 2 RETRYING, 3 FAILED, 4 DENIED
  gen   : BitVec 16 := 0
  ctx   : Nat := 0
  port  : Nat := 0
  job   : Nat := 0
  addr0 : BitVec 64 := 0
  addr1 : BitVec 64 := 0
  cwnd  : BitVec 32 := 0
  rtt   : BitVec 20 := 0
  mark  : BitVec 12 := 0
  err   : Nat := 0
  since : Nat := 0               -- when it entered RETRYING
  placed : List Nat := []        -- packets of the peer already placed (R320)
  held   : List (Nat × Nat) := [] -- packets of the peer that wait for a page request, with the request
  sent   : List (Nat × Nat) := [] -- packets of the peer forwarded to another package, with the identifier of the write (R320)
  trips  : List (Nat × Nat) := [] -- bytes acknowledged, and of these marked, in each of the last 64 round trips (R323)
  deriving DecidableEq, Repr

/-- The link and transport registers of the package (R309, R316, R325, R326). (DESIGN CHOICE, log entry 6) -/
structure Nt where
  lksel : BitVec 64 := 0
  epsel : Nat := 0
  pkt   : BitVec 64 := 0x0000002016E36010
  fab   : BitVec 64 := 0x00005B8D80400000
  allow : List (Nat × Nat) := [] -- permitted prefixes: leading bits of a 128-bit address and their count
  rates : AMap Nat := []         -- the rate limit of each port (R325)
  deriving DecidableEq, Repr

/-! ### Debug (R327 to R338) -/

/-- The debug registers and rings. -/
structure Dbg where
  ctl   : BitVec 64 := 0
  txtRes : Nat := 0
  sel   : BitVec 64 := 0
  selg  : BitVec 64 := 0
  val   : BitVec 64 := 0
  smp   : BitVec 64 := 0x0000000000271000
  sring : BitVec 64 := 0
  head  : BitVec 32 := 0
  tail  : BitVec 32 := 0
  waiting : List (Nat × Nat × Nat × Nat) := []
    -- stop records waiting for a slot (R335): team, group, thread set and record
  rrGroup : AMap Nat := []       -- round-robin position of each core (R334)
  rrSwap  : Nat := 0
  last  : Nat := 0               -- time of the last sample
  edits : List (Nat × Nat × Nat × Nat × BitVec 20 × Reg) := []
    -- register writes not yet taken: context and launch number, team, group, lane, OPND, value (R331, R375)
  deriving DecidableEq, Repr

/-! ### Firmware and power (R339 to R351, R371 to R373) -/

/-- A firmware image: VER, and its length, of its header; the public keys and the signatures over the header's two fields and the
image bytes; and those bytes (R341). -/
structure Image where
  ver    : Nat
  len    : Nat
  rsaKey : List Byte
  slhKey : List Byte
  rsaSig : List Byte
  slhSig : List Byte
  bytes  : List Byte
  deriving DecidableEq, Repr

/-- What the three standards that R341 names give, as finite tables, since the spec defines them by reference only: the keys,
messages and signatures that verify under RSA-3072 and under SLH-DSA, and the SHA-384 digests of keys.
(DESIGN CHOICE, log entry 7) -/
structure Verifier where
  rsa : List (List Byte × List Byte × List Byte) := [([], List.replicate 16 0, [])]
  slh : List (List Byte × List Byte × List Byte) := [([], List.replicate 16 0, [])]
  sha : List (List Byte × List Byte) := [([], [])]
  deriving DecidableEq, Repr

/-- The preserved-state table of a live update: page-table roots, registered queues with HEAD and DONE, kernel slots with
their generations, endpoints with theirs, and replica sets (R343). (DESIGN CHOICE, log entry 7) -/
structure Preserved where
  roots   : List (Nat × BitVec 44)
  queues  : List (Nat × Nat × Nat)
  kernels : List (Nat × Nat)
  eps     : List (Nat × BitVec 16)
  repls   : List Repl
  deriving DecidableEq, Repr

/-- Firmware, its flash and the monitor's registers. (DESIGN CHOICE, log entry 7) -/
structure Fw where
  floor   : Nat := 0
  fallback : Bool := false
  slot    : Nat := 0
  state   : Nat := 0             -- 0 BOOT, 1 RUN, 2 RECOVERY
  upd     : BitVec 64 := 0       -- AREA
  updS    : Nat := 0
  win     : AMap (BitVec 64) := []
  frz     : BitVec 64 := 0
  frzc    : Nat := 0
  corr    : BitVec 32 := 0
  last    : BitVec 32 := 0
  keyS    : Nat := 0
  keySlots : BitVec 64 := 0      -- key slots that hold a key
  marker0 : List Byte := []      -- the two marker copies (R342)
  marker1 : List Byte := []
  slotA   : List (AMap Byte) := [[], [], [], []] -- the bytes of a slot's images in flash
  slotB   : List (AMap Byte) := [[], [], [], []]
  rsaFuse : List Byte := []      -- the fused digests of the two public keys (R341)
  slhFuse : List Byte := []
  verifier : Verifier := {}
  accepts : Bool := true         -- the successor accepts the table's version (R343)
  staged  : List Image := []     -- the verified images of the live update in progress (R343)
  phase   : Nat := 0             -- of a live update: 0 none, 1 taking has stopped, 2 the table is written (R343)
  heldWrites : List Instr := []  -- `CXQ_` writes held since, oldest first
  monitor : List (Nat × Nat) := [] -- the monitor's memory and the translator's, by offset and length (R344)
  sealed  : List (Nat × Nat) := []
  areaLen : Nat := 0             -- bytes of the update area
  frozen  : List Nat := []       -- frozen masters (R345)
  running : List Image := []     -- the images that run (R340, R343)
  kept    : Option Preserved := none -- the preserved-state table of the last live update (R343)
  deriving DecidableEq, Repr

/-- Clocks, temperatures and the power cap. (DESIGN CHOICE, log entry 8) -/
structure Pwr where
  temps  : AMap Nat := []        -- junction temperature of each die in °C; 25 when unlisted
  hotAt  : AMap Nat := []        -- time after it last rose above 95 °C, or 0 (R371)
  coolAt : AMap Nat := []        -- time after it last fell below 90 °C, or 0
  rails  : List Nat := []        -- power of VCORE, VSRAM, VQUAY, VSYS and VIO in W (R370, R373)
  overAt : Nat := 0              -- time after which a step of the cap's falls due, or 0 while the power is within the cap
  coolant : Nat × Nat := (0, 0)  -- inlet temperature and flow (R373)
  step   : AMap Nat := []        -- clock of each die in MHz as its temperature sets it; 600 when unlisted
  stopped : List Nat := []       -- dies whose clock is stopped
  stopAt : AMap Nat := []        -- when each was told to stop (R371)
  since  : AMap Nat := []        -- time after the last thermal step of each die
  cap    : Nat := 3600
  capClock : Nat := 600          -- clock the power cap sets, in MHz
  off    : Bool := false
  reading : List Nat := []
  deriving DecidableEq, Repr

/-! ### The package -/

/-- A timed input: an event that an agent outside the model raises when `after` steps have passed. -/
structure Input where
  after : Nat
  event : Instr
  deriving DecidableEq, Repr

/-- The issuing thread set: launch-time team identifier, group index and thread-set identifier. -/
abbrev Cur := Nat × Nat × Nat

/-- The state of one GN16 package. (DESIGN CHOICE, log entry 9) -/
structure State where
  clk      : Nat                 -- `sr.clk`, in ac
  pkg      : Nat
  members  : List Nat            -- packages the polder holds (R194)
  mem      : Memory
  badBytes : List Nat            -- bytes with an uncorrectable error (R348)
  wlog     : List MemWrote          -- recent writes to memory, newest first (R116, R220)
  wseq     : Nat                 -- order of the next write
  slog     : List ScrWrote       -- recent writes to scratch, newest first (R116)
  counters : AMap Nat            -- access counters of 64 KiB chunks (R202)
  irqs     : List Irq
  ctxs     : AMap Ctx
  queues   : AMap Queue
  kslots   : AMap KSlot          -- by 4096·context + slot
  tcache   : List TEntry
  xlates   : List Xlate
  launches : List Launch
  teams    : List Team
  cores    : AMap Core
  cmds     : List Cmd
  frags    : List Frag
  fills    : List Fill
  acreds   : List Acred
  msgs     : List Msg
  accesses : List Access
  tlbs     : List Tlb
  walks    : List Walk
  preqs    : List PReq
  walkEnds : List WalkEnd
  repls    : List Repl
  cxq      : Cxq
  pg       : Pg
  links    : AMap Link
  eps      : AMap Ep
  nt       : Nt
  dbg      : Dbg
  fw       : Fw
  pwr      : Pwr
  harts    : AMap (BitVec 64)    -- what the last load or AMO of each system-core hart returned (R16, R301)
  wires    : List Wire
  nextId   : Nat                 -- next identifier of the model
  nextReq  : Nat                 -- next page-request ID (R198)
  rr       : AMap Nat            -- round-robin position of the queues of each priority (R94)
  issue    : AMap Nat            -- start of each core's issue cycle (R128)
  inputs   : List Input
  picks    : List Nat            -- schedule choices
  cur      : Option Cur
  free     : Nat                 -- counter of free values
  deriving DecidableEq, Repr

/-- The package right after reset (R6 and the Reset columns of the register tables): no context, queue, kernel, team or
engine work; memory lists nothing.
(DESIGN CHOICE, log entry 1; DESIGN CHOICE, log entry 5; DESIGN CHOICE, log entry 6; DESIGN CHOICE, log entry 7) -/
def State.reset : State where
  clk := 0
  pkg := 0
  members := [0]
  mem := []
  badBytes := []
  wlog := []
  wseq := 0
  slog := []
  counters := []
  irqs := []
  ctxs := []
  queues := []
  kslots := []
  tcache := []
  xlates := []
  launches := []
  teams := []
  cores := []
  cmds := []
  frags := []
  fills := []
  acreds := []
  msgs := []
  accesses := []
  tlbs := []
  walks := []
  preqs := []
  walkEnds := []
  repls := []
  cxq := {}
  pg := {}
  links := []
  eps := []
  nt := {}
  dbg := {}
  fw := {}
  pwr := {}
  harts := []
  wires := []
  nextId := 1
  nextReq := 1
  rr := []
  issue := []
  inputs := []
  picks := []
  cur := none
  free := 0

end Sys2Proof.Machine
end

