-- ==== Sys2Proof/Machine/Operands.lean ====
section
/-!
DEFINITION. The window through which a word sees its thread set and group, and every operand form: reading a source
and writing a destination (R24, R44, R45, R48, R51, R74, R82, R126, R174).
-/
namespace Sys2Proof.Machine

/-- What the special registers read beside the group's own state (R74). -/
structure SrEnv where
  ngroup : Nat := 1
  teamx : Nat := 0
  teamy : Nat := 0
  teamz : Nat := 0
  gridx : Nat := 1
  gridy : Nat := 1
  gridz : Nat := 1
  teamh : Nat := 0
  core : Nat := 0
  die : Nat := 0
  pkg : Nat := 0
  ctx : Nat := 0
  clk : Nat := 0
  deriving DecidableEq, Repr

/-- A word's view: the special-register values, the lanes active for it, its group and its thread set, and the
free-value counter. -/
structure W where
  env  : SrEnv
  act  : List Nat
  grp  : Group
  ts   : TSet
  free : Nat
  deriving DecidableEq, Repr

/-- Key of a lane's register in a table. -/
def laneKey (reg lane : Nat) : Nat := 32 * reg + lane

/-- Predicates of a lane, p0 included, as eight bits (R45). -/
def Group.predBits (g : Group) (lane : Nat) : BitVec 8 := aget 0 g.p lane ||| 1

/-- Predicate `i` of a lane; p0 is true (R48). -/
def Group.pred (g : Group) (lane i : Nat) : Bool := (g.predBits lane).getLsbD i

/-- The guard of a lane (R48). -/
def Group.guard (g : Group) (grd : BitVec 4) (lane : Nat) : Bool :=
  g.pred lane (grd.extractLsb' 0 3).toNat != grd.getLsbD 3

/-- A mask with the bits of the given lanes. -/
def laneMask (ls : List Nat) : Nat := (ls.map fun l => 2 ^ l).sum

/-- The first entry of a key in an overlay, newest first. -/
def overlay {α : Type} (d : α) (ov : List (Nat × α)) (k : Nat) : α :=
  match ov.find? (fun e => e.1 == k) with | some e => e.2 | none => d

/-! ### Reading (R45, R74) -/

/-- A lane register (R44). -/
def W.vRead (w : W) (n lane : Nat) : Reg := aget marker w.grp.v (laneKey n lane)

/-- A uniform register as the thread set sees it (R126). -/
def W.gRead (w : W) (n : Nat) : Reg := overlay (aget marker w.grp.g n) w.ts.gOv n

/-- A temporary of a lane: the value it last wrote in this run, whatever later words of the run skipped the lane (R48, R51);
one the lane did not write in this run holds a free choice of zero or a value it wrote in an earlier run.
(DEDUCED, log entry 26) -/
def W.tRead (w : W) (i lane : Nat) : Reg :=
  let k := laneKey i lane
  match w.ts.temps.find? (fun e => e.1 == k) with
  | some e => e.2
  | none =>
    let choices := (0 : Reg) :: aget [] w.grp.tHist k
    choose (Config.freePick w.ts.draw k) 0 choices

/-- The segment size a lane-set register holds (R141). -/
def W.lsRead (w : W) (i : Nat) : Nat := if i = 0 then 32 else overlay (aget 32 w.grp.ls i) w.ts.lsOv i

/-- `sr.seed` as the thread set sees it (R77). -/
def W.seed (w : W) : Reg := w.ts.seedOv.getD w.grp.seed

/-- `sr.fflg` as R40 bounds it: the flags at the run's start, the thread set's own, and of each run that another set has
committed since, all its flags or none, as a free choice. (DEDUCED, log entry 29) -/
def W.fflgRead (w : W) : Reg :=
  let since := w.grp.flRuns.filter fun e => decide (w.ts.begun < e.1)
  let others := since.foldl (fun (m : Flag6) e => if Config.freePick w.free e.1 % 2 = 1 then m ||| e.2 else m) 0
  (w.ts.fl0 ||| w.ts.fl ||| others).zeroExtend 64

/-- A special register of a lane (R74). (DEDUCED, log entry 29) -/
def W.srRead (w : W) (r : SReg) (lane : Nat) : Reg :=
  let n (x : Nat) : Reg := BitVec.ofNat 64 x
  let word (k len : Nat) : Reg :=
    match w.ts.emu with | some e => n (fieldOf e.word.toNat k len) | none => 0
  let src (f : Emu → AMap Reg) : Reg := match w.ts.emu with | some e => aget 0 (f e) lane | none => 0
  match r with
  | .lane => n lane
  | .group => n w.grp.index
  | .ngroup => n w.env.ngroup
  | .tidx => n (32 * w.grp.index + lane)
  | .tidy => 0
  | .tidz => 0
  | .teamx => n w.env.teamx
  | .teamy => n w.env.teamy
  | .teamz => n w.env.teamz
  | .gridx => n w.env.gridx
  | .gridy => n w.env.gridy
  | .gridz => n w.env.gridz
  | .role => n w.grp.role
  | .teamh => n w.env.teamh
  | .core => n w.env.core
  | .die => n w.env.die
  | .pkg => n w.env.pkg
  | .ctx => n w.env.ctx
  | .clk => n w.env.clk
  | .fflg => w.fflgRead
  | .seed => w.seed
  | .lmask => n (laneMask w.act)
  | .emuop => word 114 10
  | .emucls => word 124 3
  | .emutyp => word 108 6
  | .emumod => word 102 6
  | .emudst => word 78 20
  | .emusa => src (·.sa)
  | .emusb => src (·.sb)
  | .emusc => src (·.sc)
  | .emuimm => word 0 38
  | .emupc => match w.ts.emu with | some e => n e.pc | none => 0

/-- The 64-bit value of a source operand in a lane (R45). -/
def W.src (w : W) (o : Opd) (lane : Nat) : Reg :=
  match o with
  | .v n => w.vRead n.toNat lane
  | .g n => w.gRead n.toNat
  | .t i => w.tRead i.val lane
  | .p i => if w.grp.pred lane i.val then 1 else 0
  | .ls i => BitVec.ofNat 64 (w.lsRead i.val)
  | .s i => BitVec.ofNat 64 (aget 0 w.grp.sig i.val)
  | .b _ => 0
  | .sr r => w.srRead r lane
  | .a _ => 0
  | .f _ => 0
  | .nx _ => 0
  | .z => 0
  | .imm x => x.signExtend 64

/-- A source of a word that does no floating arithmetic: a packed integer or raw-bit type takes the low bits of an immediate in
every element; a packed float or `md8x8` type, for which R45 says only that the immediate is sign-extended, takes the 64 bits.
(DEDUCED, log entry 26) -/
def W.srcT (w : W) (t : Typ) (o : Opd) (lane : Nat) : Reg :=
  match o with
  | .imm x =>
    if tP t then packElems (tyWidth t) (List.replicate (tyElems t) (x.signExtend 64).toNat) else x.signExtend 64
  | o => w.src o lane

/-- An immediate as the bits of a floating value (R174). (DEDUCED, log entry 26) -/
def immFloat (f : Fmt) (x : BitVec 18) : Nat := (roundF f .rne false (ofIntF (immVal x))).bits

/-- Bits of element `e` of a source read as elements of a floating type (R174). -/
def W.srcF (w : W) (t : Typ) (o : Opd) (lane e : Nat) : Nat :=
  match o with
  | .imm x => immFloat (fmtOf t) x
  | o => elemBits (tyWidth t) e (w.src o lane)

/-- A predicate source: an immediate reads as its bit 0 (R171). -/
def W.predSrc (w : W) (o : Opd) (lane : Nat) : Bool :=
  match o with
  | .p i => w.grp.pred lane i.val
  | .imm x => x.getLsbD 0
  | _ => false

/-! ### Writing (R24, R45, R126) -/

/-- Write a lane register, keeping its value at the run's start for a discard. -/
def W.vWrite (w : W) (n lane : Nat) (x : Reg) : W :=
  let k := laneKey n lane
  { w with
    grp := { w.grp with v := aset marker w.grp.v k x },
    ts := { w.ts with undoV := (k, aget marker w.grp.v k) :: w.ts.undoV } }

/-- Write a uniform register: at once for the thread set, for others at the commit (R126). -/
def W.gWrite (w : W) (n : Nat) (x : Reg) : W := { w with ts := { w.ts with gOv := (n, x) :: w.ts.gOv } }

/-- Write a temporary of a lane (R51). -/
def W.tWrite (w : W) (i lane : Nat) (x : Reg) : W :=
  { w with ts := { w.ts with temps := (laneKey i lane, x) :: w.ts.temps } }

/-- Write the predicates p1 to p7 of a lane; p0 is discarded (R45). -/
def W.predBitsWrite (w : W) (lane : Nat) (x : BitVec 8) : W :=
  { w with
    grp := { w.grp with p := aset 0 w.grp.p lane (x &&& 0xFE) },
    ts := { w.ts with undoP := (lane, aget 0 w.grp.p lane) :: w.ts.undoP } }

/-- Write one predicate of a lane; p0 is discarded (R45). -/
def W.predWrite (w : W) (lane i : Nat) (b : Bool) : W :=
  let old := w.grp.predBits lane
  let bit : BitVec 8 := BitVec.ofNat 8 (2 ^ i)
  w.predBitsWrite lane (if b then old ||| bit else old &&& ~~~bit)

/-- Fold a write over the active lanes in rising order. -/
def W.overLanes (w : W) (f : W → Nat → W) : W := w.act.foldl f w

/-- Write a register destination of every active lane; a uniform one takes the lowest active lane's value. All values
are computed before any is written (R9, R126). -/
def W.dst (w : W) (o : Opd) (val : Nat → Reg) : W :=
  let vals := w.act.map fun l => (l, val l)
  match o with
  | .v n => vals.foldl (fun w' e => w'.vWrite n.toNat e.1 e.2) w
  | .t i => vals.foldl (fun w' e => w'.tWrite i.val e.1 e.2) w
  | .g n => match vals with | [] => w | e :: _ => w.gWrite n.toNat e.2
  | _ => w

/-- Write a predicate destination of every active lane; a write to `p0` or `z` is discarded (R45). -/
def W.dstPred (w : W) (o : Opd) (val : Nat → Bool) : W :=
  let vals := w.act.map fun l => (l, val l)
  match o with
  | .p i => if i.val = 0 then w else vals.foldl (fun w' e => w'.predWrite e.1 i.val e.2) w
  | _ => w

/-- Raise flags into the run's pending flags (R40). -/
def W.raise (w : W) (fl : Flags) : W := { w with ts := { w.ts with fl := w.ts.fl ||| fl } }

/-- Hold an act to the run's commit (R51). -/
def W.hold (w : W) (a : Act) : W :=
  { w with ts := { w.ts with held := ⟨w.ts.pc, w.act, a, w.act.headD 0⟩ :: w.ts.held } }

/-- The lowest active lane. -/
def W.low (w : W) : Nat := w.act.headD 0

/-- The value of a source in the lowest active lane. -/
def W.srcLow (w : W) (o : Opd) : Reg := w.src o w.low

/-- Is a lane active for the word (R48)? -/
def W.active (w : W) (lane : Nat) : Bool := w.act.contains lane

/-- The active lanes of the segment of a lane (R142). -/
def W.segment (w : W) (n lane : Nat) : List Nat :=
  w.act.filter fun j => j / n == lane / n

/-- The source operand holds the marker in a lane (R37). -/
def W.marked (w : W) (o : Opd) (lane : Nat) : Bool :=
  match o with
  | .v n => w.vRead n.toNat lane == marker
  | .g n => w.gRead n.toNat == marker
  | .t i => w.tRead i.val lane == marker
  | _ => false

/-- KIND and DETAIL of a MARK record for a source (R37, R69). -/
def markKind : Opd → Nat × Nat
  | .v n => (0, n.toNat)
  | .g n => (1, n.toNat)
  | .t i => (2, i.val)
  | _ => (0, 0)

/-- The MARK check of class 0b001 over the sources the word uses, in the order SA, SB, SC (R37). -/
def W.markCheck (w : W) (srcs : List (Nat × Opd)) : Option FInfo :=
  w.act.findSome? fun l =>
    srcs.findSome? fun s =>
      if w.marked s.2 l then
        some { code := 2, lane := l, detail := (markKind s.2).2, kind := (markKind s.2).1, src := s.1 }
      else none

end Sys2Proof.Machine
end

