-- ==== Sys2Proof/Machine/Flags.lean ====
section
/-!
DEFINITION. Writing results with the flags they raise (R25, R38 to R40), and the bodies shared by the register-only
words.
-/
namespace Sys2Proof.Machine

/-- A register-only word: its effect on the window, or the fault it raises before any effect. -/
abbrev Body := W → Except FInfo W

/-- Union of flags over a list. -/
def flagsOf {α : Type} (f : α → Flags) (xs : List α) : Flags := xs.foldl (fun acc x => acc ||| f x) 0

/-- Write an integer result in every active lane and raise SAT if any element was clamped (R25, R152). -/
def W.intDst (w : W) (o : Opd) (f : Nat → IntRes) : W :=
  (w.dst o fun l => (f l).val).raise (flagIf (w.act.any fun l => (f l).sat) fSAT)

/-- Write a floating result in every active lane and raise the flags of every element (R39). -/
def W.floatDst (w : W) (o : Opd) (f : Nat → Reg × Flags) : W :=
  (w.dst o fun l => (f l).1).raise (flagsOf (fun l => (f l).2) w.act)

/-- Results of several elements as one register with the union of their flags. -/
def packRes (t : Typ) (rs : List FRes) : Reg × Flags :=
  (resultReg t (rs.map (·.bits)), flagsOf (·.fl) rs)

/-- A body that raises no fault. -/
def pureBody (f : W → W) : Body := fun w => .ok (f w)

/-- A body of class 0b001: the marker check on the sources used comes first (R37). -/
def markedBody (srcs : List (Nat × Opd)) (f : W → W) : Body := fun w =>
  match w.markCheck srcs with
  | some e => .error e
  | none => .ok (f w)

end Sys2Proof.Machine
end

