-- ==== Sys2Proof/Machine/Access.lean ====
section
/-!
DEFINITION. Access to the parts of the state: contexts, launches, teams, groups and thread sets; memory bytes; scratch
and tiles; special-register values (R5, R14, R74, R108, R119 to R121, R225 to R227).
-/
namespace Sys2Proof.Machine

/-- The outcome of a step. -/
abbrev Res := Host.Outcome State Fault Refusal

/-! ### Tables -/

def State.ctx (s : State) (c : Nat) : Ctx := aget {} s.ctxs c
def State.setCtx (s : State) (c : Nat) (x : Ctx) : State := { s with ctxs := aset {} s.ctxs c x }
def State.queue (s : State) (q : Nat) : Queue := aget {} s.queues q
def State.setQueue (s : State) (q : Nat) (x : Queue) : State := { s with queues := aset {} s.queues q x }
def State.kslot (s : State) (ctx slot : Nat) : KSlot := aget {} s.kslots (4096 * ctx + slot)
def State.setKslot (s : State) (ctx slot : Nat) (x : KSlot) : State :=
  { s with kslots := aset {} s.kslots (4096 * ctx + slot) x }
def State.core (s : State) (c : Nat) : Core := aget {} s.cores c
def State.setCore (s : State) (c : Nat) (x : Core) : State := { s with cores := aset {} s.cores c x }
def State.link (s : State) (n : Nat) : Link := aget {} s.links n
def State.setLink (s : State) (n : Nat) (x : Link) : State := { s with links := aset {} s.links n x }
def State.ep (s : State) (n : Nat) : Ep := aget {} s.eps n
def State.setEp (s : State) (n : Nat) (x : Ep) : State := { s with eps := aset {} s.eps n x }

def State.team? (s : State) (id : Nat) : Option Team := s.teams.find? fun t => t.id == id
def State.setTeam (s : State) (t : Team) : State :=
  { s with teams := lreplace (fun u => u.id == t.id) (fun _ => t) s.teams }
def State.launch? (s : State) (id : Nat) : Option Launch := s.launches.find? fun l => l.id == id
def State.setLaunch (s : State) (l : Launch) : State :=
  { s with launches := lreplace (fun u => u.id == l.id) (fun _ => l) s.launches }
def Team.group? (t : Team) (g : Nat) : Option Group := t.groups.find? fun x => x.index == g
def Team.setGroup (t : Team) (g : Group) : Team :=
  { t with groups := lreplace (fun x => x.index == g.index) (fun _ => g) t.groups }
def Group.tset? (g : Group) (id : Nat) : Option TSet := g.tsets.find? fun x => x.id == id
def Group.setTset (g : Group) (ts : TSet) : Group :=
  { g with tsets := lreplace (fun x => x.id == ts.id) (fun _ => ts) g.tsets }

/-- The kernel of a team's launch. -/
def State.kernelOf (s : State) (t : Team) : Kernel :=
  match s.launch? t.launch with | some l => l.kernel | none => {}

/-- Apply a function to a team. -/
def State.onTeam (s : State) (id : Nat) (f : Team → Team) : State :=
  { s with teams := lreplace (fun u => u.id == id) f s.teams }

/-- Apply a function to a group of a team. -/
def State.onGroup (s : State) (id g : Nat) (f : Group → Group) : State :=
  s.onTeam id fun t => { t with groups := lreplace (fun x => x.index == g) f t.groups }

/-- Apply a function to a thread set. -/
def State.onTset (s : State) (c : Cur) (f : TSet → TSet) : State :=
  s.onGroup c.1 c.2.1 fun g => { g with tsets := lreplace (fun x => x.id == c.2.2) f g.tsets }

/-- A thread set with its group and team. -/
def State.view (s : State) (c : Cur) : Option (Team × Group × TSet) :=
  match s.team? c.1 with
  | none => none
  | some t =>
    match t.group? c.2.1 with
    | none => none
    | some g =>
      match g.tset? c.2.2 with
      | none => none
      | some ts => some (t, g, ts)

/-- Write a window's group and thread set back. -/
def State.store (s : State) (t : Team) (w : W) : State :=
  { s.setTeam (t.setGroup (w.grp.setTset w.ts)) with free := w.free }

/-- A fresh identifier. -/
def State.fresh (s : State) : Nat × State := (s.nextId, { s with nextId := s.nextId + 1 })

/-- Raise an interrupt. (DESIGN CHOICE, log entry 46) -/
def State.irq (s : State) (i : Irq) : State := { s with irqs := s.irqs ++ [i] }

/-! ### Memory (R5, R14) -/

/-- One byte of memory. (DESIGN CHOICE, log entry 2) -/
def readByte (m : Memory) (a : Nat) : Byte := aget memDefault m a
/-- Memory with one byte replaced. -/
def writeByte (m : Memory) (a : Nat) (b : Byte) : Memory := aset memDefault m a b
/-- `n` bytes from an address, lowest first. -/
def readBytes (m : Memory) (a n : Nat) : List Byte := (List.range n).map fun k => readByte m (a + k)
/-- Memory with bytes written from an address. -/
def writeBytes (m : Memory) (a : Nat) : List Byte → Memory
  | [] => m
  | b :: bs => writeBytes (writeByte m a b) (a + 1) bs
/-- The canonical form of memory. -/
abbrev Memory.wf (m : Memory) : Bool := awf memDefault m

/-- A little-endian number from bytes (R5). -/
def leNat (bs : List Byte) : Nat := bs.foldr (fun b acc => b.toNat + 256 * acc) 0
/-- The `n` little-endian bytes of a number (R5). -/
def leBytes (n v : Nat) : List Byte := (List.range n).map fun k => BitVec.ofNat 8 (v / 256 ^ k)

/-- The 8-byte little-endian word at a physical address. -/
def State.word64 (s : State) (pa : Nat) : Nat := leNat (readBytes s.mem pa 8)
/-- Write bytes at a physical address, keeping what they replaced in the write log for 65,536 ac (R220).
(DEDUCED, log entry 14) -/
def State.poke (s : State) (pa : Nat) (bs : List Byte) : State :=
  let log := (List.range bs.length).map fun k => (⟨s.wseq + k, s.clk, pa + k, readByte s.mem (pa + k), none⟩ : MemWrote)
  { s with
    mem := writeBytes s.mem pa bs
    badBytes := s.badBytes.filter fun b => !(decide (pa ≤ b) && decide (b < pa + bs.length))
    wlog := log.reverse ++ s.wlog.filter fun e => decide (s.clk ≤ e.time + 65536)
    wseq := s.wseq + bs.length }

/-- The writes logged from an order on are those of a lane (R116). -/
def State.signed (s : State) (order team group lane : Nat) : State :=
  { s with wlog := s.wlog.map fun e => if order ≤ e.order then { e with party := some (team, group, lane) } else e }

/-- Write the low `n` bytes of a number at a physical address. -/
def State.putNat (s : State) (pa n v : Nat) : State := s.poke pa (leBytes n v)

/-- Package that a physical address names (R200). -/
def paPkg (pa : Nat) : Nat := fieldOf pa 43 7
/-- Offset of a physical address within its package (R200). -/
def paOff (pa : Nat) : Nat := pa % 2 ^ 43
/-- Key ID of a physical address (R14). (DEDUCED, log entry 14) -/
def paKey (pa : Nat) : Nat := fieldOf pa 50 6
/-- The address lies in a hole of the map of R200, or in a package the polder does not hold. -/
def State.paHole (s : State) (pa : Nat) : Bool :=
  !(s.members.contains (paPkg pa)) ||
  !(decide (paOff pa < 0x10000000000) || (decide (0x20000000000 ≤ paOff pa) && decide (paOff pa < 0x60000000000)))
/-- The address lies in the translation cache: the top 2 GiB of the fast tier (R113, R200). -/
def paXcache (pa : Nat) : Bool := decide (0x0FF80000000 ≤ paOff pa) && decide (paOff pa < 0x10000000000)
/-- An offset in the package lies in one of some ranges. -/
def inRanges (rs : List (Nat × Nat)) (pa : Nat) : Bool := rs.any fun r => decide (r.1 ≤ paOff pa) && decide (paOff pa < r.1 + r.2)
/-- The address lies where only the translation cores and the monitor read and write: in the translation cache, or in the memory of
the translator (R17, R344). -/
def State.sealed (s : State) (pa : Nat) : Bool := paXcache pa || inRanges s.fw.sealed pa
/-- What the device itself does not access where its driver has put one of its structures: an address that only the translation cores
may reach, or one under a key ID whose slot holds no key (R17, R67). -/
def State.shut (s : State) (pa : Nat) : Bool := s.sealed pa || !s.fw.keySlots.getLsbD (paKey pa)
/-- The address lies in the update area (R343). -/
def State.inArea (s : State) (pa : Nat) : Bool :=
  inRanges [(fieldOf s.fw.upd.toNat 12 31 * 4096, s.fw.areaLen)] pa
/-- The quay die that owns an address of its package (R200). The first half of the fast tier goes across all stacks in
1 KiB granules, stack by stack. (DESIGN CHOICE, log entry 13) -/
def paQuay (pa : Nat) : Nat :=
  let o := paOff pa
  if o < 0x8000000000 then o / 1024 % 16 / 4
  else if o < 0x10000000000 then (o - 0x8000000000) / 0x2000000000
  else (o - 0x20000000000) / 0x10000000000

/-! ### Scratch, banks and tiles (R108, R225 to R227) -/

/-- Bytes of a bank. -/
def bankBytes : Nat := 262144

/-- Key of a byte of a team's banks. -/
def bankKey (core bank off : Nat) : Nat := core * 8388608 + bank * 262144 + off

/-- The plan entry that holds a scratch offset. -/
def Team.planAt (t : Team) (off : Nat) : Option PlanEnt :=
  t.plan.find? fun e => e.kind == 0 && decide (e.soff ≤ off) && decide (off < e.soff + e.size)

/-- Bank location of a scratch offset. -/
def Team.scrKey (t : Team) (off : Nat) : Nat :=
  match t.planAt off with
  | some e => bankKey e.core e.bank (e.boff + (off - e.soff))
  | none => bankKey 0 0 off

/-- The scratch offset's bank is held in CACHE mode (R226). -/
def Team.inCache (t : Team) (off : Nat) : Bool :=
  match t.planAt off with
  | some e => t.released.contains (32 * e.core + e.bank)
  | none => false

/-- The scratch offset's bank is closed to arrivals (R240). -/
def Team.isClosed (t : Team) (off : Nat) : Bool :=
  match t.planAt off with
  | some e => t.closed.contains (32 * e.core + e.bank)
  | none => false

/-- A range of scratch touches a bank among those listed as 32·core + bank. -/
def Team.meets (t : Team) (banks : List Nat) (off len : Nat) : Bool :=
  banks != [] && t.plan.any fun e =>
    e.kind == 0 && decide (e.soff < off + len) && decide (off < e.soff + e.size) && banks.contains (32 * e.core + e.bank)

/-- A range of scratch touches a bank held in CACHE mode (R226). -/
def Team.refuses (t : Team) (off len : Nat) : Bool := t.meets t.released off len
/-- A range of scratch touches a closed bank, at which arrivals wait (R240); a bank that is in CACHE mode already refuses them.
(DEDUCED, log entry 21) -/
def Team.waits (t : Team) (off len : Nat) : Bool := t.meets t.closed off len && !t.refuses off len

/-- Team core of a scratch offset's bank. -/
def Team.coreAt (t : Team) (off : Nat) : Nat := match t.planAt off with | some e => e.core | none => 0

/-- A byte of scratch. -/
def Team.scrByte (t : Team) (off : Nat) : Byte := aget 0 t.scr (t.scrKey off)
def Team.scrRead (t : Team) (off n : Nat) : List Byte := (List.range n).map fun k => t.scrByte (off + k)
/-- Bytes written to scratch; no engine reads an older byte there any more (R219). -/
def Team.scrWrite (t : Team) (off : Nat) : List Byte → Team
  | [] => t
  | b :: bs =>
    let k := t.scrKey off
    Team.scrWrite { t with
      scr := aset 0 t.scr k b, bad := t.bad.filter (· != k), unf := t.unf.filter fun e => e.2.1 != off } (off + 1) bs

/-- Log a write of bytes of a team's scratch, kept for 65,536 ac (R116). -/
def State.noteScr (s : State) (team off n : Nat) (party : Option (Nat × Nat × Nat)) : State :=
  match s.team? team with
  | none => s
  | some u =>
    { s with slog := ⟨s.clk, team, (List.range n).map fun k => u.scrKey (off + k), party⟩ ::
        s.slog.filter fun e => decide (s.clk ≤ e.time + 65536) }

/-- Tags at launch. -/
def tag0 : Tag := ⟨0, false, false⟩
/-- Tag of the tile that holds a scratch offset (R227). -/
def Team.tag (t : Team) (off : Nat) : Tag := aget tag0 t.tags (t.scrKey off / 512)
def Team.setTag (t : Team) (off : Nat) (x : Tag) : Team := { t with tags := aset tag0 t.tags (t.scrKey off / 512) x }
def Tag.full (g : Tag) : Bool := g.mask == 0xFFFF
/-- 0 EMPTY, 1 FILLING, 2 FULL (R227). -/
def Tag.state (g : Tag) : Nat := if g.mask = 0 then 0 else if g.full then 2 else 1

/-- ApplyArrival (R228): beats `beats` of the tile at offset `off`, with the bytes of the whole tile given. -/
def Team.arrive (t : Team) (off : Nat) (beats : BitVec 16) (bytes : List Byte) (sealed : Bool) : Team :=
  let base := off / 512 * 512
  let old := t.tag base
  let t1 := (List.range 16).foldl (fun u b =>
    if beats.getLsbD b then u.scrWrite (base + 32 * b) ((bytes.drop (32 * b)).take 32) else u) t
  let mask := if sealed then 0xFFFF else old.mask ||| beats
  let t2 := t1.setTag base { old with mask := mask, ovr := old.ovr || old.full }
  if old.full then { t2 with ovc := min (t2.ovc + 1) (2 ^ 32 - 1), ovlast := base } else t2

/-- Force a tile EMPTY (R223). -/
def Team.emptyTile (t : Team) (off : Nat) : Team := t.setTag off { t.tag off with mask := 0 }

/-! ### Positions (R120 to R122) -/

/-- Groups of a kernel's team. -/
def Kernel.groupCount (k : Kernel) : Nat := k.threads / 32
/-- Team core on which a group runs (R122). -/
def Kernel.coreOf (k : Kernel) (g : Nat) : Nat := g * k.cores / (max k.groupCount 1)
/-- Role index of a group (R121). -/
def roleOf : List Role → Nat → Nat
  | [], _ => 0
  | r :: rs, g => if g < r.groups then 0 else 1 + roleOf rs (g - r.groups)
/-- Teams in a gang (R123). -/
def Kernel.gangTeams (k : Kernel) : Nat := if k.gang = 0 then 1 else max (k.gang / max k.cores 1) 1
/-- Package-wide core of a team core. -/
def Team.coreNo (t : Team) (tc : Nat) : Nat := t.cores.getD tc 0
/-- The teams of a team's gang, in rank order (R123). -/
def State.gangOf (s : State) (t : Team) : List Team :=
  let n := (s.kernelOf t).gangTeams
  let mine := s.teams.filter fun u => u.launch == t.launch && u.index / n == t.index / n
  (List.range n).filterMap fun k => mine.find? fun u => u.index % n == k

/-- The special-register values of a team's group (R74, R120). -/
def State.env (s : State) (t : Team) (g : Nat) : SrEnv :=
  let k := s.kernelOf t
  let l := s.launch? t.launch
  let gx := match l with | some l => l.gx | none => 1
  let gy := match l with | some l => l.gy | none => 1
  let c := t.coreNo (k.coreOf g)
  { ngroup := k.groupCount
    teamx := t.index % gx
    teamy := t.index / gx % gy
    teamz := t.index / gx / gy
    gridx := gx
    gridy := gy
    gridz := match l with | some l => l.gz | none => 1
    teamh := t.handle
    core := c % 16
    die := c / 16
    pkg := s.pkg
    ctx := match l with | some l => l.ctx | none => 0
    clk := s.clk }

/-- The handle of a launch's kernel, by which teams count as of one kernel or of two (R104, R130). -/
def Launch.handle (l : Launch) : Nat := l.ctx * 2 ^ 26 + l.gen * 2 ^ 12 + l.slot

/-- Context of a team. -/
def State.ctxOf (s : State) (t : Team) : Nat := match s.launch? t.launch with | some l => l.ctx | none => 0

/-- The window of a thread set with the given active lanes. -/
def State.window (s : State) (t : Team) (g : Group) (ts : TSet) (act : List Nat) : W :=
  { env := s.env t g.index, act := act, grp := g, ts := ts, free := s.free }

/-! ### What stands still (R345, R347, R371) -/

/-- A die's arithmetic clock stands: it was told to stop (R371). -/
def State.clockStopped (s : State) (die : Nat) : Bool := s.pwr.stopped.contains die && decide (aget 0 s.pwr.stopAt die ≤ s.clk)

/-- A core stands still, in an issue cycle or not: it is frozen, or the module is off (R347). -/
def State.coreFrozen (s : State) (core : Nat) : Bool := decide (s.clk < (s.core core).frozen) || s.pwr.off

/-- A core begins nothing: it is frozen, or its die's clock is stopped. -/
def State.coreIdle (s : State) (core : Nat) : Bool := s.coreFrozen core || s.clockStopped (core / 16)

/-- The policy core is frozen, or a live update has stopped it: dispatch and the packets it performs wait (R343, R345). -/
def State.cx0Frozen (s : State) : Bool := s.fw.frozen.contains 0 || s.fw.phase != 0
/-- The policy core or the wake core of a queue is frozen, or a live update has stopped them: nothing is taken, and completion writes are held. -/
def State.unserved (s : State) (q : Nat) : Bool := s.cx0Frozen || s.fw.frozen.contains (1 + q % 6)

end Sys2Proof.Machine
end

