-- ==== Sys2Proof/Machine/Mem.lean ====
section
/-!
DEFINITION. Addresses, translation and the places an access touches (R194 to R208, R213, R299).
-/
namespace Sys2Proof.Machine

/-! ### Sv57 (R195, R196) -/

/-- What a walk of the tables gives. -/
inductive WalkRes where
  | request (cause level : Nat)
  | fault (code detail : Nat)    -- an entry cannot be read: its key is destroyed (R67), its bytes are lost, or its package is
  | busy                         -- a link on the way to an entry holds its traffic (R305)
  | leaf (pteAddr pte level : Nat)
  deriving DecidableEq, Repr

def pteBit (p i : Nat) : Bool := p.testBit i
/-- PPN of an entry. -/
def ptePpn (p : Nat) : Nat := fieldOf p 10 44
/-- Physical base an entry points to. -/
def pteBase (p : Nat) : Nat := ptePpn p * 4096

/-- Reserved bits of an entry: 60:54 and PBMT. -/
def pteReserved (p : Nat) : Bool := fieldOf p 54 7 != 0 || fieldOf p 61 2 != 0

/-- A leaf is malformed (R195, R196). (PRESUMED, log entry 30) -/
def pteMalformed (p level : Nat) : Bool :=
  (pteBit p 2 && !pteBit p 1) || pteReserved p ||
  (pteBit p 63 && !(level == 0 && ptePpn p % 16 == 8)) ||
  (level != 0 && ptePpn p % 512 ^ level != 0)

/-- The check of a leaf: none if it passes, else the CAUSE of R198. Of several that apply, of which R198 gives no order, it is the first
of 6, 5, 4, 2 and 3. (DESIGN CHOICE, log entry 30) -/
def leafCause (p level kind : Nat) : Option Nat :=
  if 3 ≤ level then some 6
  else if pteMalformed p level then some 5
  else if !pteBit p 4 then some 4
  else if kind = 0 ∧ !pteBit p 1 then some 2
  else if kind ≠ 0 ∧ !pteBit p 2 ∧ !pteBit p 8 then some 3
  else none

/-- Walk from the table at `base`, `level` its level, with `n` levels left; `read` gives the entry at an address, and `stop` tells
why it cannot be read. (PRESUMED, log entry 30) -/
def walkFrom (read : Nat → Nat) (stop : Nat → Option WalkRes) (va kind : Nat) : Nat → Nat → Nat → WalkRes
  | 0, _, level => .request 5 level
  | n + 1, base, level =>
    let a := base + 8 * fieldOf va (12 + 9 * level) 9
    let p := read a
    match stop a with
    | some r => r
    | none =>
      if !pteBit p 0 then .request 1 level
      else if level = 0 || pteBit p 1 || pteBit p 2 || pteBit p 3 then
        match leafCause p level kind with
        | some c => .request c level
        | none => .leaf a p level
      else if pteReserved p || pteBit p 63 then .request 5 level
      else walkFrom read stop va kind n (pteBase p) (level - 1)

/-- Physical base of the 4 KiB page of an address under a leaf (R195). -/
def leafPage (p level va : Nat) : Nat :=
  if pteBit p 63 then (ptePpn p / 16 * 16) * 4096 + fieldOf va 12 4 * 4096
  else pteBase p + (va / 4096 % 512 ^ level) * 4096

/-- The replica set of a leaf's page, with its place in the table (R204). -/
def State.replOf (s : State) (ctx ppn : Nat) : Option (Nat × Repl) :=
  let l := s.repls.zipIdx.find? fun e => e.1.ctx == ctx && e.1.frames.head? == some (ppn * 4096)
  l.map fun e => (e.2, e.1)

/-- The copy a core reads: on its own quay die, else the lowest on its package, else copy 0 (R204). -/
def State.copyFor (s : State) (core : Nat) (frames : List Nat) : Nat :=
  let quay := core / 64
  match frames.find? fun f => paPkg f == s.pkg && paQuay f == quay with
  | some f => f
  | none =>
    match frames.find? fun f => paPkg f == s.pkg with
    | some f => f
    | none => frames.headD 0

/-- The key a physical address is under is one of the context's and its slot holds a key (R67, R196). -/
def State.keyOk (s : State) (ctx pa : Nat) : Bool :=
  (s.ctx ctx).keys.getLsbD (paKey pa) && s.fw.keySlots.getLsbD (paKey pa)

/-- The faults a passing leaf may still meet at once (R196). -/
def State.leafFault (s : State) (ctx p pa kind : Nat) (multi : Bool) : Option (Nat × Nat) :=
  if !s.keyOk ctx pa then some (7, 0)
  else if kind ≠ 0 ∧ pteBit p 9 ∧ !multi then some (5, 8)
  else if s.paHole pa then some (3, 0)
  else if s.sealed pa then some (5, 9)
  else none

/-- An entry with A set, and D for a write or atomic (R196). -/
def pteAd (p kind : Nat) : Nat := p ||| 64 ||| (if kind = 0 then 0 else 128)

/-! ### Classification (R194, R207, R208) -/

/-- What a virtual address names. -/
inductive VaClass where
  | user
  | aperture (pkg handle off : Nat)
  | bad
  deriving DecidableEq, Repr

/-- Classification of a 64-bit virtual address (R194). -/
def vaClass (va : Nat) : VaClass :=
  if fieldOf va 56 8 ≠ 0 then .bad
  else if fieldOf va 48 8 = 0xFE then .aperture (fieldOf va 41 7) (fieldOf va 25 16) (fieldOf va 0 25)
  else .user

/-- Private base of a thread (R208). -/
def State.privBase (s : State) (t : Team) (tidx : Nat) : Nat :=
  let k := s.kernelOf t
  let b := match s.launch? t.launch with | some l => l.privb | none => 0
  (b + k.priv * (k.threads * t.index + tidx)) % 2 ^ 64

/-- The place of one part of an access: where it lands, its virtual address and its bytes. -/
structure Part where
  loc : Loc
  va  : Nat
  len : Nat
  reps : List Nat := []          -- physical address in each copy, for `stmc` (R221)
  deriving DecidableEq, Repr

/-- What the checks of an access give. -/
inductive Acc where
  | ok (parts : List Part)
  | fault (e : FInfo)
  | miss (vas : List Nat)        -- pages to be walked
  | mig (va : Nat)               -- a write to a page under migration (R203)
  deriving DecidableEq, Repr

/-- Who makes an access. -/
structure Who where
  core  : Nat
  ctx   : Nat
  kind  : Nat                    -- 0 read, 1 write, 2 atomic
  me    : Waiter
  multi : Bool := false
  rep   : Option Nat := none     -- the address that a fault reports, where not that of the failing part (R213)
  deriving DecidableEq, Repr

/-- A team of this package by handle. -/
def State.byHandle (s : State) (h : Nat) : Option Team := s.teams.find? fun t => t.handle == h

/-- An aperture access (R194, R226, R374). What another package's team table says is a free choice.
(DEDUCED, log entry 33) -/
def State.aperture (s : State) (w : Who) (va len : Nat) : Acc :=
  match vaClass va with
  | .aperture p h off =>
    if !s.members.contains p then .fault { code := 3, addr := va }
    else if p = s.pkg then
      match s.byHandle h with
      | none => .fault { code := 3, addr := va }
      | some t =>
        if s.ctxOf t ≠ w.ctx then .fault { code := 5, addr := va }
        else if (s.kernelOf t).scratch < off + len then .fault { code := 3, addr := va }
        else if t.refuses off len then .fault { code := 3, addr := off, detail := 1 }
        else .ok [{ loc := .scr t.id off, va := va, len := len }]
    else if (s.ctx w.ctx).tag = 0 then .fault { code := 5, addr := va }
    else match Config.farTeam s.free va with
      | 0 => .ok [{ loc := .far p h off, va := va, len := len }]
      | 1 => .fault { code := 5, addr := va }
      | 2 => .fault { code := 3, addr := off, detail := 1 }
      | _ => .fault { code := 3, addr := va }
  | _ => .fault { code := 3, addr := va }

/-- A cached translation that serves an access (R197). -/
def State.tlb? (s : State) (w : Who) (va : Nat) : Option Tlb :=
  s.tlbs.find? fun e =>
    e.core == w.core && e.ctx == w.ctx && e.vpn == va / 4096 && (w.kind == 0 || e.write || e.mig)

/-- The ended walk that a waiter takes. -/
def State.ended? (s : State) (w : Who) (va : Nat) : Option WalkEnd :=
  s.walkEnds.find? fun e =>
    e.core == w.core && e.ctx == w.ctx && e.vpn == va / 4096 && e.kind == w.kind && e.waiters.contains w.me

/-- One part of a user access, within one 4 KiB page (R196, R197). -/
def State.userPart (s : State) (w : Who) (va len : Nat) : Acc :=
  match s.ended? w va with
  | some e => .fault { e.info with addr := e.va.getD (w.rep.getD va) }
  | none =>
    match s.tlb? w va with
    | none => .miss [va]
    | some e =>
      let pa := e.pa + va % 4096
      if w.kind ≠ 0 ∧ e.mig then .mig va
      else if !s.keyOk w.ctx pa then .fault { code := 7, addr := w.rep.getD va }
      else if w.kind ≠ 0 ∧ e.rep ≠ 0 ∧ !w.multi then .fault { code := 5, addr := w.rep.getD va, detail := 8 }
      else
        let reps := if w.multi ∧ e.rep ≠ 0 then
            match s.repls[e.rep - 1]? with
            | some r => r.frames.map fun f => f + va % (4096 * [1, 16, 512, 262144].getD r.size 1)
            | none => []
          else []
        if reps.any s.sealed then .fault { code := 5, addr := w.rep.getD va, detail := 9 }
        else if reps.any s.paHole then .fault { code := 3, addr := w.rep.getD va }
        else .ok [{ loc := .mem pa, va := va, len := len, reps := reps }]

/-- Two parts of one word: it waits until every page is translated; then the first fault stands, then a migration
(R197, R201). -/
def Acc.join : Acc → Acc → Acc
  | .miss a, .miss b => .miss (a ++ b)
  | .miss a, _ => .miss a
  | _, .miss b => .miss b
  | .fault e, _ => .fault e
  | _, .fault e => .fault e
  | .mig a, _ => .mig a
  | _, .mig b => .mig b
  | .ok a, .ok b => .ok (a ++ b)

/-- A `.g` access of `len` bytes, cut at page boundaries (R194, R201). At most `n` parts. -/
def State.globalParts (s : State) (w : Who) : Nat → Nat → Nat → Acc
  | 0, _, _ => .ok []
  | n + 1, va, len =>
    if len = 0 then .ok []
    else match vaClass (va % 2 ^ 64) with
    | .bad => .fault { code := 3, addr := w.rep.getD (va % 2 ^ 64) }
    | .aperture .. => s.aperture w va len
    | .user =>
      let here := min len (4096 - va % 4096)
      (s.userPart w va here).join (s.globalParts w n (va + here) (len - here))

/-- A `.s` access of a team (R207, R226). -/
def State.scratchParts (s : State) (t : Team) (off len : Nat) : Acc :=
  if (s.kernelOf t).scratch < off + len then .fault { code := 3, addr := off }
  else if t.refuses off len then .fault { code := 3, addr := off, detail := 1 }
  else .ok [{ loc := .scr t.id off, va := off, len := len }]

/-- A lane's access by space: 0 `.g`, 1 `.s`, 2 `.p` (R207, R210, R213). The order is classification and range, alignment,
then translation and permission; a fault reports the lane's address, for `.p` the translated one. -/
def State.laneAccess (s : State) (w : Who) (t : Team) (tidx space addr len align : Nat) : Acc :=
  let k := s.kernelOf t
  let va := if space = 2 then (s.privBase t tidx + addr) % 2 ^ 64 else addr
  let step1 : Option FInfo :=
    match space with
    | 0 =>
      match vaClass va with
      | .bad => some { code := 3, addr := va }
      | .aperture .. => match s.aperture w va len with | .fault e => if e.code = 5 then none else some e | _ => none
      | .user => none
    | 1 => match s.scratchParts t addr len with | .fault e => some e | _ => none
    | _ => if k.priv < addr + len then some { code := 3, addr := va } else none
  match step1 with
  | some e => .fault e
  | none =>
    if addr % align ≠ 0 ∨ va % align ≠ 0 then .fault { code := 6, addr := va }
    else if space = 1 then s.scratchParts t addr len
    else if space = 2 ∧ vaClass va ≠ .user then .fault { code := 3, addr := va }
    else s.globalParts { w with rep := some va } 3 va len

/-- The walk that a miss joins. -/
def Walk.serves (k : Walk) (w : Who) (va : Nat) : Bool :=
  k.core == w.core && k.ctx == w.ctx && k.va / 4096 == va / 4096 && k.kind == w.kind && k.multi == w.multi

/-- Wait for a page: join its walk, or queue one (R197). -/
def State.addWalk (s : State) (w : Who) (va : Nat) : State :=
  if s.walks.any fun k => k.serves w va then
    let join (k : Walk) : Walk := if k.waiters.contains w.me then k else { k with waiters := k.waiters ++ [w.me] }
    { s with walks := lreplace (fun k => k.serves w va) join s.walks }
  else
    { s with walks := s.walks ++ [⟨s.nextId, w.core, w.ctx, va, w.kind, w.multi, none, [w.me]⟩], nextId := s.nextId + 1 }

/-- Wait for the pages an access misses. -/
def State.addWalks (s : State) (w : Who) (vas : List Nat) : State := vas.foldl (fun s va => s.addWalk w va) s

/-- The waiter waits for a walk of the page of an address (R197, R198). -/
def State.walking (s : State) (w : Who) (va : Nat) : Bool :=
  s.walks.any fun k => k.serves w va && k.waiters.contains w.me

/-- Drop a waiter from an ended walk; one that nobody waits for is forgotten. -/
def State.leaveEnds (s : State) (p : WalkEnd → Bool) (me : Waiter) : State :=
  let drop (e : WalkEnd) : WalkEnd := if p e then { e with waiters := e.waiters.filter (· != me) } else e
  { s with walkEnds := (s.walkEnds.map drop).filter fun e => e.waiters != [] }

/-- A waiter has taken the ended walks of a page. -/
def State.takeEnds (s : State) (w : Who) (va : Nat) : State :=
  s.leaveEnds (fun e => e.core == w.core && e.ctx == w.ctx && e.vpn == va / 4096 && e.kind == w.kind) w.me

/-- A waiter no longer waits for anything. -/
def State.forget (s : State) (me : Waiter) : State :=
  let walk (k : Walk) : Walk := { k with waiters := k.waiters.filter (· != me) }
  ({ s with walks := s.walks.map walk } : State).leaveEnds (fun _ => true) me

/-- The thread sets of a team no longer wait for anything. -/
def State.forgetTeam (s : State) (team : Nat) : State :=
  let keep (m : Waiter) : Bool := match m with | .set t _ _ => t != team | .engine _ => true
  let walk (k : Walk) : Walk := { k with waiters := k.waiters.filter keep }
  let end_ (e : WalkEnd) : WalkEnd := { e with waiters := e.waiters.filter keep }
  { s with walks := s.walks.map walk, walkEnds := (s.walkEnds.map end_).filter fun e => e.waiters != [] }

/-! ### Access counters (R202) -/

/-- Slots of the hot ring. -/
def hotSlots : Nat := 4096

/-- Append a chunk to the hot ring, or drop it when the ring is full: TAIL returns to 0 after the last slot, and the ring
is then full until `PG_HOTQ` is written. A slot that lies in the translation cache or under no key is not written (R17, R67).
(DESIGN CHOICE, log entries 57 and 63) -/
def State.hotPush (s : State) (chunk : Nat) : State :=
  let base := fieldOf s.pg.hotq.toNat 12 44 * 4096
  let tail := fieldOf s.pg.hotq.toNat 0 12
  if !s.pg.hotFull then
    let s1 := if s.shut (base + 8 * tail) then s else s.putNat (base + 8 * tail) 8 (chunk * 65536)
    let last := tail + 1 = hotSlots
    ({ s1 with pg := { s1.pg with hotq := if last then s1.pg.hotq - 4095 else s1.pg.hotq + 1, hotFull := last } }).irq .hot
  else
    let drop := fieldOf s.pg.hotq.toNat 56 8
    if drop = 255 then s else { s with pg := { s.pg with hotq := s.pg.hotq + (1 <<< 56 : BitVec 64) } }

/-- Count one line of this package at the memory-side cache. -/
def State.countLine (s : State) (pa : Nat) : State :=
  if paPkg pa ≠ s.pkg then s
  else
    let chunk := pa % 2 ^ 50 / 65536
    let old := aget 0 s.counters chunk
    let thr := fieldOf s.pg.cthr.toNat 0 16
    let new := min (old + 1) 65535
    let s1 := { s with counters := aset 0 s.counters chunk new }
    if old < thr ∧ thr ≤ new then s1.hotPush chunk else s1

/-- Count every 128-byte line of a range. -/
def State.countLines (s : State) (pa len : Nat) : State :=
  (List.range ((pa % 128 + len + 127) / 128)).foldl (fun s k => s.countLine (pa / 128 * 128 + 128 * k)) s

/-! ### Bytes at a place -/

/-- A byte of the write-combining buffer of a core (R299). -/
def State.wcByte (s : State) (core pa : Nat) : Option Byte :=
  (s.core core).wc.findSome? fun e => if e.line == pa / 128 * 128 then aget none e.bytes (pa % 128) else none

/-- The byte of a place that the buffer holds (R299). -/
def State.bufByte (s : State) (core : Nat) (l : Loc) (k : Nat) : Option Byte :=
  match l with
  | .mem pa => s.wcByte core (pa + k)
  | _ => none

/-- One byte at a place, as a thread set of a core reads it; a place on another package's team reads as zero here and
is read by a remote access. -/
def State.locByte (s : State) (core : Nat) (loc : Loc) (k : Nat) : Byte :=
  match loc with
  | .mem pa => (s.wcByte core (pa + k)).getD (readByte s.mem (pa + k))
  | .scr t off => match s.team? t with | some t => t.scrByte (off + k) | none => 0
  | .far .. => 0

/-- The place `k` bytes on. -/
def Loc.add (l : Loc) (k : Nat) : Loc :=
  match l with | .mem pa => .mem (pa + k) | .scr t off => .scr t (off + k) | .far p h off => .far p h (off + k)

/-- Byte `b` of bytes that start at `a`. -/
def byteFrom (a : Nat) (bs : List Byte) (b : Nat) : Option Byte := if a ≤ b ∧ b < a + bs.length then bs[b - a]? else none

/-- The byte that a held act stores at a place, or at a virtual address of a page under migration (R203). -/
def Act.storedByte (a : Act) (loc : Loc) (va : Nat) : Option Byte :=
  match a with
  | .store l _ bs _ =>
    (match l, loc with
      | .mem a, .mem b => byteFrom a bs b
      | .scr t a, .scr u b => if t = u then byteFrom a bs b else none
      | .far p h a, .far q i b => if p = q ∧ h = i then byteFrom a bs b else none
      | _, _ => none)
  | .storeVa _ a bs _ _ => (match loc with | .scr .. => none | _ => byteFrom a bs va)
  | _ => none

/-- The newest byte a thread set holds for a place that it reaches by a virtual address (R203, R214). -/
def heldByte (held : List Held) (loc : Loc) (va : Nat) : Option Byte := held.findSome? fun h => h.act.storedByte loc va

/-- The bytes of a part as a thread set sees them: its own held stores first. -/
def State.partBytes (s : State) (core : Nat) (held : List Held) (p : Part) : List Byte :=
  (List.range p.len).map fun k => (heldByte held (p.loc.add k) (p.va + k)).getD (s.locByte core p.loc k)

/-- The part reads memory or scratch of another package. -/
def State.remote (s : State) (p : Part) : Bool :=
  match p.loc with | .mem pa => paPkg pa != s.pkg | .scr .. => false | .far .. => true

/-- Channel of a granule of the fast tier. (DESIGN CHOICE, log entry 13) -/
def granuleLink (g : Nat) : Nat :=
  let o := g * 1024 % 2 ^ 43
  if o < 0x8000000000 then 32 * (g % 16) + g / 16 % 32 else 32 * (4 * paQuay (g * 1024) + g % 4) + g / 4 % 32

/-- A 1 KiB granule of the fast tier whose HBM channel is FAILED (R308): stack and channel of the granule.
(DESIGN CHOICE, log entry 13) -/
def State.granuleFailed (s : State) (g : Nat) : Bool := (s.link (granuleLink g)).state == 5

/-- A range of this package's fast tier meets a FAILED HBM channel. -/
def State.hbmFailed (s : State) (pa n : Nat) : Bool :=
  s.links != [] && paPkg pa == s.pkg && decide (paOff pa < 0x10000000000) &&
    (List.range ((pa % 1024 + n + 1023) / 1024)).any fun k => s.granuleFailed (pa / 1024 + k)

/-- A link in training holds its traffic: TRAINING, RETRAIN, or DOWN after a RESET (R305, R307).
(DESIGN CHOICE, log entry 58) -/
def Link.holds (x : Link) : Bool := x.state == 1 || x.state == 4 || (x.state == 0 && x.since != 0)

/-- Among links of which any one serves, none passes traffic and one is in training: traffic is held. -/
def State.allHold (s : State) (ns : List Nat) : Bool :=
  s.links != [] && (ns.all fun n => (s.link n).holds || (s.link n).state == 5) && ns.any fun n => (s.link n).holds

/-- The quay links of a die (R304). -/
def quayLinks (die : Nat) : List Nat := (List.range 4).map fun k => 512 + 4 * die + k
/-- The package's polder links (R304). -/
def polderLinks : List Nat := (List.range 16).map (1024 + ·)

/-- Every polder link is FAILED: no access to another package is delivered (R308). -/
def State.polderCut (s : State) : Bool := s.links != [] && polderLinks.all fun n => (s.link n).state == 5

/-- An access of a core to this package's memory is held by a link in training on its path; 256 and above name no core
(R305, R307). -/
def State.linkHeld (s : State) (core pa n : Nat) : Bool :=
  s.links != [] && paPkg pa == s.pkg &&
    ((decide (core < 256) && s.allHold (quayLinks (core / 16))) ||
     (decide (paOff pa < 0x10000000000) &&
        (List.range ((pa % 1024 + n + 1023) / 1024)).any fun k => (s.link (granuleLink (pa / 1024 + k))).holds))

/-- The quay links between two dies hold their traffic (R305, R307). -/
def State.quayHeld (s : State) (a b : Nat) : Bool :=
  s.links != [] && a != b && (s.allHold (quayLinks a) || s.allHold (quayLinks b))

/-- A link in training on the path from a core to a place in this package holds an access (R305, R307). -/
def State.storeHeld (s : State) (core : Nat) (loc : Loc) (n : Nat) : Bool :=
  match loc with
  | .mem pa => s.linkHeld core pa n
  | .scr id off => (match s.team? id with
      | some u => decide (core < 256) && u.resident && s.quayHeld (core / 16) (u.coreNo (u.coreAt off) / 16)
      | none => false)
  | .far .. => false

/-- Every way to the other packages holds its traffic, or is lost, for a place there: what an engine's access waits for, and
what it fails for (R305, R307, R308). -/
def State.polderWaits (s : State) (loc : Loc) : Bool :=
  (match loc with | .mem pa => paPkg pa != s.pkg | .scr .. => false | .far .. => true) && s.allHold polderLinks
def State.polderGone (s : State) (loc : Loc) : Bool :=
  (match loc with | .mem pa => paPkg pa != s.pkg | .scr .. => false | .far .. => true) && s.polderCut

/-- A die is cut off: all four of its quay links are FAILED (R308). -/
def State.dieCut (s : State) (die : Nat) : Bool := s.links != [] && (quayLinks die).all fun n => (s.link n).state == 5

/-- A byte of a place has an uncorrectable error (R308, R348). -/
def State.locBad (s : State) (l : Loc) (n : Nat) : Bool :=
  match l with
  | .mem pa => (s.badBytes.any fun b => decide (pa ≤ b) && decide (b < pa + n)) || s.hbmFailed pa n
  | .scr id off => (match s.team? id with
      | some t => t.bad != [] && (List.range n).any fun k => t.bad.contains (t.scrKey (off + k))
      | none => false)
  | .far .. => false

/-! ### Walks of a context's tables (R195, R305, R308, R348) -/

/-- Why the walker of a core, or of the device itself (1024), cannot read the table entry at an address: its key is destroyed, a
link holds its traffic, its package is cut off, or its bytes are lost. (DEDUCED, log entry 18) -/
def State.entryStop (s : State) (core a : Nat) : Option WalkRes :=
  if !s.fw.keySlots.getLsbD (paKey a) then some (.fault 7 0)
  else if s.linkHeld core a 8 || s.polderWaits (.mem a) then some .busy
  else if s.polderGone (.mem a) then some (.fault 15 1)
  else if s.locBad (.mem a) 8 then some (.fault 8 0)
  else none

/-- A table entry as its walker reads it: one in the translation cache or in the translator's memory, which no one else may read,
reads as 0 (R17). (DESIGN CHOICE, log entry 63) -/
def State.entryAt (s : State) (a : Nat) : Nat := if s.sealed a then 0 else s.word64 a

/-- Walk a context's tables for an address, for a core (R195). -/
def State.walkFor (s : State) (core ctx va kind : Nat) : WalkRes :=
  walkFrom s.entryAt (s.entryStop core) va kind 5 ((s.ctx ctx).root.toNat * 4096) 4

/-- Walk a context's tables for the device itself. -/
def State.walk (s : State) (ctx va kind : Nat) : WalkRes := s.walkFor 1024 ctx va kind

/-- The contexts that own a key (R64). -/
def State.keyOwner (s : State) (key : Nat) : Option Nat :=
  (s.ctxs.find? fun e => e.2.state != 0 && e.2.keys.getLsbD key).map (·.1)

/-- A dirty line of memory is lost on its way back: memory keeps its earlier value, and a record with no lane goes to the
key's context (R308, R348). No launch is at fault, and GRID, for which R69 states nothing here, is 0.
(DESIGN CHOICE, log entry 51) -/
def State.lineLost (s : State) (pa : Nat) : State :=
  match s.keyOwner (paKey pa) with
  | none => s
  | some n =>
    let c := s.ctx n
    s.setCtx n { c with fwait := c.fwait ++ [⟨0, 0, 0, 0, 0, n, { code := 8, addr := pa, detail := 1 }, [], 0⟩] }

/-- A byte of the part has an uncorrectable error (R348). -/
def State.partBad (s : State) (p : Part) : Bool :=
  s.locBad p.loc p.len

end Sys2Proof.Machine
end

