-- ==== Sys2Proof/Machine/Engines.lean ====
section
/-!
DEFINITION. The parts that act beside the words: signals, barriers, remote stores, copy commands, FIFOs, tile fills
and nests (R228, R242 to R245, R254, R256 to R270, R279 to R288, R299, R311).
-/
namespace Sys2Proof.Machine

/-! ### Barriers (R242, R245, R254) -/

/-- A barrier with nothing in it. -/
def barNone : Barrier := ⟨0, 0, 0, 0, 0, none, 0, 0, false, [], [], false⟩
def Team.bar (t : Team) (b : Nat) : Barrier := aget barNone t.bars b
def Team.setBar (t : Team) (b : Nat) (x : Barrier) : Team := { t with bars := aset barNone t.bars b x }

/-- The completion test of R245. -/
def Barrier.complete (x : Barrier) : Bool := !x.held && x.a == x.e && decide (x.m ≤ x.c) && decide (0 < x.a + x.m)

/-- Flip of R245. -/
def Barrier.flip (x : Barrier) : Barrier :=
  { x with
    ph := !x.ph, e := x.e - x.dn, dn := 0, a := 0, c := x.c - x.m, m := 0, link := none, lrem := 0,
    arr := [], kind := 0, held := false }

/-- A thread set whose wait after its commit has ended goes on to its trailer's targets. -/
def TSet.resume (ts : TSet) (clk : Nat) : TSet := { ts with phase := .ready, readyAt := clk }

/-- Release the thread sets that wait on barrier `b` (R250). -/
def Team.releaseBar (t : Team) (b clk : Nat) : Team :=
  let free (ts : TSet) : TSet := if ts.phase = .post (.barrier b) then ts.resume clk else ts
  { t with groups := t.groups.map fun g => { g with tsets := g.tsets.map free } }

/-- Flip barrier `b` of teams, every flip before any release (R254). -/
def State.flipAll (s : State) (ids : List Nat) (b : Nat) : State :=
  let s1 := ids.foldl (fun s id => s.onTeam id fun t => t.setBar b (t.bar b).flip) s
  ids.foldl (fun s id => s.onTeam id fun t => t.releaseBar b s.clk) s1

/-- The test that follows every operation on a barrier (R245, R254). -/
def State.testBar (s : State) (id b : Nat) : State :=
  match s.team? id with
  | none => s
  | some t =>
    let x := t.bar b
    if !x.complete then s
    else if x.kind ≠ 2 then s.flipAll [id] b
    else
      let s1 := s.setTeam (t.setBar b { x with held := true })
      let gang := s1.gangOf t
      if gang.length = (s.kernelOf t).gangTeams ∧ gang.all (fun u => (u.bar b).held) then
        s1.flipAll (gang.map (·.id)) b
      else s1

/-- An engine or external arrival (R243). -/
def State.arriveBar (s : State) (id b : Nat) : State :=
  (s.onTeam id fun t => t.setBar b { t.bar b with c := Nat.min ((t.bar b).c + 1) 65535 }).testBar id b

/-! ### Signals (R279) -/

/-- Count of a signal. -/
def State.sigOf (s : State) (id g i : Nat) : Nat :=
  match s.team? id with
  | none => 0
  | some t => match t.group? g with | some x => aget 0 x.sig i | none => 0

/-- Add to a signal. -/
def State.sigAdd (s : State) (id g : Nat) (sig : Option Nat) (n : Nat) : State :=
  match sig with
  | none => s
  | some i => s.onGroup id g fun x => { x with sig := aset 0 x.sig i (aget 0 x.sig i + n) }

/-- One linked arrival for each barrier whose link names the signal (R243). -/
def State.linkArrive (s : State) (id g i : Nat) : State :=
  (List.range 16).foldl (fun s b =>
    match s.team? id with
    | none => s
    | some t =>
      let x := t.bar b
      if x.link = some (g, i) ∧ 0 < x.lrem then
        (s.setTeam (t.setBar b { x with c := Nat.min (x.c + 1) 65535, lrem := x.lrem - 1 })).testBar id b
      else s) s

/-- Decrement a signal, with its linked arrivals (R243, R279). -/
def State.sigDec (s : State) (id g : Nat) (sig : Option Nat) : State :=
  match sig with
  | none => s
  | some i => (s.onGroup id g fun x => { x with sig := aset 0 x.sig i (aget 0 x.sig i - 1) }).linkArrive id g i

/-- Report an engine failure against the issuing thread set (R73). -/
def State.charge (s : State) (id group : Nat) (lanes : List Nat) (pc : Nat) (info : FInfo) : State :=
  s.onTeam id fun t => { t with pend := t.pend ++ [⟨group, lanes, pc, info⟩] }

/-- A fragment has ended: its signal falls. -/
def State.endFrag (s : State) (f : Frag) : State :=
  ({ s with frags := s.frags.filter fun x => x.id != f.id } : State).sigDec f.team f.group f.sig

/-- A fragment has failed: it is discarded, its signal falls, and its issuer is charged LINK (R232). -/
def State.failFrag (s : State) (f : Frag) (detail : Nat) : State :=
  (s.endFrag f).charge f.team f.group f.lanes f.pc { code := 15, lane := f.lane, detail := detail }

/-! ### Stores to other packages (R299, R311, R313) -/

/-- The wires of an access's bytes: a masked write of its line. -/
def storeWires (bs : List (Nat × Byte × Byte)) : List Wire := bs.map fun x => Wire.store (paPkg x.1) x.1 [x.2.2]

/-- The 128-byte line of a place on another package (R310). -/
def Loc.line (l : Loc) : Loc :=
  match l with | .mem pa => .mem (pa / 128 * 128) | .far p h off => .far p h (off / 128 * 128) | .scr t off => .scr t off

/-- A write or atomic of a core to the line of a place is unacknowledged (R310). -/
def State.lineBusy (s : State) (core : Nat) (l : Loc) : Bool :=
  s.accesses.any fun a => a.kind != 0 && a.core == core && a.loc.line == l.line

/-- Perform one write-combining entry of a core: one masked write of its line, awaiting its response for every word that
stored into it. It is sent once no earlier write of the core to the line is unacknowledged (R310, R311). -/
def State.drainEntry (s : State) (core : Nat) (e : WcEntry) : State :=
  let bs := e.bytes.filterMap fun x => x.2.map fun b => (e.line + x.1, b)
  let undo := bs.map fun x => (x.1, readByte s.mem x.1, x.2)
  let busy := s.lineBusy core (.mem e.line)
  if !s.fw.keySlots.getLsbD (paKey e.line) then
    -- the line's key has been destroyed: each word takes KEY (R67)
    e.by_.foldl (fun s x => s.charge x.1.team x.1.group x.1.lanes x.1.pc { code := 7, lane := x.1.lane, addr := x.2 }) s
  else
  let s1 := bs.foldl (fun s x => s.poke x.1 [x.2]) s
  let access (x : (From × Nat) × Nat) : Access :=
    { id := s.nextId + x.2, team := x.1.1.team, group := x.1.1.group, lanes := x.1.1.lanes, pc := x.1.1.pc,
      lane := x.1.1.lane, kind := 1, loc := .mem e.line, va := x.1.2, len := bs.length
      undo := if x.2 = 0 then undo else [], sent := s.clk, part := 0, pkt := s.nextId, core := core, queued := busy }
  { s1 with
    wires := if busy then s1.wires else s1.wires ++ storeWires undo
    accesses := s1.accesses ++ e.by_.zipIdx.map access
    nextId := s1.nextId + e.by_.length }

/-- Drain the entries of a core's buffer that satisfy a test. -/
def State.drainWc (s : State) (core : Nat) (p : WcEntry → Bool) : State :=
  let c := s.core core
  let s1 := s.setCore core { c with wc := c.wc.filter fun e => !p e }
  (c.wc.filter p).foldl (fun s e => s.drainEntry core e) s1

/-- Drain a core's whole buffer (R299). -/
def State.drainAll (s : State) (core : Nat) : State := s.drainWc core fun _ => true

/-- A word's store joins an entry; a further lane of the word adds no report of its own. -/
def WcEntry.issuedBy (e : WcEntry) (f : From) (va : Nat) : WcEntry :=
  let same (x : From × Nat) : Bool := x.1.team == f.team && x.1.group == f.group && x.1.lanes == f.lanes && x.1.pc == f.pc
  if e.by_.any same then e else { e with by_ := e.by_ ++ [(f, va)] }

/-- Put one byte into the write-combining buffer. -/
def State.wcByteStore (s : State) (f : From) (va pa : Nat) (b : Byte) : State :=
  let c := s.core f.core
  let line := pa / 128 * 128
  if c.wc.any (fun e => e.line == line) then
    let put (e : WcEntry) : WcEntry := { e.issuedBy f va with bytes := aset none e.bytes (pa % 128) (some b) }
    s.setCore f.core { c with wc := lreplace (fun e => e.line == line) put c.wc }
  else
    let s1 := if 32 ≤ c.wc.length then s.drainWc f.core fun e => some e.line == c.wc.head?.map (·.line) else s
    let c1 := s1.core f.core
    s1.setCore f.core { c1 with wc := c1.wc ++ [⟨line, [(pa % 128, some b)], [(f, va)], s1.clk⟩] }

/-- A store to memory of another package; a full line drains. -/
def State.wcStore (s : State) (f : From) (va pa : Nat) (bs : List Byte) : State :=
  let s1 := (bs.zipIdx.foldl (fun s x => s.wcByteStore f va (pa + x.2) x.1) s)
  s1.drainWc f.core fun e => e.bytes.length == 128

/-- A store to a team's scratch on another package, sent once no earlier write of the core to its line is unacknowledged (R310). -/
def State.farStore (s : State) (f : From) (va pkg handle off : Nat) (bs : List Byte) : State :=
  let busy := s.lineBusy f.core (.far pkg handle off)
  { s with
    wires := if busy then s.wires else s.wires ++ [.scratch pkg handle off bs]
    accesses := s.accesses ++
      [{ id := s.nextId, team := f.team, group := f.group, lanes := f.lanes, pc := f.pc, lane := f.lane, kind := 1
         loc := .far pkg handle off, va := va, len := bs.length, undo := [], sent := s.clk, part := 0, pkt := s.nextId
         core := f.core, queued := busy, data := bs }]
    nextId := s.nextId + 1 }

/-- Write bytes of this package's memory; a line on a FAILED HBM channel is lost (R308). -/
def State.putLines (s : State) (pa : Nat) (bs : List Byte) : State :=
  if s.hbmFailed pa bs.length then
    (List.range ((pa % 128 + bs.length + 127) / 128)).foldl (fun t k =>
      let lo := Nat.max pa (pa / 128 * 128 + 128 * k)
      let hi := Nat.min (pa + bs.length) (pa / 128 * 128 + 128 * (k + 1))
      if s.hbmFailed lo (hi - lo) then t.lineLost (lo / 128 * 128) else t.poke lo ((bs.drop (lo - pa)).take (hi - lo))) s
  else s.poke pa bs

/-- Write bytes at a place of this package's memory for a core or an engine, whose lines are counted (R202). -/
def State.memWrite (s : State) (pa : Nat) (bs : List Byte) : State := (s.countLines pa bs.length).putLines pa bs

/-- Perform a plain store at a place: scratch stores wait for a `fence.op` before engines must see them (R219). A store
under a key that has been destroyed faults KEY at the set's next boundary (R67). (DESIGN CHOICE, log entry 11) -/
def State.storeAt (s : State) (f : From) (loc : Loc) (va : Nat) (bs : List Byte) : State :=
  match loc with
  | .mem pa =>
    if !s.fw.keySlots.getLsbD (paKey pa) then
      s.charge f.team f.group f.lanes f.pc { code := 7, lane := f.lane, addr := va }
    else if paPkg pa ≠ s.pkg then s.wcStore f va pa bs
    else (s.memWrite pa bs).signed s.wseq f.team f.group f.lane
  | .scr t off => (s.noteScr t off bs.length (some (f.team, f.group, f.lane))).onTeam t fun u =>
      let old := (List.range bs.length).map fun k => (32 * f.group + f.lane, off + k, u.scrByte (off + k))
      { u.scrWrite off bs with unf := if t = f.team then old ++ u.unf else u.unf }
  | .far p h off => s.farStore f va p h off bs

/-- Write bytes at a place for an engine. -/
def State.engineWrite (s : State) (loc : Loc) (bs : List Byte) : State :=
  match loc with
  | .mem pa => if paPkg pa = s.pkg then s.memWrite pa bs else s.poke pa bs
  | .scr t off => (s.noteScr t off bs.length none).onTeam t fun u => u.scrWrite off bs
  | .far p h off => { s with wires := s.wires ++ [.scratch p h off bs] }

/-! ### Tiles (R228) -/

/-- Tiles that a range of scratch covers, each with the beats lying whole in it. -/
def beatsOf (off len : Nat) : List (Nat × BitVec 16) :=
  (List.range ((off % 512 + len + 511) / 512)).map fun k =>
    let base := off / 512 * 512 + 512 * k
    (base, BitVec.ofNat 16 (((List.range 16).filter fun b =>
      decide (off ≤ base + 32 * b) && decide (base + 32 * b + 32 ≤ off + len)).map fun b => 2 ^ b).sum)

/-- Write a range of scratch as one arrival in each tile, of its whole beats (R228). -/
def Team.deposit (t : Team) (off : Nat) (bs : List Byte) : Team :=
  (beatsOf off bs.length).foldl (fun u x =>
    if x.2 = 0 then u else u.arrive x.1 x.2 (u.scrRead x.1 512) false) (t.scrWrite off bs)

/-! ### FIFOs (R287, R288) -/

def fifo0 : Fifo := ⟨false, 0, 0, 0, 0, 0, 0, [], []⟩
def Team.fifo (t : Team) (core f : Nat) : Fifo := aget fifo0 t.fifos (8 * core + f)
def Team.setFifo (t : Team) (core f : Nat) (x : Fifo) : Team := { t with fifos := aset fifo0 t.fifos (8 * core + f) x }
/-- Bytes of an entry. -/
def Fifo.entryBytes (x : Fifo) : Nat := 512 * 4 ^ x.entry
/-- Capacity in bytes. -/
def Fifo.capacity (x : Fifo) : Nat := x.nb * bankBytes
/-- Free bytes. -/
def Fifo.room (x : Fifo) : Nat := x.capacity - (x.wr - x.rl)
/-- Append copied bytes. -/
def Fifo.append (x : Fifo) (bs : List Byte) : Fifo := { x with wr := x.wr + bs.length, bytes := x.bytes ++ bs }
/-- Release the bytes below a position. -/
def Fifo.releaseTo (x : Fifo) (pos : Nat) : Fifo :=
  if x.rl < pos then
    { x with rl := pos, bytes := x.bytes.drop (pos - x.rl), bad := x.bad.filter fun p => decide (pos ≤ p) } else x
/-- The array may read `n` bytes: every entry they lie in is written whole (R288). -/
def Fifo.readable (x : Fifo) (n : Nat) : Bool :=
  n == 0 || decide (((x.rd + n - 1) / x.entryBytes + 1) * x.entryBytes ≤ x.wr)
/-- The next `n` bytes the array reads. -/
def Fifo.peek (x : Fifo) (n : Nat) : List Byte := (x.bytes.drop (x.rd - x.rl)).take n
/-- One of them has an uncorrectable error (R348). -/
def Fifo.lost (x : Fifo) (n : Nat) : Bool := x.bad.any fun p => decide (x.rd ≤ p) && decide (p < x.rd + n)
/-- The last `n` bytes written, as zeros (R285). -/
def Fifo.blank (x : Fifo) (n : Nat) : Fifo :=
  let keep := x.bytes.length - n
  { x with bytes := x.bytes.take keep ++ List.replicate (x.bytes.length - keep) 0 }

/-! ### Copy commands (R282 to R286) -/

/-- Length left in the page of a user virtual address; scratch and apertures are not cut. -/
def pageLeft (isGlobal : Bool) (a : Nat) : Nat :=
  if isGlobal && vaClass a == .user then 4096 - a % 4096 else 2 ^ 40

/-- Pieces of a row: offset and length of each segment, at most `n` of them. (DESIGN CHOICE, log entry 20) -/
def rowPieces (gs gd : Bool) (src dst : Nat) : Nat → Nat → Nat → List (Nat × Nat)
  | 0, _, _ => []
  | n + 1, pos, len =>
    if len = 0 then []
    else
      let k := Nat.min len (Nat.min (pageLeft gs ((src + pos) % 2 ^ 64)) (pageLeft gd ((dst + pos) % 2 ^ 64)))
      (pos, k) :: rowPieces gs gd src dst n (pos + k) (len - k)

/-- Source address of a row, under the index read for a gather. -/
def CopyArgs.rowSrc (a : CopyArgs) (r idx : Nat) : Nat :=
  ((((a.src : Int) + (if a.kind = 2 then (idx : Int) else (r : Int)) * a.sstr) % 2 ^ 64 : Int)).toNat
/-- Destination address of a row. -/
def CopyArgs.rowDst (a : CopyArgs) (r : Nat) : Nat :=
  ((((a.dst : Int) + (r : Int) * (if a.kind = 2 then (a.width : Int) else a.dstr)) % 2 ^ 64 : Int)).toNat

/-- Pieces of row `r`. -/
def CopyArgs.pieces (a : CopyArgs) (r idx : Nat) : List (Nat × Nat) :=
  rowPieces (!a.srcS) (a.dstSp == 0) (a.rowSrc r idx) (a.rowDst r) (a.width / 2048 + 3) 0 a.width

/-- Segment number of a piece: destination rank index, row and piece. -/
def segNo (rank row piece : Nat) : Nat := rank * 2 ^ 38 + row * 2 ^ 22 + piece
/-- The segment number that stands for the read of a row's index. -/
def segIndex (row : Nat) : Nat := segNo 0 row (2 ^ 22 - 1)
def segRank (n : Nat) : Nat := n / 2 ^ 38
def segRow (n : Nat) : Nat := n / 2 ^ 22 % 2 ^ 16
def segPiece (n : Nat) : Nat := n % 2 ^ 22

/-- Segments of row `r` for every destination. -/
def segsOfRow (a : CopyArgs) (ranks r idx : Nat) : List Nat :=
  let np := (a.pieces r idx).length
  (List.range ranks).flatMap fun k => (List.range np).map fun p => segNo k r p

/-- The open segments of a new command: those of a gather are unknown until its indices are read. -/
def CopyArgs.firstOpen (a : CopyArgs) (ranks : Nat) : List Nat :=
  (List.range a.rows).flatMap fun r => if a.kind = 2 then [segIndex r] else segsOfRow a ranks r 0

/-- Bytes of the unbroken prefix of segments that ended well (R286). -/
def Cmd.bytesDone (c : Cmd) : Nat :=
  let rowDone (r : Nat) : Nat :=
    let ps := c.args.pieces r (overlay 0 c.idx r)
    let known := c.args.kind != 2 || c.idx.any (fun e => e.1 == r)
    if !known then 0
    else
      let okAll (p : Nat) := (List.range c.ranks.length).all fun k => c.good.contains (segNo k r p)
      (((List.range ps.length).takeWhile okAll).map fun p => (ps.getD p (0, 0)).2).sum
  let full := (List.range c.args.rows).takeWhile fun r => rowDone r == c.args.width
  full.length * c.args.width + (if full.length < c.args.rows then rowDone full.length else 0)

/-- Write a command's status into its group (R286). -/
def State.noteCmd (s : State) (c : Cmd) (code st : Nat) : State :=
  let put (e : CopyStat) : CopyStat := { e with bytes := c.bytesDone, code := code, state := st }
  s.onGroup c.team c.group fun g => { g with copies := lreplace (fun e => e.cmd == c.id) put g.copies }

/-- The lowest-addressed failure. (DESIGN CHOICE, log entry 20) -/
def lowestFail : List (Nat × FInfo) → Option FInfo
  | [] => none
  | x :: xs => match lowestFail xs with | none => some x.2 | some f => some (if x.2.addr ≤ f.addr then x.2 else f)

/-- A command after a segment of it has ended: with none open it ends, its signal falls and its fault is charged
(R285, R286). -/
def State.settleCmd (s : State) (c : Cmd) : State :=
  if c.open_ ≠ [] then
    ({ s with cmds := lreplace (fun x => x.id == c.id) (fun _ => c) s.cmds }).noteCmd c 0 (if c.begun then 2 else 1)
  else
    let s1 := { s with cmds := s.cmds.filter fun x => x.id != c.id }
    match lowestFail c.fails with
    | some f => (((s1.noteCmd c f.code 4).charge c.team c.group c.lanes c.pc { f with lane := c.lane })).sigDec c.team c.group c.args.sig
    | none => (s1.noteCmd c 0 (if c.cancelled then 5 else 3)).sigDec c.team c.group c.args.sig

/-- Package-wide core of a command. -/
def State.cmdCore (s : State) (c : Cmd) : Nat := match s.team? c.team with | some t => t.coreNo c.core | none => 256

/-- The outcome of placing a range for an engine: its place, a failure, or pages to wait for. -/
inductive Place where
  | at (loc : Loc)
  | fail (e : FInfo)
  | wait (w : Who) (vas : List Nat)
  deriving DecidableEq, Repr

/-- Place a `.g` range that lies in one page or in an aperture (R284): links in training hold it, and a path whose links are all
lost fails it (R305, R308, R313). -/
def State.enginePlace (s : State) (w : Who) (va len : Nat) : Place :=
  match s.globalParts w 2 va len with
  | .ok (p :: _) =>
    if s.storeHeld w.core p.loc len || s.polderWaits p.loc then .wait w []
    else if s.polderGone p.loc then .fail { code := 15, addr := va, detail := 1 }
    else .at p.loc
  | .ok [] => .fail { code := 3, addr := va }
  | .fault e => .fail e
  | .miss vas => .wait w vas
  | .mig _ => .wait w []

/-- Source place of bytes of a command. -/
def State.copySrc (s : State) (c : Cmd) (t : Team) (a len : Nat) : Place :=
  if c.args.srcS then
    if (s.kernelOf t).scratch < a + len then .fail { code := 3, addr := a } else .at (.scr t.id a)
  else s.enginePlace { core := t.coreNo c.core, ctx := s.ctxOf t, kind := 0, me := .engine c.id } a len

/-- Destination place of bytes of a command, for one of its ranks. -/
def State.copyDst (s : State) (c : Cmd) (t : Team) (rank a len : Nat) : Place :=
  match c.args.dstSp with
  | 0 =>
    (match s.enginePlace { core := t.coreNo c.core, ctx := s.ctxOf t, kind := 1, me := .engine c.id } a len with
      -- the destination's bank has left SCRATCH: an arrival that R232 reports
      | .fail e => .fail (match vaClass (a % 2 ^ 64) with
          | .aperture .. => if e.code = 3 ∧ e.detail = 1 then { code := 15, addr := e.addr, detail := 3 } else e
          | _ => e)
      | r => r)
  | _ => .at (.scr ((c.ranks.getD rank (t.id, 0)).1) a)

/-- One byte as an engine of a team reads it: a scratch byte stored with no later `fence.op` may be old (R219), and a
byte the command has overwritten may be what it was (R284). (DEDUCED, log entry 22) -/
def State.engineByte (s : State) (t : Team) (core draw : Nat) (wrote : List (Nat × Byte)) (loc : Loc) (k : Nat) : Byte :=
  let now := s.locByte core loc k
  match loc with
  | .scr id off =>
    let olds := (match s.team? id with
      | some u => (if id = t.id then u.unf else []).filterMap fun e => if e.2.1 = off + k then some e.2.2 else none
      | none => []) ++ wrote.filterMap fun e => if e.1 = 2 ^ 60 * (id + 1) + off + k then some e.2 else none
    choose (Config.freePick draw (off + k)) now (now :: olds)
  | .mem pa =>
    let olds := wrote.filterMap fun e => if e.1 = pa + k then some e.2 else none
    choose (Config.freePick draw (pa + k)) now (now :: olds)
  | .far .. => (Config.freeWord (Config.freePick draw k)).extractLsb' 0 8

def State.engineBytes (s : State) (t : Team) (core draw : Nat) (wrote : List (Nat × Byte)) (loc : Loc) (n : Nat) :
    List Byte :=
  (List.range n).map fun k => s.engineByte t core draw wrote loc k

/-- Keys of a place's bytes in a command's own record. -/
def Loc.keys (l : Loc) (n : Nat) : List Nat :=
  match l with
  | .mem pa => (List.range n).map (pa + ·)
  | .scr id off => (List.range n).map (2 ^ 60 * (id + 1) + off + ·)
  | .far .. => []

/-- The originals a command keeps of the bytes it is about to overwrite. -/
def State.keepOld (s : State) (core : Nat) (wrote : List (Nat × Byte)) (loc : Loc) (n : Nat) : List (Nat × Byte) :=
  wrote ++ ((loc.keys n).zipIdx.filterMap fun x =>
    if wrote.any (fun e => e.1 == x.1) then none else some (x.1, s.locByte core loc x.2))

/-- Is another command's append to the FIFO in the way of this one: an earlier one of the same core, or one whose bytes have
begun to go into it (R284)? (DEDUCED, log entry 40) -/
def State.fifoBusy (s : State) (c : Cmd) (rank : Nat) : Bool :=
  match c.ranks[rank]? with
  | none => false
  | some r => s.cmds.any fun d =>
      let k := d.ranks.idxOf r
      d.id != c.id && d.args.dstSp == 2 && d.args.dst == c.args.dst && d.ranks.contains r &&
      d.open_.any (fun n => segRank n == k || segPiece n == 2 ^ 22 - 1) &&
      (d.into.contains k || (decide (d.id < c.id) && s.cmdCore d == s.cmdCore c))

/-- The segment is the first one open for its destination. (DEDUCED, log entry 40) -/
def Cmd.firstOf (c : Cmd) (seg : Nat) : Bool :=
  c.open_.all fun n =>
    decide (seg ≤ n) || (segRank n != segRank seg && !(segPiece n == 2 ^ 22 - 1 && decide (segRow n ≤ segRow seg)))

/-- A segment of a command: pages to wait for, a failure with nothing of it copied, bytes lost in its source, or all of it read and
ready to be written. -/
inductive SegRes where
  | wait (w : Who) (vas : List Nat)
  | fail (e : FInfo)
  | lost (e : FInfo) (bs : List Byte) (dst : Loc) (src : Loc)
  | bytes (bs : List Byte) (dst : Loc) (src : Loc)
  deriving DecidableEq, Repr

/-- Which byte of its source a byte of a segment takes: its own, or, where the segment writes over its own source, one that
the segment has carried there by then, however far it came (R284). (DEDUCED, log entry 22) -/
def overlapPick (pick n k src dst : Nat) : Nat :=
  if dst < src then k + pick % ((n - 1 - k) / (src - dst) + 1) * (src - dst)
  else if src < dst then k - pick % (k / (dst - src) + 1) * (dst - src)
  else k

/-- Where two places lie in one space, their offsets in it. -/
def Loc.sameSpace (a b : Loc) : Option (Nat × Nat) :=
  match a, b with
  | .mem x, .mem y => some (x, y)
  | .scr i x, .scr j y => if i = j then some (x, y) else none
  | _, _ => none

/-- The bytes of a segment as they land, where it may write over its own source. -/
def selfOverlap (draw : Nat) (src dst : Loc) (bs : List Byte) : List Byte :=
  match src.sameSpace dst with
  | some (x, y) =>
    if x < y + bs.length ∧ y < x + bs.length then
      (List.range bs.length).map fun k => bs.getD (overlapPick (Config.freePick draw (2 ^ 60 + k)) bs.length k x y) 0
    else bs
  | none => bs

/-- Translate and read one segment. -/
def State.segRead (s : State) (c : Cmd) (t : Team) (seg : Nat) : SegRes :=
  let r := segRow seg
  let idx := overlay 0 c.idx r
  let p := ((c.args.pieces r idx).getD (segPiece seg) (0, 0))
  let a := (c.args.rowSrc r idx + p.1) % 2 ^ 64
  let b := (c.args.rowDst r + p.1) % 2 ^ 64
  if c.args.kind = 2 ∧ c.args.srcS ∧ (s.kernelOf t).scratch < c.args.rowSrc r idx + c.args.width then
    .fail { code := 3, addr := c.args.rowSrc r idx }
  else
    match s.copySrc c t a p.2, s.copyDst c t (segRank seg) b p.2 with
    | .fail e, _ => .fail e
    | .wait w v, _ => .wait w v
    | _, .fail e => .fail e
    | _, .wait w v => .wait w v
    | .at la, .at lb =>
      let raw := s.engineBytes t (t.coreNo c.core) s.free c.wrote la p.2
      let bs := if c.args.dstSp = 2 then raw else selfOverlap s.free la lb raw
      if s.locBad la p.2 then .lost { code := 8, addr := a } bs lb la else .bytes bs lb la

/-- Append to a FIFO as much of a segment as there is room for: the new state and the bytes taken in all (R287). -/
def State.fifoAppend (s : State) (c : Cmd) (seg : Nat) (bs : List Byte) : State × Nat :=
  let r := c.ranks.getD (segRank seg) (0, 0)
  let have_ := aget 0 c.parts seg
  match s.team? r.1 with
  | none => (s, bs.length)
  | some t =>
    let x := t.fifo r.2 c.args.dst
    let take := (bs.drop have_).take x.room
    (s.setTeam (t.setFifo r.2 c.args.dst (x.append take)), have_ + take.length)

/-- Length of a segment. -/
def Cmd.segLen (c : Cmd) (seg : Nat) : Nat :=
  ((c.args.pieces (segRow seg) (overlay 0 c.idx (segRow seg))).getD (segPiece seg) (0, 0)).2

/-- Mark a segment ended. -/
def Cmd.endSeg (c : Cmd) (seg : Nat) (ok : Bool) : Cmd :=
  { c with
    open_ := c.open_.filter (· != seg)
    good := if ok then seg :: c.good else c.good
    parts := aset 0 c.parts seg 0
    zeros := c.zeros.filter (· != seg) }

/-- End a segment into a FIFO with the given bytes, or advance it while the FIFO is full; one whose bytes are zeros (`ok` false)
stays so to its end. -/
def State.fifoSeg (s : State) (c : Cmd) (seg : Nat) (bs : List Byte) (ok : Bool) : State :=
  let r := s.fifoAppend c seg bs
  let c1 := { c with into := sinsert (segRank seg) c.into, zeros := if ok then c.zeros else sinsert seg c.zeros }
  if bs.length ≤ r.2 then r.1.settleCmd (c1.endSeg seg ok)
  else r.1.settleCmd { c1 with parts := aset 0 c.parts seg r.2 }

/-- What a FIFO has taken of a segment that fails is zeros too (R285). -/
def State.blankPart (s : State) (c : Cmd) (seg : Nat) : State :=
  let r := c.ranks.getD (segRank seg) (0, 0)
  s.onTeam r.1 fun t => t.setFifo r.2 c.args.dst ((t.fifo r.2 c.args.dst).blank (aget 0 c.parts seg))

/-- A segment that fails: FIFO bytes are zero, nothing else is written (R285). -/
def State.segFail (s : State) (c : Cmd) (seg : Nat) (e : FInfo) : State :=
  let c1 := { c with fails := if c.fails.any (fun f => f.1 == seg) then c.fails else c.fails ++ [(seg, e)] }
  if c.args.dstSp = 2 then (s.blankPart c seg).fifoSeg c1 seg (List.replicate (c.segLen seg) 0) false
  else s.settleCmd (c1.endSeg seg false)

/-- A place `k` bytes further on. -/
def Loc.plus (l : Loc) (k : Nat) : Loc :=
  match l with | .mem a => .mem (a + k) | .scr t a => .scr t (a + k) | .far p h a => .far p h (a + k)

/-- A failed segment's bytes in global memory: each holds its old value or the value copied (R285); a byte of the source that is
lost was not copied. -/
def State.copySome (s : State) (dst src : Loc) (bs : List Byte) : State :=
  match dst with
  | .mem pa =>
    let copied (k : Nat) : Bool := Config.freePick s.free k % 2 == 0 && !s.locBad (src.plus k) 1
    let s1 := bs.zipIdx.foldl (fun s x => if copied x.2 then s.poke (pa + x.2) [x.1] else s) s
    { s1 with free := s.free + 1 }
  | _ => { s with free := s.free + 1 }

/-- Source and destination of a command may name the same bytes: both are of one space, or one is a team's scratch through its
aperture (R194, R284). -/
def CopyArgs.mayOverlap (a : CopyArgs) (dst src : Loc) : Bool :=
  let scratch (l : Loc) : Bool := match l with | .scr .. => true | _ => false
  a.srcS == (a.dstSp == 1) || (a.dstSp == 0 && scratch dst) || (!a.srcS && scratch src)

/-- A segment that succeeds: its bytes are written and its source's lines counted (R202); an arrival whose team is gone or whose bank has left SCRATCH is discarded
and reported (R232, R284, R285). -/
def State.segWrite (s : State) (c : Cmd) (t : Team) (seg : Nat) (bs : List Byte) (dst src : Loc) : State :=
  let s0 := { s with free := s.free + 1 }
  let s1 := match src with | .mem pa => if aget 0 c.parts seg = 0 then s0.countLines pa bs.length else s0 | _ => s0
  if c.args.dstSp = 2 then s1.fifoSeg c seg bs true
  else
    let c1 := { c with wrote :=
      if c.args.mayOverlap dst src then s.keepOld (t.coreNo c.core) c.wrote dst bs.length else c.wrote }
    match dst with
    | .scr id off =>
      match s1.team? id with
      | none => s1.segFail c1 seg { code := 15, addr := off, detail := 2 }
      | some u =>
        if u.refuses off bs.length then s1.segFail c1 seg { code := 15, addr := off, detail := 3 }
        else ((s1.setTeam (u.deposit off bs)).noteScr u.id off bs.length none).settleCmd (c1.endSeg seg true)
    | _ => (s1.engineWrite dst bs).settleCmd (c1.endSeg seg true)

/-- Address of the index of a gather's row. -/
def Cmd.indexVa (c : Cmd) (row : Nat) : Nat := (c.args.table + 4 * row) % 2 ^ 64

/-- A row whose index cannot be read is a failed segment of that row: zeros into a FIFO, nothing elsewhere (R284, R285). -/
def State.indexFail (s : State) (c : Cmd) (row : Nat) (e : FInfo) : State :=
  let c1 := { c with fails := c.fails ++ [(segIndex row, e)], idx := (row, 0) :: c.idx }
  if c.args.dstSp = 2 then
    s.settleCmd { c1 with
      open_ := (c.open_.filter (· != segIndex row)) ++ (List.range c.ranks.length).map fun k => segNo k row (2 ^ 22 - 2) }
  else s.settleCmd (c1.endSeg (segIndex row) false)

/-- A piece of the segment lies in the page of an address: its source, its destination, or the index it stands for (R198). -/
def Cmd.inPage (c : Cmd) (seg va : Nat) : Bool :=
  let idx := overlay 0 c.idx (segRow seg)
  let at_ := ((c.args.pieces (segRow seg) idx).getD (segPiece seg) (0, 0)).1
  if segPiece seg = 2 ^ 22 - 1 then c.indexVa (segRow seg) / 4096 == va / 4096
  else
    (!c.args.srcS && (c.args.rowSrc (segRow seg) idx + at_) % 2 ^ 64 / 4096 == va / 4096) ||
      (c.args.dstSp == 0 && (c.args.rowDst (segRow seg) + at_) % 2 ^ 64 / 4096 == va / 4096)

/-- A segment has met the fault of a page: the page stays failed for the command's other open segments in it (R198). -/
def State.endPage (s : State) (c : Cmd) (t : Team) (seg va : Nat) : State :=
  let w : Who := { core := t.coreNo c.core, ctx := s.ctxOf t, kind := 0, me := .engine c.id }
  if c.open_.any (fun n => n != seg && c.inPage n va) then s else (s.takeEnds w va).takeEnds { w with kind := 1 } va

/-- Read a gather's index and open its row's segments (R284). -/
def State.readIndex (s : State) (c : Cmd) (t : Team) (row : Nat) : State :=
  let va := c.indexVa row
  let w : Who := { core := t.coreNo c.core, ctx := s.ctxOf t, kind := 0, me := .engine c.id }
  match s.enginePlace w va 4 with
  | .wait w vas => s.addWalks w vas
  | .fail e => (s.endPage c t (segIndex row) va).indexFail c row { e with addr := va }
  | .at loc =>
    if s.locBad loc 4 then s.indexFail c row { code := 8, addr := va }
    else
      let v := leNat (s.engineBytes t w.core s.free [] loc 4)
      let c1 := { c with
        idx := (row, v) :: c.idx
        begun := true
        open_ := (c.open_.filter (· != segIndex row)) ++ segsOfRow c.args c.ranks.length row v }
      let s1 : State := { s with free := s.free + 1 }
      (match loc with | .mem pa => s1.countLines pa 4 | _ => s1).settleCmd c1

/-- The whole row of a gather whose index could not be read, as zeros into a FIFO. -/
def Cmd.isDeadRow (seg : Nat) : Bool := segPiece seg == 2 ^ 22 - 2

/-- How many zeros a segment appends to its FIFO in place of its bytes: the row of an index that could not be read, a segment
whose zeros are already going in, or one dropped by a cancel before it began (R285, R286). -/
def Cmd.zeroLen (c : Cmd) (seg : Nat) : Option Nat :=
  if Cmd.isDeadRow seg then some c.args.width
  else if c.zeros.contains seg || (c.cancelled && aget 0 c.parts seg == 0) then some (c.segLen seg)
  else none

/-- Pages to wait for, none of them walking yet: the wait can make progress. -/
def State.canWalk (s : State) (w : Who) (vas : List Nat) : Bool := vas.any fun a => !s.walking w a

/-- May the segment take a step now: order within FIFOs, room, closed banks, walks in flight? -/
def State.segEnabled (s : State) (c : Cmd) (t : Team) (seg : Nat) : Bool :=
  if !c.open_.contains seg || !t.resident || decide (s.clk < (s.core (t.coreNo c.core)).frozen) then false
  else if segPiece seg = 2 ^ 22 - 1 then
    match s.enginePlace { core := t.coreNo c.core, ctx := s.ctxOf t, kind := 0, me := .engine c.id } (c.indexVa (segRow seg)) 4 with
    | .wait w vas => s.canWalk w vas
    | _ => true
  else
    let order : Bool := c.args.dstSp != 2 ||
      (c.firstOf seg && !s.fifoBusy c (segRank seg) &&
        (match c.ranks[segRank seg]? with
          | some r => (match s.team? r.1 with
              | some u => decide (0 < (u.fifo r.2 c.args.dst).room) && !decide (s.clk < (s.core (u.coreNo r.2)).frozen)
              | none => true)
          | none => true))
    order && ((c.zeroLen seg).isSome ||
      match s.segRead c t seg with
      | .wait w vas => s.canWalk w vas
      | .fail _ => true
      | .lost .. => true
      | .bytes bs dst _ =>
        if c.args.dstSp = 2 then true else
        match dst with
        | .scr id off => (match s.team? id with | some u => !u.waits off bs.length | none => true)
        | _ => true)

/-- One step of a segment (R284, R285, R286). -/
def State.segStep (s : State) (c : Cmd) (t : Team) (seg : Nat) : State :=
  let c1 := { c with begun := true }
  if segPiece seg = 2 ^ 22 - 1 then s.readIndex c t (segRow seg)
  else match c.zeroLen seg with
  | some n => s.fifoSeg c1 seg (List.replicate n 0) false
  | none =>
    match s.segRead c1 t seg with
    | .fail e => (s.endPage c t seg e.addr).segFail c1 seg e
    | .wait w vas => s.addWalks w vas
    | .lost e bs dst src =>
      ((s.endPage c t seg e.addr).copySome dst src bs).segFail c1 seg e
    | .bytes bs dst src => s.segWrite c1 t seg bs dst src

end Sys2Proof.Machine
end

