-- ==== Sys2Proof/Machine/Nests.lean ====
section
/-!
DEFINITION. The nest table, the exact arithmetic of a K-block, and the life of a nest (R256 to R270, R272 to R277).
-/
namespace Sys2Proof.Machine

/-! ### The nest table (R263, R264, R266) -/

/-- Reset value of a field. -/
def nxReset (k : Nat) : Nat :=
  if 1 ≤ k ∧ k ≤ 4 then 0xF else if 8 ≤ k ∧ k ≤ 13 then 1 else 0
/-- A field of a set. -/
def nx (set : AMap Nat) (k : Nat) : Nat := aget (nxReset k) set k
def nxSet (set : AMap Nat) (k v : Nat) : AMap Nat := aset (nxReset k) set k v
def nxFmt (set : AMap Nat) : Nat := fieldOf (nx set 0) 0 4
def nxSpa (set : AMap Nat) : Bool := (nx set 0).testBit 4
def nxScl (set : AMap Nat) : Bool := (nx set 0).testBit 5
def nxGang (set : AMap Nat) : Nat := fieldOf (nx set 0) 6 2
def nxTrip (set : AMap Nat) (n : Nat) : Nat := nx set (8 + n)
def nxCtl (set : AMap Nat) (n : Nat) : Nat := nx set (14 + n)
/-- ACCSTEP of a level, signed. -/
def nxStep (set : AMap Nat) (n : Nat) : Int := signedOf 4 (fieldOf (nxCtl set n) 4 4)
/-- A dimension of `nx.valid`: 0 means 128. -/
def nxValid (set : AMap Nat) (i : Nat) : Nat :=
  let v := fieldOf (nx set 6) (8 * i) 8
  if v = 0 then 128 else v

/-- Width of a field. -/
def nxWidth (k : Nat) : Nat :=
  if k = 0 then 8 else if k ≤ 4 then 4 else if k = 5 then 2 else if k = 6 then 24 else if k = 7 then 4
  else if k ≤ 13 then 16 else 8

/-- A stream of a nest: FIFO field, FIFO, bytes per K-block, and the bit of `nx.ctl` that rewinds it (R259, R265). -/
structure Stream where
  field : Nat
  fifo  : Nat
  bytes : Nat
  rew   : Nat
  deriving DecidableEq, Repr

/-- The streams in use. -/
def nxStreams (set : AMap Nat) : List Stream :=
  let wide := decide (2 ≤ nxFmt set)
  [⟨1, nx set 1, if nxSpa set then 8192 else if wide then 32768 else 16384, 1⟩,
   ⟨2, nx set 2, if wide then 32768 else 16384, 2⟩] ++
  (if nxScl set then [⟨3, nx set 3, 512, 3⟩] else []) ++
  (if nxSpa set then [⟨4, nx set 4, 2048, 1⟩] else [])

/-- DETAIL of a failing set: cause 11 with the field, or 10 (R266). `conf f` tells whether FIFO f is configured. -/
def nxCheck (set : AMap Nat) (hasGang : Bool) (conf : Nat → Bool) : Option Nat :=
  let bad (k : Nat) : Bool := decide (2 ^ nxWidth k ≤ nx set k)
  let earlier (k : Nat) : Bool := (nxStreams set).any fun x => x.field < k && x.fifo == nx set k
  let stream (k : Nat) : Bool := decide (8 ≤ nx set k) || earlier k || !conf (nx set k)
  let fld (k : Nat) (c : Bool) : Option Nat := if bad k || c then some (11 + 256 * k) else none
  let mode : Option Nat :=
    if bad 0 || decide (4 ≤ nxFmt set) || decide (2 ≤ nxGang set) then some 11
    else if nxGang set = 1 ∧ !hasGang then some 10
    else if 2 ≤ nxFmt set ∧ (nxSpa set || nxScl set) then some 11
    else none
  ([mode, fld 1 (stream 1), fld 2 (stream 2),
    fld 3 (if nxScl set then stream 3 else nx set 3 != 0xF),
    fld 4 (if nxSpa set then stream 4 else nx set 4 != 0xF),
    fld 5 false,
    fld 6 ((List.range 3).any fun i => decide (128 < fieldOf (nx set 6) (8 * i) 8)),
    fld 7 false] ++
    ((List.range 6).map fun n => fld (8 + n) (nxTrip set n == 0)) ++
    ((List.range 6).map fun n => fld (14 + n) false)).findSome? id

/-- Tiles that Walk visits (R265). -/
def nxTiles (set : AMap Nat) : List Nat :=
  (List.range 6).foldl (fun acc n =>
    (List.range (Nat.min (nxTrip set n) 4)).foldl (fun r (k : Nat) =>
      sunion (acc.map fun (x : Nat) => (((x : Int) + (k : Int) * nxStep set n) % 4).toNat) r) []) [nx set 5]

/-! ### Exact arithmetic (R257 to R262) -/

/-- Element `idx` of a stream, of `size` bytes. -/
def rawElem (size : Nat) (bs : List Byte) (idx : Nat) : Nat := leNat ((bs.drop (idx * size)).take size)

/-- A nibble of the metadata of row `i` (R259). -/
def metaNibble (md : List Byte) (i g : Nat) : Nat := fieldOf ((md.getD (16 * i + g / 2) 0).toNat) (4 * (g % 2)) 4

/-- The operands of one K-block. -/
structure Block where
  fmt : Nat
  spa : Bool
  scl : Bool
  rv  : Nat
  cv  : Nat
  kv  : Nat
  a   : List Byte
  b   : List Byte
  s   : List Byte
  m   : List Byte
  deriving DecidableEq, Repr

/-- Malformed metadata at an unpadded place (R260). -/
def Block.malformed (k : Block) : Bool :=
  k.spa && (List.range k.rv).any fun i => (List.range 32).any fun g =>
    decide (4 * g < k.kv) && decide (metaNibble k.m i g / 4 ≤ metaNibble k.m i g % 4)

def Block.size (k : Block) : Nat := if 2 ≤ k.fmt then 2 else 1

/-- The positions of row `i` that are neither padded nor skipped, each with its raw element (R259, R260). -/
def Block.rowA (k : Block) (i : Nat) : List (Nat × Nat) :=
  if k.spa then
    ((List.range 32).flatMap fun g =>
      let n := metaNibble k.m i g
      [(4 * g + n % 4, rawElem 1 k.a (128 * (2 * g) + i)), (4 * g + n / 4, rawElem 1 k.a (128 * (2 * g + 1) + i))]).filter
      fun e => e.1 < k.kv
  else (List.range k.kv).map fun p => (p, rawElem k.size k.a (128 * p + i))

/-- Raw element of B at a K position and column. -/
def Block.rawB (k : Block) (p j : Nat) : Nat := rawElem k.size k.b (128 * p + j)

def Block.elemFmt (k : Block) : Fmt := if k.fmt = 2 then fmtBf16 else fmtF16

/-- emax of elements in an aligned mode (R258). -/
def alignedExp (f : Fmt) (xs : List Nat) : Int :=
  xs.foldl (fun acc b =>
    let mag := b % f.signBit
    if mag = 0 ∨ f.infBits ≤ mag then acc
    else
      let e : Int := if mag < 2 ^ f.fb then f.emin else (mag / 2 ^ f.fb : Nat) - (f.bias : Int)
      if acc < e then e else acc) f.emin

/-- An element as its integer q, none for NaV, infinity or NaN; and whether the rounding was inexact (R257, R258). -/
def Block.decode (k : Block) (emax : Int) (raw : Nat) : Option Int × Bool :=
  match k.fmt with
  | 0 => (decodeMd8 raw, false)
  | 1 => (some (signedOf 8 raw), false)
  | _ =>
    match readF k.elemFmt false raw with
    | .fin neg num den =>
      let r := roundAt .rne neg num den (emax - 14)
      (some (if neg then -(r.1 : Int) else r.1), r.2)
    | _ => (none, false)

/-- A row's or column's scale: none for a NaV block, else a fraction; a zero block is a zero fraction. -/
def Block.scale (k : Block) (off : Nat) : Option (Nat × Nat) :=
  if !k.scl then some (1, 1)
  else match decodeS16 (rawElem 1 k.s off + 256 * rawElem 1 k.s (off + 1)) with
    | .zero => some (0, 1)
    | .nav => none
    | .val n d => some (n, d)

/-- The unit of a row or column as a fraction, under its emax. -/
def Block.unit (k : Block) (emax : Int) (sc : Nat × Nat) : Nat × Nat :=
  match k.fmt with
  | 0 => (sc.1, sc.2 * 64000)
  | 1 => sc
  | _ => scale2 1 (emax - 14)

/-- One cell of a K-block: the new element and the flags NAV, OVF, INX as bits 3, 2 and 1 (R261, R262). A row with no
unpadded, unskipped position leaves its element; an element that is NaN stays NaN, with the canonical payload where a block
value is added to it (R27). (DEDUCED, log entry 31) -/
def Block.cell (k : Block) (i j : Nat) (old : BitVec 32) : BitVec 32 × Nat :=
  let row := k.rowA i
  let ea := alignedExp k.elemFmt (row.map (·.2))
  let eb := alignedExp k.elemFmt ((List.range k.kv).map fun p => k.rawB p j)
  if row = [] then (old, 0)
  else match k.scale (2 * i), k.scale (256 + 2 * j) with
  | some sa, some sb =>
    let qs := row.map fun e =>
      (if sa.1 = 0 then some 0 else (k.decode ea e.2).1, if sb.1 = 0 then some 0 else (k.decode eb (k.rawB e.1 j)).1)
    if qs.any fun q => q.1.isNone || q.2.isNone then (BitVec.ofNat 32 fmtF32.nan, 8)
    else
      let ps : List (Int × Int) := qs.map fun q => (q.1.getD 0, q.2.getD 0)
      let S : Int := (ps.map fun q => (q.1 + q.2) ^ 2).sum
      let RA : Int := (ps.map fun q => q.1 ^ 2).sum
      let CB : Int := (ps.map fun q => q.2 ^ 2).sum
      let D : Int := (S - RA - CB) / 2
      let ua := k.unit ea sa
      let ub := k.unit eb sb
      let num := D.natAbs * ua.1 * ub.1
      let x := readF fmtF32 false old.toNat
      if num = 0 then (old, 0)
      else if x.isNan then (BitVec.ofNat 32 fmtF32.nan, 0)
      else
        let r := roundF fmtF32 .rne false (sumF .rne [x, .fin (decide (D < 0)) num (ua.2 * ub.2)])
        let ovf := r.bits % fmtF32.signBit == fmtF32.infBits && !x.isInf
        let inx := r.fl &&& fIX != 0
        (BitVec.ofNat 32 r.bits, (if ovf then 4 else 0) + (if inx then 2 else 0))
  | _, _ => (BitVec.ofNat 32 fmtF32.nan, 8)

/-- ALN of a K-block: an unpadded element of an aligned mode was rounded inexactly (R258). -/
def Block.aligned (k : Block) : Bool :=
  decide (2 ≤ k.fmt) &&
  ((List.range k.rv).any (fun i =>
    let row := k.rowA i
    let e := alignedExp k.elemFmt (row.map (·.2))
    row.any fun x => (k.decode e x.2).2) ||
  (List.range k.cv).any (fun j =>
    let col := (List.range k.kv).map fun p => k.rawB p j
    let e := alignedExp k.elemFmt col
    col.any fun x => (k.decode e x).2))

/-! ### The accumulator store (R256, R275, R276) -/

/-- (DESIGN CHOICE, log entry 4) -/
def nest0 : Nest := ⟨[], none, none, 0, false, [], [], [], []⟩
def Team.nest (t : Team) (core : Nat) : Nest := aget nest0 t.nests core
def Team.setNest (t : Team) (core : Nat) (n : Nest) : Team := { t with nests := aset nest0 t.nests core n }

/-- A tile is in the tile set of a nest. -/
def inTiles (a : Option Active) (tile : Nat) : Bool := match a with | some a => a.tiles.contains tile | none => false

/-- A tile is in the tile set of an ARMED or RUNNING nest. -/
def Nest.busyTile (n : Nest) (tile : Nat) : Bool := inTiles n.armed tile || inTiles n.active tile

/-- An element. -/
def Nest.elem (n : Nest) (tile idx : Nat) : BitVec 32 := aget 0 n.acc (16384 * tile + idx)

/-- An element written; what it held is kept for each nest that has its tile, since that nest's commit (R275). -/
def Nest.setElem (n : Nest) (tile idx : Nat) (x : BitVec 32) : Nest :=
  let k := 16384 * tile + idx
  let note (a : Option Active) (h : AMap (List (BitVec 32))) : AMap (List (BitVec 32)) :=
    if inTiles a tile then aset [] h k (aget 0 n.acc k :: aget [] h k) else h
  { n with acc := aset 0 n.acc k x, hist := note n.active n.hist, histA := note n.armed n.histA }

/-- Every element of a tile made +0. -/
def Nest.clearTile (n : Nest) (tile : Nat) : Nest :=
  ((n.acc.filter fun e => e.1 / 16384 == tile).map (·.1 % 16384)).foldl (fun m i => m.setElem tile i 0) n

/-- Flags of a tile raised (R276). -/
def Nest.raise (n : Nest) (tile fl : Nat) : Nest := { n with flags := aset 0 n.flags tile (aget 0 n.flags tile ||| fl) }

/-- Values that elements held while an `acred` that reads them is in flight (R277). -/
def State.noteAcc (s : State) (t : Team) (core : Nat) (old new : Nest) : State :=
  if s.acreds = [] then s
  else
    let keys := ((old.acc ++ new.acc).map (·.1)).foldl (fun r k => sinsert k r) []
    let changed := keys.filter fun k => aget 0 old.acc k != aget 0 new.acc k
    let upd (a : Acred) : Acred :=
      match (s.gangOf t).findIdx? (fun u => u.id == a.team) with
      | none => a
      | some _ =>
        let rank := (t.index % (s.kernelOf t).gangTeams) * (s.kernelOf t).cores + core
        { a with hist := (changed.filter fun k => k / 16384 == a.aS).foldl (fun h k =>
            let i := 65536 * rank + k % 16384
            aset [] h i (aget 0 old.acc k :: aget [] h i)) a.hist }
    { s with acreds := s.acreds.map upd }

/-- A team core's nest engine replaced. -/
def State.putNest (s : State) (id core : Nat) (n : Nest) : State :=
  match s.team? id with
  | none => s
  | some t => (s.noteAcc t core (t.nest core) n).setTeam (t.setNest core n)

/-! ### The walk and the rewinds (R265, R288) -/

/-- The next iteration: the level that advances with the new counts and tile indices; none after the last. -/
def nxAdvance (set : AMap Nat) : Nat → Nat → List Nat → List Nat → Option (Nat × List Nat × List Nat)
  | 0, _, _, _ => none
  | f + 1, n, its, xs =>
    if its.getD n 0 + 1 < nxTrip set n then
      let x := (((xs.getD n 0 : Nat) + nxStep set n) % 4).toNat
      some (n, List.replicate n 0 ++ [its.getD n 0 + 1] ++ its.drop (n + 1),
        List.replicate (n + 1) x ++ xs.drop (n + 1))
    else nxAdvance set f (n + 1) its xs

/-- Product of the trip counts below a level. -/
def tripsBelow (set : AMap Nat) (n : Nat) : Nat := ((List.range n).map fun k => nxTrip set k).foldl (· * ·) 1

/-- Bytes a stream rewinds at level `n`. -/
def Stream.rewind (x : Stream) (set : AMap Nat) (n : Nat) : Nat :=
  if (nxCtl set n).testBit x.rew then x.bytes * tripsBelow set n else 0

/-- Net movement and lowest position of whole passes through levels 0 to n, from position 0. -/
def loopSpan (x : Stream) (set : AMap Nat) : Nat → Int × Int
  | 0 =>
    let t : Int := nxTrip set 0
    let r : Int := x.rewind set 0
    let step : Int := x.bytes - r
    (t * x.bytes - (t - 1) * r, min 0 ((t - 1) * step))
  | n + 1 =>
    let b := loopSpan x set n
    let t : Int := nxTrip set (n + 1)
    let r : Int := x.rewind set (n + 1)
    (t * b.1 - (t - 1) * r, min 0 ((t - 1) * (b.1 - r)) + b.2)

/-- End and lowest start of the rest of a nest, from a position before the K-block at `its`, levels `n` up. -/
def restSpan (x : Stream) (set : AMap Nat) (its : List Nat) : Nat → Nat → Int → Int → Int × Int
  | 0, _, p, lo => (p, lo)
  | f + 1, n, p, lo =>
    let left : Int := (nxTrip set n : Int) - 1 - its.getD n 0
    let r : Int := x.rewind set n
    -- at level 0 the present iteration has its body still to run; above, its body has just ended at p
    let body : Int × Int := if n = 0 then (x.bytes, 0) else loopSpan x set (n - 1)
    let e : Int := if n = 0 then p + x.bytes else p
    if left ≤ 0 then restSpan x set its f (n + 1) e lo
    else
      let q := e - r
      let lo1 := min lo (q + min 0 ((left - 1) * (body.1 - r)) + body.2)
      restSpan x set its f (n + 1) (q + left * body.1 - (left - 1) * r) lo1

/-- Bytes that a stream of a nest rewinds before its next K-block. -/
def Active.back (a : Active) (x : Stream) : Nat := match a.rew with | some n => x.rewind a.set n | none => 0

/-- Lowest position the running and armed nests may yet read from a FIFO, from its read position. -/
def Nest.lowest (n : Nest) (f : Nat) (rd : Nat) : Int :=
  let start (p lo : Int) (a : Option Active) : Int × Int :=
    match a with
    | none => (p, lo)
    | some a =>
      match (nxStreams a.set).find? fun x => x.fifo == f with
      | none => (p, lo)
      | some x => restSpan x a.set a.its 6 0 (p - a.back x) (min lo (p - a.back x))
  let r1 := start rd rd n.active
  (start r1.1 r1.2 n.armed).2

/-- Release what no rewind can return to (R288). -/
def Team.releaseFifos (t : Team) (core : Nat) : Team :=
  (List.range 8).foldl (fun u f =>
    let x := u.fifo core f
    if x.conf then u.setFifo core f (x.releaseTo (Nat.min x.rd ((u.nest core).lowest f x.rd).toNat)) else u) t

/-! ### Starting, retiring and ending (R266 to R270) -/

/-- The places of a gang: its teams and team cores, in rank order; for a local nest only its own. -/
def State.nestPlaces (s : State) (t : Team) (core : Nat) (gang : Bool) : List (Nat × Nat) :=
  if gang then (s.gangOf t).flatMap fun u => (List.range (s.kernelOf t).cores).map fun c => (u.id, c)
  else [(t.id, core)]

/-- The place of a gang rank: the team of that index within the gang and its team core; none where that team has ended
(R123). -/
def State.rankPlace (s : State) (t : Team) (r : Nat) : Option (Nat × Nat) :=
  let k := s.kernelOf t
  let n := Nat.max k.cores 1
  let index := t.index / k.gangTeams * k.gangTeams + r / n
  ((s.gangOf t).find? fun u => u.index == index).map fun u => (u.id, r % n)

/-- Nest engine of a place. -/
def State.nestAt (s : State) (p : Nat × Nat) : Nest := match s.team? p.1 with | some t => t.nest p.2 | none => nest0

/-- Is FIFO f configured at every place? -/
def State.fifoConf (s : State) (places : List (Nat × Nat)) (f : Nat) : Bool :=
  places.all fun p => match s.team? p.1 with | some t => (t.fifo p.2 f).conf | none => false

/-- Every team of the gang is there: one that has retired has left its FIFOs UNCONFIGURED (R287). -/
def State.gangWhole (s : State) (t : Team) : Bool := (s.gangOf t).length == (s.kernelOf t).gangTeams

/-- The failing DETAIL of a set that an `mxgo` on a core would take (R266, R272). -/
def State.mxCheck (s : State) (t : Team) (core : Nat) (set : AMap Nat) : Option Nat :=
  let gang := nxGang set == 1
  nxCheck set ((s.kernelOf t).gang != 0)
    fun f => (!gang || s.gangWhole t) && s.fifoConf (s.nestPlaces t core gang) f

/-- Arm a set at its places (R267, R268): a history of its tiles begins. The tile of its first K-block is entered at every
level (R265). -/
def State.arm (s : State) (t : Team) (core : Nat) (set : AMap Nat) (group : Nat) (lanes : List Nat) (pc : Nat) : State :=
  let gang := nxGang set == 1
  let tiles := nxTiles set
  (s.nestPlaces t core gang).foldl (fun s p =>
    let n := s.nestAt p
    let a : Active :=
      { set := set, its := List.replicate 6 0, xs := List.replicate 6 (nx set 5), tiles := tiles, group := group
        lanes := lanes, pc := pc, gang := gang, owner := p == (t.id, core), team := t.id, clr := some 5 }
    s.putNest p.1 p.2 { n with armed := some a, histA := [] }) s

/-- Clear the tile of the next K-block where a level at which it is entered has CLR set (R265). -/
def Nest.enter (m : Nest) (a : Active) : Nest :=
  match a.clr with
  | some n => if (List.range (n + 1)).any fun k => (nxCtl a.set k).testBit 0 then m.clearTile (a.xs.headD 0) else m
  | none => m

/-- Package-wide core of a place; 256 for none. -/
def State.coreOfPlace (s : State) (p : Nat × Nat) : Nat := match s.team? p.1 with | some u => u.coreNo p.2 | none => 256

/-- May the armed nest of a core start (R267, R268)? None does once the team is leaving (R133). -/
def State.canStart (s : State) (t : Team) (core : Nat) : Bool :=
  match (t.nest core).armed with
  | none => false
  | some a => t.resident && t.leaving.isNone && (s.nestPlaces t core a.gang).all fun p =>
      (s.nestAt p).active.isNone && (s.nestAt p).armed.isSome && !s.coreIdle (s.coreOfPlace p)

/-- Start the armed nest of a core, on every core of a gang at once. -/
def State.startNest (s : State) (t : Team) (core : Nat) : State :=
  match (t.nest core).armed with
  | none => s
  | some a => (s.nestPlaces t core a.gang).foldl (fun s p =>
      let n := s.nestAt p
      s.putNest p.1 p.2 { n with armed := none, active := n.armed, kb := 0, hist := n.histA, histA := [] }) s

/-- The read positions from which a nest's next K-block reads: the rewinds of the iteration that has ended come first
(R265). -/
def Team.rewound (t : Team) (core : Nat) (a : Active) : Team :=
  (nxStreams a.set).foldl (fun u x =>
    let f := u.fifo core x.fifo
    u.setFifo core x.fifo { f with rd := f.rd - a.back x }) t

/-- The running nest's operands of a core are present (R288). -/
def State.operandsReady (s : State) (p : Nat × Nat) : Bool :=
  match s.team? p.1 with
  | none => false
  | some t =>
    match (t.nest p.2).active with
    | none => false
    | some a => (nxStreams a.set).all fun x => ((t.rewound p.2 a).fifo p.2 x.fifo).readable x.bytes

/-- The next K-block's operands. -/
def Team.block (t : Team) (core : Nat) (a : Active) : Block :=
  let st (field : Nat) : List Byte :=
    match (nxStreams a.set).find? fun x => x.field == field with
    | some x => ((t.rewound core a).fifo core x.fifo).peek x.bytes
    | none => []
  let last := a.its.headD 0 + 1 == nxTrip a.set 0
  ⟨nxFmt a.set, nxSpa a.set, nxScl a.set, nxValid a.set 0, nxValid a.set 1, if last then nxValid a.set 2 else 128,
    st 1, st 2, st 3, st 4⟩

/-- Add a K-block into a tile (R261). -/
def Nest.addBlock (n : Nest) (k : Block) (tile : Nat) : Nest :=
  let cells := (List.range k.rv).flatMap fun i => (List.range k.cv).map fun j => (128 * i + j, k.cell i j (n.elem tile (128 * i + j)))
  let m := cells.foldl (fun m c => (m.setElem tile c.1 c.2.1).raise tile c.2.2) n
  if k.aligned then m.raise tile 1 else m

/-- Read positions after a K-block: after the last byte of it (R267). -/
def Team.consume (t : Team) (core : Nat) (a : Active) : Team :=
  (nxStreams a.set).foldl (fun u x =>
    let f := u.fifo core x.fifo
    u.setFifo core x.fifo { f with rd := f.rd + x.bytes }) (t.rewound core a)

/-- End the nests of places: `aborted` or drained, with the one signal counted (R267). -/
def State.endNests (s : State) (places : List (Nat × Nat)) (armed aborted : Bool) : State :=
  places.foldl (fun s p =>
    let n := s.nestAt p
    let a := if armed then n.armed else n.active
    let n1 := if armed then { n with armed := none, abt := aborted, histA := [] }
      else { n with active := none, abt := aborted, hist := [] }
    let s1 := (s.putNest p.1 p.2 n1).onTeam p.1 fun t => t.releaseFifos p.2
    match a with
    | some x => if x.owner then s1.sigDec x.team x.group (some (nx x.set 7)) else s1
    | none => s1) s

/-- One core's part of a K-block's retirement: its tile is entered and the block added; the rewinds and CLR of the next
iteration wait for the next K-block (R265, R267). -/
def State.retireAt (s : State) (p : Nat × Nat) : State :=
  match s.team? p.1 with
  | none => s
  | some t =>
    match (t.nest p.2).active with
    | none => s
    | some a =>
      let n := ((t.nest p.2).enter a).addBlock (t.block p.2 a) (a.xs.headD 0)
      let n1 := { n with kb := (n.kb + 1) % 2 ^ 32 }
      let n2 := match nxAdvance a.set 6 0 a.its a.xs with
        | some (lv, its, xs) => { n1 with active := some { a with its := its, xs := xs, clr := some lv, rew := some lv } }
        | none => { n1 with active := some { a with clr := none, rew := none } }
      (s.putNest p.1 p.2 n2).onTeam p.1 fun u => (u.consume p.2 a).releaseFifos p.2

/-- Retire the next K-block of a core's running nest, with every core of its gang, or abort on malformed metadata
(R261, R267, R268). -/
def State.retireBlock (s : State) (t : Team) (core : Nat) : State :=
  match (t.nest core).active with
  | none => s
  | some a =>
    let places := s.nestPlaces t core a.gang
    let badAt := places.any fun p => match s.team? p.1 with | some u => (u.block p.2 a).malformed | none => false
    let lost := places.any fun p => match s.team? p.1 with
      | some u => (nxStreams a.set).any fun x => ((u.rewound p.2 a).fifo p.2 x.fifo).lost x.bytes
      | none => false
    if lost then
      (s.endNests places false true).charge a.team a.group a.lanes a.pc { code := 8, lane := a.lanes.headD 0 }
    else if badAt then
      (s.endNests places false true).charge a.team a.group a.lanes a.pc { code := 11, lane := a.lanes.headD 0, detail := 13 }
    else
      let s1 := places.foldl State.retireAt s
      if (nxAdvance a.set 6 0 a.its a.xs).isNone then s1.endNests places false false else s1

/-- May the running nest of a core retire its next K-block? Once its team is leaving it stops at the boundary at which it
stands (R133). -/
def State.canRetire (s : State) (t : Team) (core : Nat) : Bool :=
  match (t.nest core).active with
  | none => false
  | some a => t.resident && t.leaving.isNone &&
      (s.nestPlaces t core a.gang).all fun p => s.operandsReady p && !s.coreIdle (s.coreOfPlace p)

/-- Abort the armed and the running nest of a core (R267, R268, R273). -/
def State.abortNests (s : State) (t : Team) (core : Nat) : State :=
  let n := t.nest core
  let s1 := match n.active with | some a => s.endNests (s.nestPlaces t core a.gang) false true | none => s
  match n.armed with
  | some a => s1.endNests (s.nestPlaces t core a.gang) true true
  | none => s1

/-! ### Gang reduction (R277) -/

/-- One element-wise add of the fixed tree, with its flags. (DEDUCED, log entry 31) -/
def accAdd (x y : BitVec 32) : BitVec 32 × Nat :=
  let r := roundF fmtF32 .rne false (sumF .rne [readF fmtF32 false x.toNat, readF fmtF32 false y.toNat])
  let inv := (r.fl &&& fNV) != 0
  (BitVec.ofNat 32 r.bits, (if inv then 8 else 0) + (if (r.fl &&& fOF) != 0 then 4 else 0) + (if (r.fl &&& fIX) != 0 then 2 else 0))

/-- One level of the tree: neighbours added, a last odd one carried. -/
def treeLevel : List (BitVec 32) → List (BitVec 32) × Nat
  | x :: y :: rest => let r := accAdd x y; let t := treeLevel rest; (r.1 :: t.1, r.2 ||| t.2)
  | l => (l, 0)

/-- The tree over at most `n` levels. -/
def treeSum : Nat → List (BitVec 32) → BitVec 32 × Nat
  | 0, l => (l.headD 0, 0)
  | n + 1, l => if l.length ≤ 1 then (l.headD 0, 0) else
      let t := treeLevel l
      let r := treeSum n t.1
      (r.1, t.2 ||| r.2)

/-- A source element of an `acred`: a free choice among what it held during the reduction. -/
def Acred.source (a : Acred) (n : Nest) (draw rank idx : Nat) : BitVec 32 :=
  let olds := aget [] a.hist (65536 * rank + idx)
  let now := n.elem a.aS idx
  choose (Config.freePick draw (65536 * rank + idx)) now (now :: olds)

/-- Write the destination tile of an `acred` over the gang's ranks (R123, R277). What a rank whose team has ended gives is a
free value. (DEDUCED, log entry 31) -/
def State.finishAcred (s : State) (a : Acred) (t : Team) : State :=
  let ranks := (List.range (s.kernelOf t).gang).map fun r => (s.rankPlace t r).map s.nestAt
  let n := s.nestAt (a.team, a.core)
  let lostFl (k : Nat) : Nat := Config.freePick s.free (2 ^ 32 + k) % 16
  let cells := (List.range 16384).map fun i =>
    (i, treeSum 5 (ranks.zipIdx.map fun x => match x.1 with
      | some m => a.source m s.free x.2 i
      | none => (Config.freeWord (Config.freePick s.free (65536 * x.2 + i))).extractLsb' 0 32))
  let fl := (ranks.zipIdx.map fun x => match x.1 with | some m => aget 0 m.flags a.aS | none => lostFl x.2).foldl (· ||| ·) 0
  let m := (cells.foldl (fun m c => (m.setElem a.aD c.1 c.2.1).raise a.aD c.2.2) n).raise a.aD fl
  let s1 := { s with acreds := s.acreds.filter (fun x => x.id != a.id), free := s.free + 1 }
  (s1.putNest a.team a.core m).sigDec a.team a.group a.sig

end Sys2Proof.Machine
end

