-- ==== Sys2Proof/Machine/Pages.lean ====
section
/-!
DEFINITION. Page walks, page requests and the device's own translations (R195 to R199, R85).
-/
namespace Sys2Proof.Machine

/-- A ring's HEAD after a write: it moves only up to TAIL; a value beyond TAIL acts as TAIL, one below HEAD is ignored
(R71, R335). (DEDUCED, log entry 41) -/
def ringHead (head tail v : BitVec 32) : BitVec 32 :=
  if (v - head).toNat ≤ (tail - head).toNat then v
  else if head.toNat ≤ tail.toNat ∧ tail.toNat < v.toNat then tail
  else head

/-! ### Page requests (R198) -/

/-- Slots of the page-request ring; a ring that is not configured holds none (R206). -/
def State.fqSlots (s : State) : Nat :=
  let n := fieldOf s.pg.fq.toNat 0 5
  if 4 ≤ n ∧ n ≤ 16 then 2 ^ n else 0

/-- The 32 bytes of a request. -/
def PReq.bytes (r : PReq) : List Byte :=
  leBytes 8 r.va ++ leBytes 4 r.id ++ leBytes 1 r.ctx ++ leBytes 1 r.kind ++ leBytes 1 r.cause ++ leBytes 1 r.level ++
    List.replicate 16 0

/-- Write one request that waits for a slot, if there is one; a slot that lies in the translation cache or under no key is not written
(R17, R67).
(DESIGN CHOICE, log entry 63) -/
def State.writeReq (s : State) (r : PReq) : State :=
  if r.written ∨ ¬ (s.pg.fqt - s.pg.fqh).toNat < s.fqSlots then s
  else
    let base := fieldOf s.pg.fq.toNat 12 44 * 4096
    let at_ := base + 32 * (s.pg.fqt.toNat % s.fqSlots)
    let s1 := if s.shut at_ then s else s.poke at_ r.bytes
    ({ s1 with
      pg := { s1.pg with fqt := s1.pg.fqt + 1 }
      preqs := lreplace (fun x => x.id == r.id) (fun x => { x with written := true }) s1.preqs }).irq .page

/-- Write the requests held for slots, oldest first. -/
def State.flushReqs (s : State) : State := s.preqs.foldl State.writeReq s

/-- Raise a page request, unless an identical one is outstanding. (DESIGN CHOICE, log entry 5) -/
def State.raiseReq (s : State) (ctx va kind cause level : Nat) : State × Nat :=
  match s.preqs.find? fun r => r.ctx == ctx && r.va / 4096 == va / 4096 && r.kind == kind with
  | some r => (s, r.id)
  | none =>
    let r : PReq := ⟨s.nextReq, va, ctx, kind, cause, level, false⟩
    (({ s with preqs := s.preqs ++ [r], nextReq := (s.nextReq + 1) % 2 ^ 32 }).flushReqs, r.id)

/-! ### Walks (R195 to R197) -/

/-- A leaf under migration: MIG set and W 0 (R196, R203). -/
def pteMigrating (p : Nat) : Bool := pteBit p 8 && !pteBit p 2

/-- Bytes of a page by its size code (R203, R204). -/
def pageSize (code : Nat) : Nat := [4096, 65536, 2097152, 1073741824].getD code 4096

/-- Physical base of the 4 KiB page that a reader of a core uses under a leaf, with the index of its replica set
(R204). -/
def State.leafCopy (s : State) (core ctx p level va : Nat) : Nat × Nat :=
  let pa := leafPage p level va
  if pteBit p 9 then
    match s.replOf ctx (if pteBit p 63 then ptePpn p / 16 * 16 else ptePpn p) with
    | some (i, r) => (s.copyFor core r.frames + va % pageSize r.size / 4096 * 4096, i + 1)
    | none => (pa, 8192)
  else (pa, 0)

/-- Set A, and D for a write or atomic, in a leaf that lacks them (R196). -/
def State.setAd (s : State) (a p kind : Nat) : State := if pteAd p kind = p then s else s.putNat a 8 (pteAd p kind)

/-- A walk that ends in a fault: its waiters will take it. -/
def State.walkFails (s : State) (w : Walk) (e : FInfo) : State :=
  let s1 := { s with walks := s.walks.filter fun x => x.id != w.id }
  if w.waiters = [] then s1
  else { s1 with walkEnds := s1.walkEnds ++ [⟨w.core, w.ctx, w.va / 4096, w.kind, e, w.waiters, none⟩] }

/-- Pages that a cached translation gives: its own, and each copy's of a replicated page (R199, R221). -/
def State.tlbPages (s : State) (e : Tlb) : List Nat :=
  e.pa / 4096 :: (if e.rep = 0 then [] else match s.repls[e.rep - 1]? with
    | some r => r.frames.map fun f => (f + e.vpn * 4096 % pageSize r.size) / 4096
    | none => [])

/-- Cache a translation. What the core's former translation of the page gave is kept for an invalidation, since stores translated with
it may still be held (R199). -/
def State.cacheTlb (s : State) (e : Tlb) : State :=
  let same (x : Tlb) : Bool := x.core == e.core && x.ctx == e.ctx && x.vpn == e.vpn
  let old := (s.tlbs.filter same).flatMap fun x =>
    (s.tlbPages x).filterMap fun p => if (s.tlbPages e).contains p then none else some (x.ctx, x.vpn, x.span, p)
  { s with
    tlbs := e :: s.tlbs.filter fun x => !same x
    pg := { s.pg with former := old.filter (fun x => !s.pg.former.contains x) ++ s.pg.former } }

/-- Finish a walk whose leaf passed: set A and D, make the checks that fault at once, and cache the translation. -/
def State.walkLeaf (s : State) (w : Walk) (a p level : Nat) : State :=
  let s0 := s.setAd a p w.kind
  let s1 := { s0 with walks := s0.walks.filter fun x => x.id != w.id }
  let c := s1.leafCopy w.core w.ctx p level w.va
  match s1.leafFault w.ctx p (c.1 + w.va % 4096) w.kind w.multi with
  | some (code, detail) => s0.walkFails w { code := code, detail := detail }
  | none =>
    let mig := pteMigrating p
    let span := if pteBit p 63 then 16 else 512 ^ level
    s1.cacheTlb ⟨w.core, w.ctx, w.va / 4096, c.1, w.kind != 0 && !mig, c.2, mig, span⟩

/-- Perform one walk (R196, R198). -/
def State.doWalk (s : State) (w : Walk) : State :=
  match s.walkFor w.core w.ctx w.va w.kind with
  | .request cause level =>
    let r := s.raiseReq w.ctx w.va w.kind cause level
    { r.1 with walks := lreplace (fun x => x.id == w.id) (fun x => { x with req := some r.2 }) r.1.walks }
  | .leaf a p level => s.walkLeaf w a p level
  | .fault code detail => s.walkFails w { code := code, detail := detail }
  | .busy => s

/-- A walk may be performed: it has no request outstanding and is among the first 64 of its core (R197). -/
def State.walkEnabled (s : State) (w : Walk) : Bool :=
  w.req.isNone && (((s.walks.filter fun x => x.core == w.core).take 64).any fun x => x.id == w.id)

/-! ### Translations of the command complex (R85, R90, R91) -/

/-- What a translation of the device itself gives. -/
inductive DevRes where
  | at (pa : Nat)
  | fail (code detail : Nat)
  | req (id : Nat)
  | busy
  deriving DecidableEq, Repr

/-- Translate an address of a context for an access of `n` bytes, within a page, by the device itself. What lies in another package
waits for a polder link in training, and cannot be reached without one (R305, R307, R308, R313). (DESIGN CHOICE, log entry 62) -/
def State.devPlace (s : State) (ctx va kind : Nat) (n : Nat := 8) : State × DevRes :=
  if vaClass va ≠ .user then (s, .fail 3 0)
  else match s.walk ctx va kind with
    | .request cause level => let r := s.raiseReq ctx va kind cause level; (r.1, .req r.2)
    | .fault code detail => (s, .fail code detail)
    | .busy => (s, .busy)
    | .leaf a p level =>
      let s1 := s.setAd a p kind
      let c := s1.leafCopy 1024 ctx p level va
      match s1.leafFault ctx p (c.1 + va % 4096) kind false with
      | some (code, detail) => (s1, .fail code detail)
      | none =>
        let pa := c.1 + va % 4096
        if (kind ≠ 0 ∧ pteMigrating p) ∨ s1.linkHeld 1024 pa n ∨ s1.polderWaits (.mem pa) then (s1, .busy)
        else if s1.polderGone (.mem pa) then (s1, .fail 15 1)
        else (s1, .at pa)

/-! ### What the command complex may reach (R344, R345) -/

/-- A window of `FW_WIN` covers an address for a read (kind 0) or a write; it compares the bits below the key ID (R344, R351).
(DEDUCED, log entry 51) -/
def winHas (w : BitVec 64) (pa kind : Nat) : Bool :=
  let n := fieldOf w.toNat 56 8
  decide (12 ≤ n) && decide (n ≤ 50) && decide (fieldOf w.toNat 12 38 * 4096 / 2 ^ n = pa % 2 ^ 50 / 2 ^ n) &&
    (kind == 0 || w.getLsbD 0)

/-- A core of the command complex reaches an address: through one of its windows, none of which covers the translation cache, the
monitor's memory or the update area (R17, R344). (DEDUCED, log entry 51) -/
def State.cxReach (s : State) (pa kind : Nat) : Bool :=
  !s.sealed pa && !inRanges s.fw.monitor pa && !s.inArea pa && (List.range 8).any fun k => winHas (aget 0 s.fw.win k) pa kind

/-- A master is frozen: it issues nothing further, and the monitor records the access it was refused (R345). -/
def State.freeze (s : State) (m cause pa : Nat) : State :=
  if s.fw.frozen.contains m then s
  else
    ({ s with fw := { s.fw with
      frozen := sinsert m s.fw.frozen
      frz := BitVec.ofNat 64 (m * 2 ^ 56 + pa % 2 ^ 56)
      frzc := cause } } : State).irq .freeze

/-- The wake core that serves a queue (R339). -/
def wakeCore (q : Nat) : Nat := 1 + q % 6

/-- Translate an address of a context for core `m` of the command complex: an access outside its windows is not performed and
freezes it (R344, R345). -/
def State.cxPlace (s : State) (m ctx va kind : Nat) (n : Nat := 8) : State × DevRes :=
  if s.fw.frozen.contains m then (s, .busy)
  else
    let r := s.devPlace ctx va kind n
    match r.2 with
    | .at pa => if r.1.cxReach pa kind then r else (r.1.freeze m 1 pa, .busy)
    | _ => r

/-! ### Dropping translations (R199) -/

/-- A cached translation is one of a page of a context, or of any page of it: of a larger page every 4 KiB piece is
(R199). -/
def Tlb.covers (e : Tlb) (ctx : Nat) (vpn : Option Nat) : Bool :=
  e.ctx == ctx && (match vpn with | none => true | some v => e.vpn / e.span == v / e.span)

/-- Forget cached translations of a page, or of a context (R199). -/
def State.dropTlbs (s : State) (ctx : Nat) (vpn : Option Nat) : State :=
  { s with tlbs := s.tlbs.filter fun e => !e.covers ctx vpn }

/-- CounterStep of R91 on the word at a place. -/
def counterStep (c amount : Nat) (failed : Bool) : Nat :=
  (c % 2 ^ 63 + amount) % 2 ^ 63 + (if failed || c.testBit 63 then 2 ^ 63 else 0)

/-- A counter of memory stepped. -/
def State.stepCounter (s : State) (pa amount : Nat) (failed : Bool) : State :=
  s.putNat pa 8 (counterStep (s.word64 pa) amount failed)

/-! ### Diagnostic and profile records (R110, R117) -/

/-- Outcome of a profile request. -/
def State.profRes (s : State) (w : Late) (res : Nat) : State :=
  if w.prof then { s with cxq := { s.cxq with kpres := res } } else s

/-- Try to write a record, as `.g` stores of its context that the policy core makes within its windows: a page request delays it, a
fault loses it (R110, R117, R344). -/
def State.writeLate (s : State) (w : Late) : State :=
  if w.req.isSome then { s with cxq := { s.cxq with late := s.cxq.late ++ [w] } }
  else
    let r := s.cxPlace 0 w.ctx w.va 1
    match r.2 with
    | .at pa => (r.1.poke pa w.bytes).profRes w 1
    | .fail .. => r.1.profRes w 3
    | .req id => { r.1 with cxq := { r.1.cxq with late := r.1.cxq.late ++ [{ w with req := some id }] } }
    | .busy => { r.1 with cxq := { r.1.cxq with late := r.1.cxq.late ++ [w] } }

/-- Try every record that waits. -/
def State.flushLate (s : State) : State :=
  s.cxq.late.foldl State.writeLate { s with cxq := { s.cxq with late := [] } }

end Sys2Proof.Machine
end

