-- ==== Sys2Proof/Machine/Trace.lean ====
section
/-!
DEFINITION. The debug ring, the records in it, and the trace records of events (R332, R334, R335).
-/
namespace Sys2Proof.Machine

/-! ### The debug ring (R332, R335) -/

/-- Slots of the debug ring; a ring with another LOG2N holds no record. -/
def State.dbgSlots (s : State) : Nat :=
  let n := fieldOf s.dbg.sring.toNat 0 5
  if 4 ≤ n ∧ n ≤ 20 then 2 ^ n else 0

/-- A slot of the ring is free. -/
def State.dbgRoom (s : State) : Bool := decide ((s.dbg.tail - s.dbg.head).toNat < s.dbgSlots)

/-- Write a record into the next slot; a slot in memory that only the translation cores write, or under no key, stays as it is
(R17, R67).
(DESIGN CHOICE, log entry 63) -/
def State.dbgWrite (s : State) (r : Nat) : State :=
  let base := fieldOf s.dbg.sring.toNat 12 44 * 4096
  let at_ := base + 32 * (s.dbg.tail.toNat % s.dbgSlots)
  let s1 := if s.shut at_ then s else s.poke at_ (leBytes 32 r)
  { s1 with dbg := { s1.dbg with tail := s1.dbg.tail + 1 } }

/-- Write a sample or trace record, or count it dropped (R335). -/
def State.dbgPut (s : State) (r : Nat) : State :=
  if s.dbgRoom then s.dbgWrite r
  else
    let d := s.dbg.smp
    if fieldOf d.toNat 32 32 = 2 ^ 32 - 1 then s else { s with dbg := { s.dbg with smp := d + (1 <<< 32 : BitVec 64) } }

/-- The parts of a record (R332). -/
structure DRec where
  cls   : Nat
  team  : Nat := 0
  grid  : Nat := 0
  pc    : Nat := 0
  lanes : List Nat := []
  group : Nat := 0
  ctx   : Nat := 0
  deriving DecidableEq, Repr

/-- PID and TID of a launch (R332): TID in the low half. -/
def State.pidTid (s : State) (l : Launch) : Nat :=
  match l.origin with | some q => (s.queue q).qid.toNat | none => 0

/-- The 256 bits of a record; `ids` names its process and thread. -/
def State.recWord (s : State) (ids : Nat) (r : DRec) : Nat :=
  r.team % 2 ^ 32 * 2 ^ 224 + r.grid % 2 ^ 32 * 2 ^ 192 + r.pc % 2 ^ 32 * 2 ^ 160 + laneMask r.lanes * 2 ^ 128 +
    ids / 2 ^ 32 * 2 ^ 96 + ids % 2 ^ 32 * 2 ^ 64 + r.group * 2 ^ 56 + r.ctx * 2 ^ 50 + r.cls * 2 ^ 46 +
    r.lanes.headD 0 * 2 ^ 41 + s.clk % 2 ^ 41

/-- A launch, for a record's names. -/
def State.launchOf (s : State) (t : Team) : Launch :=
  (s.launch? t.launch).getD { id := 0, num := 0, ctx := 0, slot := 0, kernel := {}, gx := 1, gy := 1, gz := 1 }

/-- A record of a thread set. -/
def State.setRec (s : State) (t : Team) (g : Group) (ts : TSet) (cls : Nat) : Nat :=
  let l := s.launchOf t
  s.recWord (s.pidTid l) { cls := cls, team := t.index, grid := l.num.toNat, pc := ts.pc, lanes := ts.lanes, group := g.index, ctx := l.ctx }

/-- A record of a team. -/
def State.teamRec (s : State) (t : Team) (cls : Nat) : Nat :=
  let l := s.launchOf t
  s.recWord (s.pidTid l) { cls := cls, team := t.index, grid := l.num.toNat, ctx := l.ctx }

/-- A record of a launch. -/
def State.launchRec (s : State) (l : Launch) (cls : Nat) : Nat :=
  s.recWord (s.pidTid l) { cls := cls, grid := l.num.toNat, ctx := l.ctx }

def Dbg.att (d : Dbg) : Bool := d.ctl.getLsbD 0
def Dbg.trc (d : Dbg) : Bool := d.ctl.getLsbD 1
/-- The attached context. -/
def Dbg.ctx (d : Dbg) : Nat := fieldOf d.ctl.toNat 10 6
/-- One-group stop (R329). -/
def Dbg.oneGroup (d : Dbg) : Bool := fieldOf d.ctl.toNat 8 2 == 1

/-- A debugger is attached to a context (R327). -/
def State.attached (s : State) (ctx : Nat) : Bool := s.dbg.att && s.dbg.ctx == ctx

/-- Write the trace record of an event while TRC is set (R334). -/
def State.trace (s : State) (r : Nat) : State := if s.dbg.trc then s.dbgPut r else s


end Sys2Proof.Machine
end

