-- ==== Sys2Proof/Machine/Launches.lean ====
section
/-!
DEFINITION. Launches, packets and teams as they end: completion, the queue's counts, and what a fault does to a launch
and its context (R65, R86 to R96, R116, R133, R135).
-/
namespace Sys2Proof.Machine

/-! ### Queue writes (R85 to R88) -/

/-- Ring slots of a queue. -/
def Queue.slots (q : Queue) : Nat := 2 ^ fieldOf q.ring.toNat 0 5
/-- Virtual address of packet k. -/
def Queue.slotVa (q : Queue) (k : Nat) : Nat := fieldOf q.ring.toNat 12 45 * 4096 + 64 * (k % q.slots)
/-- Virtual address of a word of the wake page. -/
def Queue.wakeVa (q : Queue) (off : Nat) : Nat := fieldOf q.wakePage.toNat 12 45 * 4096 + off

/-- Translate a place of a queue's own for its core: one on a page whose request has failed fails (R85).
(DEDUCED, log entry 41) -/
def State.queuePlace (s : State) (core q va kind : Nat) : State × DevRes :=
  let x := s.queue q
  if x.lost.contains (va / 4096) then (s, .fail 3 0) else s.cxPlace core x.ctx va kind

/-- Write the halt cause that a queue owes its wake page: it waits with the queue for a page request, and is lost where the
page cannot be written (R85, R88). -/
def State.writeErr (s : State) (q : Nat) : State :=
  let x := s.queue q
  match x.errOwed with
  | none => s
  | some v =>
    if x.paused.isSome then s
    else
      let r := s.queuePlace (wakeCore q) q (x.wakeVa 0x180) 1
      match r.2 with
      | .at pa => (r.1.setQueue q { r.1.queue q with errOwed := none }).putNat pa 8 v
      | .fail .. => r.1.setQueue q { r.1.queue q with errOwed := none }
      | .req id => r.1.setQueue q { r.1.queue q with paused := some id }
      | .busy => r.1

/-- Halt a queue with a cause (R88). -/
def State.haltQueue (s : State) (q cause : Nat) : State :=
  let x := s.queue q
  if x.state = 1 then (s.setQueue q { x with state := 2, err := cause, errOwed := some cause }).writeErr q else s

/-- Write a word of a queue's ring or wake page, or pause or halt the queue; true when it is written, or lost because
its translation failed (R85). (DEDUCED, log entry 41) -/
def State.queueWrite (s : State) (q va v : Nat) : State × Bool :=
  let r := s.queuePlace (wakeCore q) q va 1
  match r.2 with
  | .at pa => (r.1.putNat pa 8 v, true)
  | .fail .. => (r.1.haltQueue q 2, true)
  | .req id => (r.1.setQueue q { r.1.queue q with paused := some id }, false)
  | .busy => (r.1, false)

/-- Replace a packet of a queue. -/
def State.setPkt (s : State) (q : Nat) (p : Pkt) : State :=
  s.setQueue q { s.queue q with pkts := lreplace (fun x => x.num == p.num) (fun _ => p) (s.queue q).pkts }

/-- Word w of a packet. -/
def Pkt.word (p : Pkt) (w : Nat) : Nat := (p.words.getD w 0).toNat
def Pkt.typ (p : Pkt) : Nat := fieldOf (p.word 0) 0 8
def Pkt.bar (p : Pkt) : Bool := (p.word 0).testBit 8
def Pkt.ccinc (p : Pkt) : Nat := fieldOf (p.word 0) 16 16
def Pkt.ccaddr (p : Pkt) : Nat := p.word 1

/-- STATUS of a packet (R92). -/
def Pkt.status (p : Pkt) : Nat := p.detail % 2 ^ 48 * 65536 + bitOf p.ccfail * 512 + 256 + p.code % 256

/-- The packet's own CounterStep, which is skipped where it cannot be made: its counter's bytes are lost, among other causes
(R91, R348). -/
def State.pktCounter (s : State) (q : Nat) (p : Pkt) : State × Pkt :=
  if p.state ≠ 3 ∨ p.req.isSome then (s, p)
  else if p.ccaddr = 0 then (s, { p with state := 2 })
  else if p.ccaddr % 8 ≠ 0 then (s, { p with state := 2, ccfail := true })
  else
    let r := s.cxPlace (wakeCore q) (s.queue q).ctx p.ccaddr 2
    match r.2 with
    | .at pa =>
      if r.1.locBad (.mem pa) 8 then (r.1, { p with state := 2, ccfail := true })
      else (r.1.stepCounter pa p.ccinc p.failed, { p with state := 2 })
    | .fail .. => (r.1, { p with state := 2, ccfail := true })
    | .req id => (r.1, { p with req := some id })
    | .busy => (r.1, p)

/-- Words 2 to 7 of a packet's time-account record (R336): a stage never reached takes the stamp of the next one
reached. -/
def Pkt.account (p : Pkt) : List Byte :=
  let first := if p.first = 0 then p.ended else p.first
  let ready := if p.ready = 0 then first else p.ready
  let own := p.first != 0
  [p.taken, ready, first, p.ended, if own then p.serv else 0, if own then p.waits else 0].flatMap (leBytes 8)

/-- Write a packet's time-account record, where the queue carries them; one that cannot be translated is not
written, and one that raises a page request waits as the queue's other writes do. True when nothing is owed.
(DEDUCED, log entry 41) -/
def State.writeAccount (s : State) (q : Nat) (p : Pkt) : State × Bool :=
  let x := s.queue q
  if !x.qrec.getLsbD 0 then (s, true)
  else
    let va := fieldOf x.qrec.toNat 6 51 * 64 + 64 * (p.num % x.slots)
    let r := s.queuePlace 0 q va 1
    match r.2 with
    | .at pa => (r.1.poke (pa + 16) p.account, true)
    | .fail .. => (r.1, true)
    | .req id => (r.1.setQueue q { r.1.queue q with paused := some id }, false)
    | .busy => (r.1, false)

/-- Advance one packet that is complete: its CounterStep, its time-account record, then its STATUS. -/
def State.pktAdvance (s : State) (q num : Nat) : State :=
  match (s.queue q).pkts.find? fun p => p.num == num with
  | none => s
  | some p =>
    let r := s.pktCounter q p
    let s1 := r.1.setPkt q r.2
    if r.2.state = 2 ∧ (s1.queue q).paused.isNone then
      let a := s1.writeAccount q r.2
      if a.2 then
        let w := a.1.queueWrite q ((a.1.queue q).slotVa num + 56) r.2.status
        if w.2 then w.1.setPkt q { r.2 with state := 4 } else w.1
      else a.1
    else s1

/-- Advance DONE over the packets whose STATUS is written, at most `n` of them (R86). -/
def State.advanceDone : Nat → State → Nat → State
  | 0, s, _ => s
  | n + 1, s, q =>
    let x := s.queue q
    if x.pkts.any fun p => p.num == x.done && p.state == 4 then
      let w := s.queueWrite q (x.wakeVa 0x100) ((x.done + 1) % 2 ^ 64)
      if w.2 then
        State.advanceDone n (w.1.setQueue q { w.1.queue q with
          done := (x.done + 1) % 2 ^ 64
          pkts := (w.1.queue q).pkts.filter fun p => p.num != x.done }) q
      else w.1
    else s

/-- Do the writes a queue owes; they are held while its cores are frozen (R345). -/
def State.settleQueue (s : State) (q : Nat) : State :=
  if s.unserved q then s else
  let nums := ((s.queue q).pkts.map (·.num))
  let s1 := nums.foldl (fun s n => s.pktAdvance q n) (s.writeErr q)
  if (s1.queue q).paused.isSome then s1 else State.advanceDone (nums.length + 1) s1 q

/-- Complete a packet with a code and detail: what it still waited for holds up nothing of its own completion (R91, R96). -/
def State.completePkt (s : State) (q num code detail : Nat) : State :=
  match (s.queue q).pkts.find? fun p => p.num == num with
  | none => s
  | some p =>
    (s.setPkt q { p with state := 3, code := code, detail := detail, failed := code != 0, ended := s.clk, req := none }).settleQueue q

/-! ### Launches -/

/-- The CounterStep a child launch owes its counter (R91, R100). -/
def State.childCounter (s : State) (l : Launch) : State :=
  if l.req.isSome ∨ s.cx0Frozen then s
  else if l.ccaddr = 0 ∨ l.ccaddr % 8 ≠ 0 then { s with launches := s.launches.filter fun x => x.id != l.id }
  else
    let r := s.cxPlace 0 l.ctx l.ccaddr 2
    match r.2 with
    | .at pa =>
      let s1 := if r.1.locBad (.mem pa) 8 then r.1 else r.1.stepCounter pa l.ccinc l.stepped
      { s1 with launches := s1.launches.filter fun x => x.id != l.id }
    | .fail .. => { r.1 with launches := r.1.launches.filter fun x => x.id != l.id }
    | .req id => r.1.setLaunch { l with req := some id }
    | .busy => r.1

/-- Complete a launch with a code: its packet or its counter follows (R94, R96, R100). A child's `stepped` keeps
whether its step sets ERR, and what it still waited for holds up nothing. -/
def State.finishLaunch (s0 : State) (l : Launch) (code : Nat) : State :=
  let s := s0.trace (s0.launchRec l 15)
  match l.queue with
  | some (q, num) =>
    let s1 := { s with launches := s.launches.filter fun x => x.id != l.id }
    let note (p : Pkt) : Pkt :=
      if p.num = num then { p with ready := l.ready, first := l.first, serv := l.serv, waits := l.waits } else p
    let x := s1.queue q
    (s1.setQueue q { x with pkts := x.pkts.map note }).completePkt q num code l.num.toNat
  | none =>
    let l1 := { l with phase := 2, stepped := code != 0, req := none, endedAt := s.clk }
    let s1 := (s.setLaunch l1)
    let s2 := match l.parent with | some t => s1.onTeam t fun u => { u with kids := u.kids - 1 } | none => s1
    s2.childCounter l1

/-- Teams of a launch. -/
def Launch.total (l : Launch) : Nat := l.gx * l.gy * l.gz

/-- No further team of the launch is placed: it faulted, was aborted, or its context drains. -/
def State.launchStopped (s : State) (l : Launch) : Bool :=
  l.fault.isSome || l.aborted || (s.ctx l.ctx).state == 5

/-- Complete a launch whose teams have all ended (R94, R95, R96). -/
def State.checkLaunch (s : State) (id : Nat) : State :=
  match s.launch? id with
  | none => s
  | some l =>
    if l.phase ≠ 1 ∨ s.teams.any (fun t => t.launch == id) then s
    else if l.ended = l.total ∨ s.launchStopped l then
      let code := match l.fault with
        | some c => c
        | none => if l.aborted then 0x80 else if l.ended = l.total ∧ l.halted = 0 then 0 else 0x0E
      s.finishLaunch l code
    else s

/-! ### Stopping at run boundaries (R65, R116, R133) -/

/-- Entries of an overlay applied to a table, oldest first. -/
def applyOv {α : Type} [DecidableEq α] (d : α) (m : AMap α) (ov : List (Nat × α)) : AMap α :=
  ov.foldr (fun e acc => aset d acc e.1 e.2) m

/-- Banks a set has closed in its run, one entry for each word (R240). -/
def TSet.closes (ts : TSet) : List Nat :=
  ts.held.filterMap fun h => match h.act with | .bank c b 0 => some (32 * c + b) | _ => none

/-- The banks that a set's open run has closed open again, but for those that another open run keeps closed (R240). -/
def Team.reopen (t : Team) (ts : TSet) : Team := { t with closed := ts.closes.foldl List.erase t.closed }

/-- Discard every effect of a set since its last commit point (R116, R133). The lanes that have met it at an `lsync` and gone on are
not awaited again when it arrives again (R149). (DEDUCED, log entry 32) -/
def Group.discard (g : Group) (ts : TSet) (clk : Nat) : Group :=
  let g1 := { g with
    v := ts.undoV.foldl (fun (m : AMap Reg) (e : Nat × Reg) => aset marker m e.1 e.2) g.v
    p := ts.undoP.foldl (fun (m : AMap (BitVec 8)) (e : Nat × BitVec 8) => aset 0 m e.1 e.2) g.p }
  g1.setTset { ts with
    pc := ts.start, phase := .ready, fresh := !ts.mid, committed := false, temps := ts.temps0,
    undoV := [], undoP := [], gOv := [], lsOv := [], seedOv := none, recOv := [], profOv := [], fl := 0,
    flWrite := none, held := [], got := [], got2 := [], hot := false, prot := [], readyAt := clk,
    aliases := [], words := [], roOwn := [], issued := none }

/-- A probe slot unprotected once for each entry of a list (R224). (DEDUCED, log entry 36) -/
def Team.unprotect (t : Team) (slots : List Nat) : Team :=
  { t with slots := slots.foldl (fun m i =>
      let x := aget ⟨0, 0, 0⟩ m i
      aset ⟨0, 0, 0⟩ m i { x with prot := x.prot - 1 }) t.slots }

/-- Discard a set's open run: its registers, its closed banks and its protections. -/
def Team.discard (t : Team) (g : Group) (ts : TSet) (clk : Nat) : Team :=
  let t1 := (t.setGroup (g.discard ts clk)).unprotect ts.prot
  t1.reopen ts

/-- A set stands inside an open run that it is issuing. -/
def TSet.issuing (ts : TSet) : Bool := ts.phase == .ready && !ts.fresh && !ts.stop
/-- A set is parked inside an open run. -/
def TSet.parkedIn (ts : TSet) : Bool := match ts.phase with | .parked _ => !ts.committed | _ => false

/-- Every set of the team stands at a boundary or is parked, or its parked runs have been discarded for a swap (R133). -/
def Team.atBoundary (t : Team) : Bool := t.leaving.isSome || t.groups.all fun g => g.tsets.all fun ts => !ts.issuing

/-- Discard the open runs of every parked set of a team. -/
def Team.discardParked (t : Team) (clk : Nat) : Team :=
  t.groups.foldl (fun u g => g.tsets.foldl (fun u ts =>
    if ts.parkedIn then (match u.group? g.index with | some g1 => u.discard g1 ts clk | none => u) else u) u) t

/-- A store of the team stands in a write-combining buffer. -/
def State.buffered (s : State) (id : Nat) : Bool := s.cores.any fun c => c.2.wc.any fun e => e.by_.any fun x => x.1.team == id

/-- What the team has issued and is neither applied nor reported (R73, R135). -/
def State.inFlight (s : State) (id : Nat) : Bool :=
  s.cmds.any (·.team == id) || s.frags.any (·.team == id) || s.fills.any (·.team == id) ||
  s.acreds.any (·.team == id) || s.msgs.any (·.team == id) || s.accesses.any (·.team == id) || s.buffered id ||
  (match s.team? id with
    | some t => (t.nests.any fun n => n.2.armed.isSome || n.2.active.isSome) || t.groups.any fun g => g.tsets.any (·.dying)
    | none => false)

/-- Remove a team: its buffer drains, its banks, FIFOs, register store and handle are free (R135, R225, R311). -/
def State.removeTeam (s : State) (t : Team) (halted : Bool) : State :=
  let s1 := t.cores.foldl State.drainAll s
  let s2 := { s1 with teams := s1.teams.filter fun u => u.id != t.id }
  match s2.launch? t.launch with
  | none => s2
  | some l =>
    let l1 := { l with ended := l.ended + 1, halted := l.halted + (if halted then 1 else 0) }
    (s2.setLaunch l1).checkLaunch l.id

/-- A fault charged to a launch: the launch stops and its context changes state (R65). Its swapped-out
teams end without being restored. -/
def State.faultLaunch (s : State) (id code : Nat) : State :=
  match s.launch? id with
  | none => s
  | some l =>
    let s1 := s.setLaunch { l with fault := some (l.fault.getD code) }
    let halt (t : Team) : Team := if t.launch == id then { t with halting := true } else t
    let s2 : State := { s1 with teams := s1.teams.map halt }
    let c := s2.ctx l.ctx
    match c.state with
    | 2 => s2.setCtx l.ctx { c with state := 4 }
    | 3 => s2.setCtx l.ctx { c with faultedWhile := true }
    | _ => s2

/-- A record of a fault with no lane (R65, R69). -/
def State.launchRecord (s : State) (l : Launch) (code addr detail : Nat) : State :=
  let c := s.ctx l.ctx
  s.setCtx l.ctx { c with
    fwait := c.fwait ++ [⟨0, 0, 0, 0, l.num.toNat, l.ctx, { code := code, addr := addr, detail := detail }, [], s.pidTid l⟩] }

/-- A launch that completes before any team is dispatched (R65): one record, no change of state. -/
def State.failLaunch (s : State) (l : Launch) (code addr detail : Nat) : State :=
  (s.launchRecord l code addr detail).finishLaunch l code

end Sys2Proof.Machine
end

