-- ==== Sys2Proof/Machine/Commit.lean ====
section
/-!
DEFINITION. The commit of a run: what it waits for, what it checks, and the effects it performs in NX order (R40, R51,
R126, R136, R215 to R221, R231, R234, R236, R237, R240, R244 to R254, R267, R272, R276, R279, R286, R287, R319).
-/
namespace Sys2Proof.Machine

/-! ### Destinations written at a commit -/

/-- Write a register destination of lanes (R24, R126). -/
def Group.put (g : Group) (o : Opd) (vals : List (Nat × Reg)) : Group :=
  match o with
  | .v n => { g with v := vals.foldl (fun m e => aset marker m (laneKey n.toNat e.1) e.2) g.v }
  | .g n => (match vals with | [] => g | e :: _ => { g with g := aset marker g.g n.toNat e.2 })
  | _ => g

/-- Write a predicate destination of lanes (R45). -/
def Group.putPred (g : Group) (o : Opd) (vals : List (Nat × Bool)) : Group :=
  match o with
  | .p i =>
    if i.val = 0 then g
    else { g with p := vals.foldl (fun m e =>
      let bit : BitVec 8 := BitVec.ofNat 8 (2 ^ i.val)
      let old := aget 0 m e.1
      aset 0 m e.1 (if e.2 then old ||| bit else old &&& ~~~bit)) g.p }
  | _ => g

/-- Write a temporary destination of lanes, which the run's trailer never reads (R51). -/
def TSet.put (ts : TSet) (o : Opd) (vals : List (Nat × Reg)) : TSet :=
  match o with
  | .t i => { ts with temps := (vals.map fun e => (laneKey i.val e.1, e.2)).reverse ++ ts.temps }
  | _ => ts

/-- Values of temporaries of a run that ends, for the reads of idle lanes in later runs (R51). -/
def Group.noteTemps (g : Group) (temps : List (Nat × Reg)) : Group :=
  { g with tHist := temps.foldr (fun e m => aset [] m e.1 (e.2 :: aget [] m e.1)) g.tHist }

/-- Write the destination of a closing word at its commit, a temporary of its set among them (R51, R234, R251). -/
def Group.deliver (g : Group) (tset : Nat) (o : Opd) (vals : List (Nat × Reg)) : Group :=
  let old : TSet → Group → Group := fun ts x => x.noteTemps ((ts.put o vals).temps.take ((ts.put o vals).temps.length - ts.temps.length))
  match g.tset? tset with
  | none => g.put o vals
  | some ts => (old ts (g.put o vals)).setTset (ts.put o vals)

/-! ### Barriers at a commit (R247, R249 to R253) -/

/-- The first rule a lane's arrival breaks (R247). -/
def Barrier.arriveError (x : Barrier) (isGang : Bool) (k thread : Nat) : Option Nat :=
  if x.arr.contains thread then some 1
  else if x.drp.contains thread then some 2
  else if (x.kind = 1 ∧ isGang) ∨ (x.kind = 2 ∧ !isGang) then some 3
  else if x.e < x.a + k ∨ x.held then some 4
  else none

/-- The fault of a barrier word at its commit. `op`: 0 `binit`, 1 `barr`, 2 `bwait`, 3 `bsync`, 4 `bdrop`, 5 `bphase`,
6 `barm`, 7 `gbar`. -/
def Barrier.check (x : Barrier) (op n : Nat) (sig : Option Nat) (group : Nat) (lanes : List Nat) : Option FInfo :=
  let low := lanes.headD 0
  let engine (d : Nat) : Option FInfo := some { code := 11, lane := low, detail := d }
  match op with
  | 0 => if n < 1 ∨ 8192 < n then engine 8 else if x.a ≠ 0 ∨ x.m ≠ 0 then engine 7 else none
  | 2 | 5 => none
  | 6 =>
    if n < 1 ∨ 65535 < x.m + n then engine 8
    else match sig with
      | none => none
      | some i => if x.lrem = 0 ∨ x.link = some (group, i) then none else engine 9
  | _ => lanes.findSome? fun l =>
      (x.arriveError (op == 7) lanes.length (32 * group + l)).map fun d => { code := 9, lane := l, detail := d }

/-- The barrier word is an arrival: the accesses before it are performed before the flip, so its core's buffer drains
(R255). -/
def arrives (op : Nat) : Bool := op == 1 || op == 3 || op == 4 || op == 7

/-- The effect of a barrier word that passed its checks (R246). -/
def Barrier.apply (x : Barrier) (op n : Nat) (sig : Option Nat) (group : Nat) (lanes : List Nat) : Barrier :=
  let ts := lanes.map (32 * group + ·)
  match op with
  | 0 => { x with e := n, drp := [] }
  | 2 | 5 => x
  | 6 =>
    let y := { x with m := x.m + n }
    (match sig with | some i => { y with link := some (group, i), lrem := x.lrem + n } | none => y)
  | _ =>
    let y := { x with a := x.a + lanes.length, arr := sunion ts x.arr, kind := if x.kind = 0 then (if op = 7 then 2 else 1) else x.kind }
    if op = 4 then { y with dn := x.dn + lanes.length, drp := sunion ts x.drp } else y

/-- The value `bphase` writes for a thread (R251). -/
def Barrier.phaseReg (x : Barrier) (thread : Nat) : Reg :=
  BitVec.ofNat 64 ((x.m - Nat.min x.c x.m) * 2 ^ 48 + x.a * 2 ^ 32 + x.e * 2 ^ 16 + bitOf x.held * 16 + x.kind * 4 +
    bitOf (x.arr.contains thread) * 2 + bitOf x.ph)

/-! ### What a commit waits for (R55, R100, R234, R272, R279, R284) -/

/-- Team core of a group. -/
def State.tcore (s : State) (t : Team) (g : Nat) : Nat := (s.kernelOf t).coreOf g

/-- The shadow set as it stands after the run's own `mxset` words, oldest first (R272). -/
def shadowAfter (set : AMap Nat) (held : List Held) : AMap Nat :=
  held.foldr (fun h m => match h.act with | .mxset f v => nxSet m f v.toNat | _ => m) set

/-- Signal and amount that an act adds at its commit. -/
def Held.adds (h : Held) (shadow : AMap Nat) : Option (Nat × Nat) :=
  match h.act with
  | .tpost sig _ _ parts => sig.map fun i => (i, parts.length)
  | .copy a => a.sig.map fun i => (i, 1)
  | .mxgo => some (nx shadow 7, 1)
  | .acred sig _ _ => sig.map fun i => (i, 1)
  | .nsend a => a.sig.map fun i => (i, 1)
  | _ => none

/-- Is a place of the gang (or the core) ARMED? -/
def State.anyArmed (s : State) (t : Team) (core : Nat) (set : AMap Nat) : Bool :=
  (s.nestPlaces t core (nxGang set == 1)).any fun p => (s.nestAt p).armed.isSome

/-- A held store or `qsig` step whose place cannot be reached yet: a link on its path is in training (R305). -/
def State.storeWaits (s : State) (t : Team) (g : Group) (h : Held) : Bool :=
  let core := t.coreNo (s.tcore t g.index)
  match h.act with
  | .store loc _ bs _ => s.storeHeld core loc bs.length
  | .qsig loc _ _ _ => s.storeHeld core loc 8 || s.polderWaits loc
  | _ => false

/-- The team is resident: the commands of a team that is swapped out take up no engine (R133, R284). -/
def State.resides (s : State) (team : Nat) : Bool := match s.team? team with | some t => t.resident | none => false

/-- Why one act keeps its run from committing. -/
def State.actWait (s : State) (t : Team) (g : Group) (ts : TSet) (h : Held) : Option Park :=
  let tc := s.tcore t g.index
  let shadow := shadowAfter (t.nest tc).shadow ts.held
  let sigFull : Bool := match h.adds shadow with | some (i, n) => decide (255 < aget 0 g.sig i + n) | none => false
  match h.act with
  | .copy _ =>
    if 64 ≤ (s.cmds.filter fun c => s.cmdCore c == t.coreNo tc && s.resides c.team).length then some .copyRoom
    else if sigFull then some .signalRoom else none
  | .mxgo => if s.anyArmed t tc shadow then some .armed else if sigFull then some .signalRoom else none
  | .qpush => if 4 ≤ t.children.length then some .queueFull else none
  | .qjoin .. => some .join
  | .ttake _ _ offs => if offs.all fun o => (t.tag o.2).full then none else some .tile
  | .store .. | .qsig .. => if s.storeWaits t g h then some .link else none
  | _ => if sigFull then some .signalRoom else none

/-- Why a run cannot commit now. (DEDUCED, log entry 56) -/
def State.commitWait (s : State) (t : Team) (g : Group) (ts : TSet) : Option Park :=
  ts.held.findSome? fun h => s.actWait t g ts h

/-- The fault that a closing word meets at its commit (R247, R249, R252, R272), with its PC. -/
def State.commitFault (s : State) (t : Team) (g : Group) (ts : TSet) : Option (Nat × FInfo) :=
  ts.held.findSome? fun h =>
    match h.act with
    | .barrier op b n sig _ => ((t.bar b).check op n sig g.index h.lanes).map fun e => (h.pc, e)
    | .ttake typ _ offs => (offs.find? fun o => s.locBad (.scr t.id o.2) (tyBytes typ)).map fun o =>
        (h.pc, { code := 8, lane := o.1, addr := o.2 })
    | .mxgo =>
      let tc := s.tcore t g.index
      (s.mxCheck t tc (shadowAfter (t.nest tc).shadow ts.held)).map fun d =>
        (h.pc, { code := 11, lane := h.lanes.headD 0, detail := d })
    | _ => none

/-! ### Copies, fragments and messages as they are issued -/

/-- The destinations of a copy: its own core, or the ranks of a multicast (R282). A rank whose team has retired keeps its
place, as that of a team that is not there: no team has the identity 0. -/
def State.copyRanks (s : State) (t : Team) (tc : Nat) (a : CopyArgs) : List (Nat × Nat) :=
  if a.kind = 3 then
    ((List.range (s.kernelOf t).gang).filter a.mask.testBit).map fun r => (s.rankPlace t r).getD (0, 0)
  else [(t.id, tc)]

/-- Issue a copy command (R284, R286). -/
def State.issueCopy (s : State) (t : Team) (g : Group) (h : Held) (a : CopyArgs) : State :=
  let tc := s.tcore t g.index
  let ranks := s.copyRanks t tc a
  let f := s.fresh
  let c : Cmd := ⟨f.1, t.id, g.index, tc, h.pc, h.lanes.headD 0, h.lanes, a, ranks, [], a.firstOpen ranks.length, [], [],
    false, false, [], [], [], [], s.clk⟩
  let note (x : Group) : Group := { x with copies := (⟨f.1, 0, 0, 1⟩ :: x.copies).take 16 }
  ((({ f.2 with cmds := f.2.cmds ++ [c] }).onGroup t.id g.index note).sigAdd t.id g.index a.sig 1)

/-- Handle of the team that a place names. -/
def State.handleOf (s : State) (l : Loc) : Nat :=
  match l with
  | .scr id _ => (match s.team? id with | some t => t.handle | none => 0)
  | .far _ h _ => h
  | .mem _ => 0

/-- Send the fragments of a `tpost` (R231). -/
def State.issuePost (s : State) (t : Team) (g : Group) (h : Held) (sig : Option Nat) (isSealed : Bool)
    (parts : List PostLane) : State :=
  parts.foldl (fun s p =>
    let f := s.fresh
    let u := s.team? t.id
    let data := match u with | some u => u.scrRead p.src 512 | none => []
    let m := BitVec.ofNat 16 p.mask
    let fr : Frag := ⟨f.1, t.id, g.index, h.lanes, h.pc, p.lane, sig, p.dst, p.src, data, m, m, 0, isSealed, s.handleOf p.dst⟩
    ({ f.2 with
      frags := f.2.frags ++ [fr]
      wires := match p.dst with
        | .far pk hd off => f.2.wires ++ [Wire.post f.1 pk hd off (BitVec.ofNat 16 p.mask)]
        | _ => f.2.wires }).sigAdd t.id g.index sig 1) s

/-- Payload bytes of a packet (R326): PAY of `NT_PKT` in units of 256 bytes, where 0 acts as 16. -/
def Nt.pay (n : Nt) : Nat :=
  let p := fieldOf n.pkt.toNat 0 5
  256 * (if p = 0 ∨ 16 < p then 16 else p)

/-- Packets of a message. -/
def Nt.packets (n : Nt) (len : Nat) : Nat := if len = 0 then 1 else (len + n.pay - 1) / Nat.max n.pay 1

/-- The wire of a packet of a message: its bytes from the message's own packet size (R319, R354). -/
def Msg.wire (m : Msg) (bs : List Byte) (k : Nat) : Wire :=
  .packet m.id k m.args.ep (m.args.dst + k * m.pay) ((bs.drop (k * m.pay)).take m.pay)

/-- An access that the message's thread set made before a `.rel` message is not yet performed: no packet of the message is sent
before it is (R321). -/
def State.relWait (s : State) (m : Msg) : Bool :=
  m.args.rel && s.accesses.any fun a =>
    decide (a.id < m.id) && a.kind != 0 && a.team == m.team && a.group == m.group && a.lanes.any m.lanes.contains

/-- An earlier `.ord` message of the endpoint is not complete: a later one is not placed before it (R321). -/
def State.ordWait (s : State) (m : Msg) : Bool :=
  m.args.ord && s.msgs.any fun x => decide (x.id < m.id) && x.args.ord && x.args.ep == m.args.ep && x.args.gen == m.args.gen

/-- A message that failed: its signal falls and its fault is charged (R322). -/
def State.failMsg (s : State) (m : Msg) (e : FInfo) : State :=
  (({ s with msgs := s.msgs.filter fun x => x.id != m.id }).charge m.team m.group m.lanes m.pc { e with lane := m.lane }).sigDec
    m.team m.group m.args.sig

/-- The source of a message, page by page: its bytes with the ranges of memory read, a failure, or a wait. -/
def State.msgSource (s : State) (t : Team) (core id : Nat) :
    Nat → Nat → Nat → Except (Option FInfo × Who × List Nat) (List Byte × List (Nat × Nat))
  | 0, _, _ => .ok ([], [])
  | n + 1, va, len =>
    if len = 0 then .ok ([], [])
    else
      let k := Nat.min len (pageLeft true va)
      let w : Who := { core := core, ctx := s.ctxOf t, kind := 0, me := .engine id }
      match s.enginePlace w (va % 2 ^ 64) k with
      | .fail e => .error (some e, w, [])
      | .wait w vas => .error (none, w, vas)
      | .at loc =>
        if s.locBad loc k then
          .error (some { code := 8, addr := va % 2 ^ 64 }, w, [])
        else match State.msgSource s t core id n (va + k) (len - k) with
          | .ok r => .ok (s.engineBytes t core s.free [] loc k ++ r.1,
              (match loc with | .mem pa => (pa, k) :: r.2 | _ => r.2))
          | .error e => .error e

/-- Read a message's source, counting its lines, and send its packets, once no earlier `.ord` message or, for `.rel`, access of its
set is in the way (R202, R319, R321). -/
def State.postMsg (s : State) (m : Msg) : State :=
  match s.team? m.team with
  | none => s
  | some t =>
    let core := t.coreNo (s.tcore t m.group)
    let send (s : State) (bs : List Byte) : State :=
      { s with
        free := s.free + 1
        msgs := lreplace (fun x => x.id == m.id) (fun x => { x with data := bs, posted := 1 }) s.msgs
        wires := s.wires ++ (List.range m.total).map (m.wire bs) }
    if s.ordWait m || s.relWait m then s
    else if m.args.kind = 2 then send s []
    else if m.args.srcS then
      if s.locBad (.scr t.id m.args.src) m.args.len then s.failMsg m { code := 8, addr := m.args.src }
      else send s (s.engineBytes t core s.free [] (.scr t.id m.args.src) m.args.len)
    else match s.msgSource t core m.id (m.args.len / 4096 + 2) m.args.src m.args.len with
      | .ok r => send (r.2.foldl (fun s x => s.countLines x.1 x.2) s) r.1
      | .error (some e, w, _) => ((s.takeEnds w e.addr).failMsg m e)
      | .error (none, w, vas) => s.addWalks w vas

/-- Messages whose source has not been read try again. -/
def State.retryMsgs (s : State) : State :=
  (s.msgs.filter fun m => m.posted == 0).foldl (fun s m => s.postMsg m) s

/-- Post a message; a handle that died since the word fails it (R319). -/
def State.issueSend (s : State) (t : Team) (g : Group) (h : Held) (a : MsgArgs) : State :=
  let f := s.fresh
  let m : Msg := ⟨f.1, t.id, g.index, h.lanes, h.pc, h.lanes.headD 0, a, [], s.nt.packets a.len, s.nt.pay, [], [], 0, false, s.clk⟩
  let s1 := ({ f.2 with msgs := f.2.msgs ++ [m] }).sigAdd t.id g.index a.sig 1
  let e := s1.ep a.ep
  if e.state = 3 ∧ e.gen.toNat = a.gen then s1.failMsg m { code := 16, detail := 2 }
  else if e.gen.toNat ≠ a.gen ∨ ¬ (e.state = 1 ∨ e.state = 2) then s1.failMsg m { code := 16, detail := 4 }
  else s1.postMsg m

/-! ### Performing a run's acts -/

/-- A bank switched (R225, R240). A tile for which a fill is queued keeps its PEND, whatever the bank is meanwhile (R227). -/
def Team.switchBank (t : Team) (core bank mode : Nat) : Team :=
  let key := 32 * core + bank
  let lo := core * 8388608 + bank * 262144
  let inBank (k : Nat) : Bool := decide (lo ≤ k) && decide (k < lo + 262144)
  { t with
    released := if mode = 0 then sinsert key t.released else t.released.filter (· != key)
    scr := akeep (fun k => !inBank k) t.scr
    bad := t.bad.filter fun k => !inBank k
    unf := t.unf.filter fun e => !inBank (t.scrKey e.2.1)
    tags := t.tags.filterMap fun e =>
      if !inBank (512 * e.1) then some e else if e.2.pend then some (e.1, { tag0 with pend := true }) else none }

/-- A held switch performed: the bank opens to arrivals again, unless another open run closed it too, and changes its mode if it
is not yet in the mode asked for (R225, R240). -/
def Team.commitBank (t : Team) (core bank mode : Nat) : Team :=
  let t1 : Team := if mode = 0 then { t with closed := t.closed.erase (32 * core + bank) } else t
  if t1.released.contains (32 * core + bank) == (mode == 0) then t1 else t1.switchBank core bank mode

/-- `acclr` of a tile: every element +0 and its flags clear. R275 says so of `acclr`, and R39 that no word but `acflg` clears a
tile's flag; the model follows R275, the rule of the word itself. (DESIGN CHOICE, log entry 59) -/
def Nest.acclr (n : Nest) (tile : Nat) : Nest :=
  let m := n.clearTile tile
  { m with flags := aset 0 m.flags tile 0 }

/-- Drain what a core's buffer must perform before an atomic: its lines, or all of it before a release (R299). -/
def State.drainAtom (s : State) (core : Nat) (parts : List AtomLane) (rel : Bool) : State :=
  let lines := parts.filterMap fun p => match p.loc with | .mem pa => some (pa / 128 * 128) | _ => none
  s.drainWc core fun e => rel || lines.contains e.line

/-- A store or atomic is a release at `.team` or wider: its own order says so, or it follows a `fence.rel` or `fence.ar` of its
lane, or of one of an atomic's lanes, in program order (R294). -/
def Group.releases (g : Group) (h : Held) (rel : Bool) : Bool :=
  rel || (match h.act with | .atom .. => h.lanes.any g.rels.contains | _ => g.rels.contains h.lane)

/-- Accesses awaiting other packages for the lanes of an atomic, each sent once no earlier write of the core to its line is
unacknowledged (R310). -/
def State.remoteAtoms (s : State) (t : Team) (g : Group) (h : Held) (parts : List AtomLane) (w : Nat) : State :=
  parts.zipIdx.foldl (fun s x =>
    let away : Bool := match x.1.loc with | .mem pa => paPkg pa != s.pkg | .far .. => true | .scr .. => false
    if away then
      let core := t.coreNo (s.tcore t g.index)
      { s with
        accesses := s.accesses ++
          [{ id := s.nextId, team := t.id, group := g.index, lanes := h.lanes, pc := h.pc, lane := x.1.lane, kind := 2
             loc := x.1.loc, va := 0, len := w, undo := [], sent := s.clk, part := x.1.lane, pkt := s.nextId
             core := core, queued := s.lineBusy core x.1.loc }]
        nextId := s.nextId + 1 }
    else s) s

/-- Cancel an entry of a group's copy status (R286). -/
def State.cancelCopy (s : State) (t : Team) (g : Group) (dst : Opd) (k : Nat) (lanes : List Nat) : State :=
  let live := match g.copies[k]? with | some e => e.state == 1 || e.state == 2 | none => false
  let s1 := s.onGroup t.id g.index fun x => x.putPred dst (lanes.map fun l => (l, live))
  match g.copies[k]? with
  | none => s1
  | some e =>
    match s1.cmds.find? fun c => c.id == e.cmd with
    | none => s1
    | some c =>
      if c.args.dstSp = 2 then
        -- the bytes of dropped segments are still appended, as zeros; an unread row is one dropped segment
        let swap (n : Nat) : List Nat :=
          if segPiece n = 2 ^ 22 - 1 then (List.range c.ranks.length).map fun r => segNo r (segRow n) (2 ^ 22 - 2) else [n]
        { s1 with cmds := lreplace (fun x => x.id == c.id) (fun x => { x with cancelled := true, open_ := x.open_.flatMap swap }) s1.cmds }
      else s1.settleCmd { c with cancelled := true, open_ := [] }

/-- Old bytes that engines may read after a `fence.op` of threads: of a byte that one of them stored to, none older than its last
store there (R219). The list is newest first. -/
def unfAfter (threads done : List Nat) : List (Nat × Nat × Byte) → List (Nat × Nat × Byte)
  | [] => []
  | e :: es =>
    if done.contains e.2.1 then unfAfter threads done es
    else if threads.contains e.1 then unfAfter threads (e.2.1 :: done) es
    else e :: unfAfter threads done es

/-- `fence.op` of threads of a team (R219). -/
def Team.fenceOp (t : Team) (threads : List Nat) : Team := { t with unf := unfAfter threads [] t.unf }

/-- The lanes of a set whose `ldk` has read a held byte, by the byte's physical or its virtual address: a byte held for a page under
migration has moved when its store is performed (R203, R220). -/
def TSet.sawHeld (ts : TSet) (pa va : Nat) : List Nat :=
  lanes32.filter fun l => ts.roOwn.contains (32 * pa + l) || ts.roOwn.contains (32 * (2 ^ 64 + va) + l)

/-- A held store has been performed, its bytes in the write log from an order on: the `ldk` of each lane that has read one of them
returns nothing older (R220). -/
def Group.sawOwn (g : Group) (ts : TSet) (loc : Loc) (va n order : Nat) : Group :=
  match loc with
  | .mem pa =>
    { g with roSeen := (List.range n).foldl (fun m k =>
        (ts.sawHeld (pa + k) (va + k)).foldl (fun m l =>
          let key := 32 * (pa + k) + l
          aset 0 m key (Nat.max (aget 0 m key) (order + k + 1))) m) g.roSeen }
  | _ => g

/-- One step of `qsig` at its commit: a release, and an atomic on the counter that awaits its answer where another package holds it;
a counter that cannot be stepped is charged to the set (R67, R91, R102, R308, R313, R348). -/
def State.stepHeld (s : State) (f : From) (pa va amount : Nat) (err : Bool) : State :=
  let fail (code detail : Nat) : State :=
    s.charge f.team f.group f.lanes f.pc { code := code, lane := f.lane, addr := va, detail := detail }
  if !s.fw.keySlots.getLsbD (paKey pa) then fail 7 0
  else if s.polderGone (.mem pa) then fail 15 1
  else if s.locBad (.mem pa) 8 then fail 8 0
  else
    let s1 := (s.drainAll f.core).countLines pa 8
    let s2 := (s1.stepCounter pa amount err).signed s1.wseq f.team f.group f.lane
    if paPkg pa = s.pkg then s2
    else
      let busy := s1.lineBusy f.core (.mem pa)
      let undo := (List.range 8).map fun k => (pa + k, readByte s1.mem (pa + k), readByte s2.mem (pa + k))
      { s2 with
        wires := if busy then s2.wires else s2.wires ++ storeWires undo
        accesses := s2.accesses ++
          [{ id := s2.nextId, team := f.team, group := f.group, lanes := f.lanes, pc := f.pc, lane := f.lane, kind := 1
             loc := .mem pa, va := va, len := 8, undo := undo, sent := s2.clk, part := 0, pkt := s2.nextId
             core := f.core, queued := busy }]
        nextId := s2.nextId + 1 }

/-- Perform one act of a committed run. Stores held by address have their places by then (R203). (DESIGN CHOICE, log entry 11) -/
def State.act (s : State) (c : Cur) (h : Held) : State :=
  match s.view c with
  | none => s
  | some (t, g, ts) =>
    let tc := s.tcore t g.index
    let core := t.coreNo tc
    let from_ : From := ⟨t.id, g.index, h.lanes, h.pc, h.lane, core⟩
    match h.act with
    | .store loc va bs rel =>
      let s1 := if g.releases h rel then s.drainAll core else s
      (s1.storeAt from_ loc va bs).onGroup t.id g.index fun x => x.sawOwn ts loc va bs.length s1.wseq
    | .storeVa .. => s
    | .mxset f v => s.setTeam (t.setNest tc { t.nest tc with shadow := nxSet (t.nest tc).shadow f v.toNat })
    | .tmark off full =>
      let x := t.tag off
      s.setTeam (t.setTag off (if full then { x with mask := 0xFFFF } else { x with mask := 0, ovr := false }))
    | .tbind k src soff len =>
      s.setTeam { t with windows := aset none t.windows k (if len = 0 then none else some ⟨src, soff, len, s.clk⟩) }
    | .acst tile idx bits => s.putNest t.id tc ((t.nest tc).setElem tile idx bits)
    | .acclr tile => s.putNest t.id tc ((t.nest tc).acclr tile)
    | .acflg tile fl =>
      let n := t.nest tc
      s.setTeam (t.setNest tc { n with flags := aset 0 n.flags tile (aget 0 n.flags tile &&& (15 - fl % 16)) })
    | .bank core bank mode => s.setTeam (t.commitBank core bank mode)
    | .ffcfg f first nb entry =>
      s.setTeam (t.setFifo tc f (if nb = 0 then fifo0 else ⟨true, first, nb, entry, 0, 0, 0, [], []⟩))
    | .mxab => s.abortNests t tc
    | .cpcan dst k => s.cancelCopy t g dst k h.lanes
    | .qsig loc va amount err =>
      (match loc with
        | .mem pa => s.stepHeld from_ pa va amount err
        | .scr .. => s
        | .far .. => s)
    | .atom _ _ _ typ _ parts rel =>
      (s.drainAtom core parts (g.releases h rel)).remoteAtoms t g h parts (tyBytes typ)
    | .fence kind order scope =>
      (match kind with
        | 0 =>
          if order = 2 ∨ order = 3 then
            let note (x : Group) : Group := if 1 ≤ scope then { x with rels := h.lanes.foldr sinsert x.rels } else x
            (s.drainAll core).onGroup t.id g.index note
          else s
        | 1 => (s.drainAll core).onTeam t.id fun u => u.fenceOp (ts.lanes.map (32 * g.index + ·))
        | _ => s.onGroup t.id g.index fun x => { x with roFence := ts.lanes.foldl (fun m l => aset 0 m l s.wseq) x.roFence })
    | .tpost sig isSealed rel parts => (if rel then s.drainAll core else s).issuePost t g h sig isSealed parts
    | .ttake typ dst offs =>
      let n := tyBytes typ
      let vals := offs.map fun o => (o.1, (BitVec.ofNat 64 (leNat (t.scrRead o.2 n)) : Reg))
      let vals := vals.map fun e => (e.1, if tyPacked typ then e.2 else scalarReg typ e.2.toNat)
      let t1 := offs.foldl (fun u o => u.emptyTile o.2) t
      s.setTeam (t1.setGroup (g.deliver ts.id dst vals))
    | .copy a => s.issueCopy t g h a
    | .mxgo =>
      let set := (t.nest tc).shadow
      (s.arm t tc set g.index h.lanes h.pc).sigAdd t.id g.index (some (nx set 7)) 1
    | .acred sig aD aS =>
      let f := s.fresh
      ({ f.2 with acreds := f.2.acreds ++ [(⟨f.1, t.id, g.index, h.lanes, h.pc, tc, sig, aD, aS, []⟩ : Acred)] }).sigAdd t.id g.index sig 1
    | .nsend a => (if a.rel then s.drainAll core else s).issueSend t g h a
    | .qpush =>
      let cx := s.ctxOf t
      let words := (List.range 7).map fun w => aget 0 g.recb w
      let num : Reg := (s.ctx cx).launchNo.zeroExtend 64
      let s1 := s.setTeam { t with children := t.children ++ [words ++ [num]] }
      s1.setCtx cx { s1.ctx cx with launchNo := (s1.ctx cx).launchNo + 1 }
    | .emuTemp i vals =>
      (match ts.emu with
        | none => s
        | some e =>
          let new := (vals.map fun x => (laneKey i x.1, x.2)).reverse
          let put (x : TSet) : TSet := { x with temps := new ++ x.temps, temps0 := new ++ x.temps0 }
          s.onTset (c.1, c.2.1, e.parent) put)
    | .qjoin .. => s
    | .sys .. => s
    | .barrier op b n sig dst =>
      let x := t.bar b
      let s1 := if op = 5 then
          s.onGroup t.id g.index fun y => y.deliver ts.id dst (h.lanes.map fun l => (l, x.phaseReg (32 * g.index + l)))
        else if arrives op then s.drainAll core else s
      (s1.onTeam t.id fun u => u.setBar b (x.apply op n sig g.index h.lanes)).testBar t.id b

/-- The closing act is performed by a later event, and kept until then (R78, R217). -/
def Held.stays (h : Held) : Bool := match h.act with | .atom .. | .sys .. => true | _ => false

/-- Perform held acts, oldest first, up to the first store that must wait: the state and the acts that are left, which stay
in program order behind it (R291, R293, R305). -/
def State.performActs (s : State) (c : Cur) : List Held → State × List Held
  | [] => (s, [])
  | h :: hs =>
    let r := State.performActs s c hs
    if r.2 ≠ [] then (r.1, h :: r.2)
    else match r.1.view c with
      | none => r
      | some (t, g, _) =>
        if r.1.storeWaits t g h then (r.1, [h]) else (r.1.act c h, [])

/-- A run that commits is counted in its launch's entry; a `hint 1` makes a READY entry HOT (R80, R109, R117). -/
def State.countRun (s : State) (t : Team) (hot : Bool) : State :=
  let count (e : TEntry) : TEntry :=
    { e with runs := e.runs + 1, stored := e.stored + 1, state := if hot && e.state == 1 then 2 else e.state }
  { s with tcache := match s.launch? t.launch with
      | some l => lreplace (fun e => e.id == l.entry) count s.tcache
      | none => s.tcache }

/-- The flags that runs have raised, with those of one more: kept for the sets whose runs began before (R40). -/
def Group.noteFlags (g : Group) (at_ : Nat) (fl : Flag6) : List (Nat × Flag6) :=
  (if fl = 0 then g.flRuns else (at_, fl) :: g.flRuns).filter fun e => g.tsets.any fun x => !x.fresh && decide (x.begun < e.1)

/-- The run holds a floating atomic, whose flags are the run's too: all of them are committed when it is performed (R40,
R217). -/
def TSet.floats (ts : TSet) : Bool :=
  ts.held.any fun h => match h.act with | .atom _ _ _ typ .. => typ == .f32 || typ == .f64 | _ => false

/-- A run's flags committed to its group: what its `wrsr` wrote, then what its words raised, all at one time (R40, R77). -/
def Group.commitFlags (g : Group) (write : Option Flag6) (fl : Flag6) (at_ : Nat) : Group :=
  { g with fflg := (write.getD g.fflg) ||| fl, flRuns := g.noteFlags at_ fl }

/-- The run's register overlays and flags applied to its group (R40, R77, R81, R99, R126, R141). -/
def Group.applyRun (g : Group) (ts : TSet) : Group :=
  let g1 : Group := { g.noteTemps ts.temps with
    g := applyOv marker g.g ts.gOv
    ls := applyOv 32 g.ls ts.lsOv
    seed := ts.seedOv.getD g.seed
    recb := applyOv 0 g.recb ts.recOv
    uev := ts.profOv.foldr (fun e m => aset 0 m e.1 (aget 0 m e.1 + BitVec.ofNat 64 e.2)) g.uev }
  if ts.floats then g1 else g1.commitFlags ts.flWrite ts.fl g.slotAt

/-- The set with nothing of its run left to discard; the flags of a run that holds a floating atomic wait for it (R40). -/
def TSet.settled (ts : TSet) : TSet :=
  { ts with
    undoV := [], undoP := [], gOv := [], lsOv := [], seedOv := none, recOv := [], profOv := []
    fl := if ts.floats then ts.fl else 0
    flWrite := if ts.floats then ts.flWrite else none
    got := [], got2 := [] }

/-- Perform the acts that a set holds; those behind a store that must wait stay held, and of the others a closing act that
a later event performs. -/
def State.performHeld (s : State) (c : Cur) (held : List Held) : State :=
  let r := s.performActs c held
  r.1.onTset c fun x => { x with held := if r.2 = [] then held.filter Held.stays else r.2 }

/-- Apply the overlays of a set's words and perform their acts in NX order (R51). -/
def State.performRun (s : State) (c : Cur) : State :=
  match s.view c with
  | none => s
  | some (t, g, ts) => (s.setTeam (t.setGroup ((g.applyRun ts).setTset ts.settled))).performHeld c ts.held

/-- A held act that waits for its store, or stands behind one. -/
def Held.unperformed (held : List Held) : Bool := held.any fun h => !h.stays

/-- The set waits at a barrier: a lane of it has arrived in the open phase, or the barrier is held for its gang's flip
(R250, R253). -/
def Barrier.detains (x : Barrier) (group : Nat) (lanes : List Nat) : Bool :=
  x.held || lanes.any fun l => x.arr.contains (32 * group + l)

/-- Where a committed set waits before its trailer's targets (R78, R203, R217, R250). -/
def State.postOf (s : State) (c : Cur) (acts : List Held) : Option Post :=
  match s.view c with
  | none => none
  | some (t, g, ts) =>
    let barWait (h : Held) : Option Post :=
      match h.act with
      | .barrier op b _ _ _ =>
        if (op = 2 ∨ op = 3 ∨ op = 7) ∧ (t.bar b).detains g.index h.lanes then some (.barrier b) else none
      | _ => none
    if Held.unperformed ts.held then some .stores
    else if ts.held.any (fun h => match h.act with | .atom .. => true | _ => false) then some .atomics
    else if ts.held ≠ [] then some .service
    else acts.findSome? barWait

/-- A set's held stores tried again, in order; with none left waiting the set goes on, or is gone if it runs no more
(R305). -/
def State.retryStores (s : State) (c : Cur) : State :=
  match s.view c with
  | none => s
  | some (_, _, ts) =>
    if ts.phase ≠ .post .stores then s
    else
      let s1 := s.performHeld c ts.held
      match s1.view c with
      | none => s1
      | some (_, _, ts1) =>
        if Held.unperformed ts1.held then s1
        else if ts1.dying then s1.onGroup c.1 c.2.1 fun x => { x with tsets := x.tsets.filter fun y => y.id != c.2.2 }
        else match s1.postOf c ts.held with
          | some p => s1.onTset c fun x => { x with phase := .post p }
          | none => s1.onTset c fun x => x.resume s.clk

/-- Every set that waits for such stores tries again. -/
def State.retryAllStores (s : State) : State :=
  (s.teams.flatMap fun t => t.groups.flatMap fun g => g.tsets.filterMap fun ts =>
    if ts.phase = .post .stores then some (t.id, g.index, ts.id) else none).foldl State.retryStores s

/-- The stores that an act of a run makes, for a load of the next run that was hoisted above them (R115). -/
def Held.stored (h : Held) : Option (Nat × Loc × Nat) :=
  match h.act with
  | .store loc _ bs _ => some (h.pc, loc, bs.length)
  | _ => none

/-- The mark of a set that steps: it stops, with class STOP_STEP, from its next commit on; or, where its run has committed and its
trailer has still to resolve, once it has (R330). -/
def stepMark : Nat := 26
def stepOut : Nat := 27

/-- What a set keeps of the run that it commits (R115); nothing of one that was re-executed after a rollback, for into that no load
is hoisted (R116). -/
def TSet.before_ (ts : TSet) (clk : Nat) : Before :=
  if ts.inOrder then {} else ⟨ts.start, ts.pc, ts.lanes, clk, ts.words, ts.held.filterMap Held.stored⟩

/-- Commit the run of a set that stands at its trailer and passed its waits and checks (R51, R136 step 1). -/
def State.commitRun (s : State) (c : Cur) : State :=
  match s.view c with
  | none => s
  | some (t, _, ts) =>
    let bump (g : Group) : Group := { g with runs := g.runs + 1 }
    let s1 := ((s.performRun c).countRun t ts.hot).onGroup c.1 c.2.1 bump
    let s2 := s1.onTeam t.id fun u => u.unprotect ts.prot1
    let post := s2.postOf c ts.held
    s2.onTset c fun x => { x with
      committed := true, hot := false, temps := [], temps0 := [], prot1 := x.prot, prot := [], aliases := [],
      inOrder := false, before := ts.before_ s.clk, words := [], met := [], freed := []
      stopNext := if x.stopNext = stepMark then 10 else x.stopNext
      phase := match post with | some p => .post p | none => .ready
      readyAt := s.clk }

end Sys2Proof.Machine
end

