-- ==== Sys2Proof/Machine/Loads.lean ====
section
/-!
DEFINITION. The accesses of a word over its active lanes: checks in lane order, the bytes read, and reads that other
packages answer (R197, R201, R209, R213, R214, R220, R313).
-/
namespace Sys2Proof.Machine

/-- The waiter that a thread set is. -/
def waiterOf (c : Cur) : Waiter := .set c.1 c.2.1 c.2.2

/-- Who a word's accesses are made for. -/
def State.who (s : State) (t : Team) (w : W) (kind : Nat) (multi : Bool) : Who :=
  { core := t.coreNo (s.tcore t w.grp.index), ctx := s.ctxOf t, kind := kind, multi := multi,
    me := .set t.id w.grp.index w.ts.id }

/-- One lane's accesses. -/
structure LaneAcc where
  lane  : Nat
  parts : List Part
  deriving DecidableEq, Repr

/-- What the checks of a word over its lanes give. -/
inductive Gathered where
  | ok (ls : List LaneAcc)
  | fault (e : FInfo)
  | miss (vas : List Nat)
  | mig (va : Nat)
  deriving DecidableEq, Repr

/-- A lane's checks before those of the lanes above it: every page is translated before any fault is taken; then the
lowest lane's fault stands (R197, R213). -/
def Gathered.cons (lane : Nat) (a : Acc) (rest : Gathered) : Gathered :=
  match a, rest with
  | .miss x, .miss y => .miss (x ++ y)
  | .miss x, _ => .miss x
  | _, .miss y => .miss y
  | .fault e, _ => .fault { e with lane := lane }
  | _, .fault e => .fault e
  | .mig a, _ => .mig a
  | _, .mig a => .mig a
  | .ok ps, .ok ls => .ok (⟨lane, ps⟩ :: ls)

/-- The lanes' checks in rising order. (DEDUCED, log entry 18) -/
def gather (acc : Nat → Acc) : List Nat → Gathered
  | [] => .ok []
  | l :: ls => (gather acc ls).cons l (acc l)

/-- The check of a read: an uncorrectable error in its data faults DATA (R213). Of a load of several parts, the model takes the
order of R213's steps before that of the parts: where a higher part fails its translation, that fault is reported though a lower
part has lost data. (DESIGN CHOICE, log entry 18) -/
def State.dataCheck (s : State) (a : Acc) (addr : Nat) : Acc :=
  match a with
  | .ok ps => if ps.any s.partBad then .fault { code := 8, addr := addr } else .ok ps
  | a => a

/-- The address that a word's fault record holds for a lane (R213). -/
def State.recAddr (s : State) (t : Team) (w : W) (space addr lane : Nat) : Nat :=
  if space = 2 then (s.privBase t (32 * w.grp.index + lane) + addr) % 2 ^ 64 else addr

/-- A lane's access with its checks (R213): `kind` 0 read, 1 write, 2 atomic. -/
def State.lanePlaces (s : State) (t : Team) (w : W) (kind : Nat) (multi : Bool) (space len align addr lane : Nat) : Acc :=
  let a := s.laneAccess (s.who t w kind multi) t (32 * w.grp.index + lane) space addr len align
  if kind = 1 then a else s.dataCheck a (s.recAddr t w space addr lane)

/-- The accesses of a word (R213). -/
def State.places (s : State) (t : Team) (w : W) (kind : Nat) (multi : Bool) (space len align : Nat) (addr : Nat → Nat)
    (lanes : List Nat) : Gathered :=
  gather (fun l => s.lanePlaces t w kind multi space len align (addr l) l) lanes

/-- Address of a format-I memory operand (R209). -/
def W.addrI (w : W) (x : IWord) (lane : Nat) : Nat := (w.src x.sa lane + x.imm.signExtend 64).toNat
/-- Address of a format-R memory operand (R209). -/
def W.addrR (w : W) (x : RWord) (lane : Nat) : Nat := (w.src x.sa lane).toNat

/-! ### What a word does to its thread set -/

/-- The outcome of a word: it completes, it faults, or its thread set parks at it. (DEDUCED, log entry 18) -/
inductive Eff where
  | go (s : State) (w : W)
  | err (e : FInfo)
  | wait (s : State) (w : W) (p : Park)
  deriving DecidableEq, Repr

/-- A word whose pages are missed parks (R197). (DEDUCED, log entry 18) -/
def State.missEff (s : State) (t : Team) (w : W) (kind : Nat) (multi : Bool) (vas : List Nat) : Eff :=
  .wait (s.addWalks (s.who t w kind multi) vas) w .walk

/-! ### Reading -/

/-- The parts of the lanes that other packages must answer, in order. -/
def State.remoteParts (s : State) (ls : List LaneAcc) : List (Nat × Part) :=
  ls.flatMap fun l => (l.parts.filter s.remote).map fun p => (l.lane, p)

/-- Key of byte `k` of remote part `i` among the bytes a set has received. -/
def farKey (i k : Nat) : Nat := 65536 * i + k

/-- Requests for every remote part of a read (R313). -/
def State.askFar (s : State) (t : Team) (w : W) (parts : List (Nat × Part)) : State :=
  parts.zipIdx.foldl (fun s x =>
    let p := x.1.2
    let pkg := match p.loc with | .mem pa => paPkg pa | .far k _ _ => k | .scr .. => 0
    let at_ := match p.loc with | .mem pa => pa | .far _ h off => h * 2 ^ 25 + off | .scr .. => 0
    { s with
      accesses := s.accesses ++
        [{ id := s.nextId, team := t.id, group := w.grp.index, lanes := w.act, pc := w.ts.pc, lane := x.1.1, kind := 0
           loc := p.loc, va := p.va, len := p.len, undo := [], sent := s.clk, part := x.2, pkt := s.nextId
           core := t.coreNo (s.tcore t w.grp.index) }]
      wires := s.wires ++ [.access s.nextId pkg at_]
      nextId := s.nextId + 1 }) s

/-- The bytes of a part, remote ones as the core's buffer holds them or as received (R299); `far` numbers the remote
parts. -/
def State.readPart (s : State) (core : Nat) (w : W) (far : List (Nat × Part)) (lane : Nat) (p : Part) : List Byte :=
  let own := s.partBytes core w.ts.held p
  if s.remote p then
    let i := far.idxOf (lane, p)
    (List.range p.len).map fun k =>
      match heldByte w.ts.held (p.loc.add k) (p.va + k) with
      | some b => b
      | none =>
        match s.bufByte core p.loc k with
        | some b => b
        | none => overlay (own.getD k 0) w.ts.got2 (farKey i k)
  else own

/-- A part of a word's accesses is held by a link in training (R305, R307). -/
def State.partsHeld (s : State) (t : Team) (w : W) (ls : List LaneAcc) : Bool :=
  let core := t.coreNo (s.tcore t w.grp.index)
  s.links != [] && ls.any fun l => l.parts.any fun p => s.storeHeld core p.loc p.len

/-- Count the lines a word's accesses touch (R202). -/
def State.countParts (s : State) (ls : List LaneAcc) : State :=
  ls.foldl (fun s l => l.parts.foldl (fun s p => match p.loc with | .mem pa => s.countLines pa p.len | _ => s) s) s

/-- The alias-detection entries of a load's places, unless its run re-executes in order after a rollback (R116). -/
def W.watch (w : W) (ls : List LaneAcc) : W :=
  let entries : List Alias := if w.ts.inOrder then [] else
    ls.flatMap fun l => l.parts.map fun p => ⟨w.ts.pc, l.lane, p.loc, p.len, p.va⟩
  { w with ts := { w.ts with aliases := entries ++ w.ts.aliases } }

/-- The outcome of the reads of a word: each lane's bytes, and where they were read. -/
inductive ReadRes where
  | ok (s : State) (ls : List (Nat × List Byte)) (at_ : List LaneAcc)
  | err (e : FInfo)
  | wait (s : State) (p : Park)
  deriving DecidableEq, Repr

/-- The reads of a word once its checks have passed: those of other packages are asked for, and the word completes
when they have answered. -/
def State.readGathered (s : State) (t : Team) (w : W) (ls : List LaneAcc) : ReadRes :=
  let far := s.remoteParts ls
  if far ≠ [] ∧ w.ts.got2 = [] then .wait (s.askFar t w far) (.remote s.nextId)
  else
    let core := t.coreNo (s.tcore t w.grp.index)
    .ok (s.countParts ls) (ls.map fun l => (l.lane, l.parts.flatMap fun p => s.readPart core w far l.lane p)) ls

/-- Reads of `len` bytes at an address of each lane (R213, R214). -/
def State.readLanes (s : State) (t : Team) (w : W) (space len align : Nat) (addr : Nat → Nat) (lanes : List Nat) :
    ReadRes :=
  match s.places t w 0 false space len align addr lanes with
  | .miss vas => .wait (s.addWalks (s.who t w 0 false) vas) .walk
  | .fault e => .err e
  | .mig _ => .wait s .migrating
  | .ok ls => if s.partsHeld t w ls then .wait s .link else s.readGathered t w ls

/-- A register loaded from bytes (R24, R214). -/
def loadReg (t : Typ) (bs : List Byte) : Reg := moveReg t (BitVec.ofNat 64 (leNat bs))

/-- A lane's bytes among those read. -/
def bytesOf (ls : List (Nat × List Byte)) (lane : Nat) : List Byte :=
  match ls.find? fun e => e.1 == lane with | some e => e.2 | none => []

/-- Lanes for which a load is performed: only the lowest active one for a uniform destination (R214). -/
def W.loadLanes (w : W) (dst : Opd) : List Nat := match dst with | .g _ => w.act.take 1 | _ => w.act

/-- Complete a load of one register. -/
def W.loadDst (w : W) (t : Typ) (dst : Opd) (ls : List (Nat × List Byte)) : W :=
  w.dst dst fun l => loadReg t (bytesOf ls l)

/-- The effect of a load whose bytes are given to a writer; the load is watched to its commit (R116). -/
def ReadRes.toEff (r : ReadRes) (w : W) (f : State → W → List (Nat × List Byte) → State × W) : Eff :=
  match r with
  | .err e => .err e
  | .wait s p => .wait s w p
  | .ok s ls places => let x := f s (w.watch places) ls; .go x.1 x.2

/-! ### The read-only path (R220) -/

/-- Order of the oldest write that `ldk` of a lane may fail to see. -/
def State.roFloor (s : State) (t : Team) (w : W) (lane : Nat) : Nat :=
  let old := s.wlog.foldl (fun (m : Nat) e => if s.clk > e.time + 65536 then Nat.max m (e.order + 1) else m) 0
  Nat.max old (Nat.max t.roT0 (aget 0 w.grp.roFence lane))

/-- The values a byte held since the floor, newest first, each with the order from which it stood. -/
def State.roValues (s : State) (floor pa : Nat) : List (Nat × Byte) :=
  let log := s.wlog.filter fun e => e.pa == pa && decide (floor ≤ e.order)
  -- a write of order q replaced a byte that stood from the write before it
  let rec go (cur : Byte) : List MemWrote → List (Nat × Byte)
    | [] => [(0, cur)]
    | e :: es => (e.order + 1, cur) :: go e.old es
  go (readByte s.mem pa) log

/-- A byte of `ldk`, with the order it is recorded under: a free choice among the values R220 allows. -/
def State.roByte (s : State) (t : Team) (w : W) (lane pa : Nat) : Byte × Nat :=
  let seen := aget 0 w.grp.roSeen (32 * pa + lane)
  let vals := (s.roValues (Nat.max (s.roFloor t w lane) seen) pa)
  let x := choose (Config.freePick s.free (32 * pa + lane)) (0, readByte s.mem pa) vals
  (x.2, x.1)

/-- Bytes of a local memory part through the read-only path, each with its keys and its order, which one of the set's own held
stores has only once it is performed, perhaps at another place; these come first. -/
def State.roPart (s : State) (t : Team) (w : W) (core lane : Nat) (p : Part) : List (Byte × List (Nat × Option Nat)) :=
  (List.range p.len).map fun k =>
    match heldByte w.ts.held (p.loc.add k) (p.va + k), p.loc with
    | some b, .mem pa => (b, [(32 * (pa + k) + lane, none), (32 * (2 ^ 64 + p.va + k) + lane, none)])
    | some b, _ => (b, [])
    | none, .mem pa =>
      match s.wcByte core (pa + k) with
      | some b => (b, [])
      | none => let r := s.roByte t w lane (pa + k); (r.1, [(32 * (pa + k) + lane, some r.2)])
    | none, loc => (s.locByte core loc k, [])

/-- `ldk` of the lanes (R220): local memory through the read-only path, other places as `ld` does. -/
def State.roLanes (s : State) (t : Team) (w : W) (ls : List LaneAcc) : List (Nat × List Byte) × List (Nat × Option Nat) :=
  let core := t.coreNo (s.tcore t w.grp.index)
  let far := s.remoteParts ls
  let one (l : LaneAcc) : List (Byte × List (Nat × Option Nat)) :=
    l.parts.flatMap fun p =>
      if s.remote p then (s.readPart core w far l.lane p).map fun b => (b, []) else s.roPart t w core l.lane p
  let all := ls.map fun l => (l.lane, one l)
  (all.map fun e => (e.1, e.2.map (·.1)), all.flatMap fun e => e.2.flatMap (·.2))

/-! ### Stores (R215, R203) -/

/-- The register `k` after an operand's. -/
def opdPlus (o : Opd) (k : Nat) : Opd :=
  match o with
  | .v n => .v (n + BitVec.ofNat 18 k)
  | .g n => .g (n + BitVec.ofNat 18 k)
  | .t i => .t ⟨(i.val + k) % 16, Nat.mod_lt _ (by decide)⟩
  | o => o

/-- `.rel` or `.ar` of MOD 4:3 at scope `.team` or wider, for which the write-combining buffer drains (R47, R299). -/
def relOf (m : BitVec 6) : Bool := m.getLsbD 4 && modField m 0 3 != 0

/-- Hold the stores of a word's lanes in lane order, each with its own bytes. -/
def W.holdStores (w : W) (ls : List LaneAcc) (rel : Bool) (bytes : Nat → List Byte) : W :=
  let one (w : W) (l : LaneAcc) : W :=
    (l.parts.foldl (fun (acc : W × Nat) p =>
      let h : Held := ⟨acc.1.ts.pc, w.act, .store p.loc p.va (((bytes l.lane).drop acc.2).take p.len) rel, l.lane⟩
      ({ acc.1 with ts := { acc.1.ts with held := h :: acc.1.ts.held } }, acc.2 + p.len)) (w, 0)).1
  ls.foldl one w

/-- Hold a store to a page under migration by its virtual address, one act for each 8 bytes. -/
def W.holdVa (w : W) (lane va : Nat) (bs : List Byte) (multi rel : Bool) : W :=
  (List.range ((bs.length + 7) / 8)).foldl (fun w k =>
    let h : Held := ⟨w.ts.pc, w.act, .storeVa lane (va + 8 * k) ((bs.drop (8 * k)).take 8) multi rel, lane⟩
    { w with ts := { w.ts with held := h :: w.ts.held } }) w

/-- A lane's access where a page under migration is not an end: none when it must be held by address (R203). -/
def State.storeAcc (s : State) (t : Team) (w : W) (multi : Bool) (space len align addr lane : Nat) : Acc :=
  match s.lanePlaces t w 1 multi space len align addr lane with
  | .mig _ => .ok []
  | a => a

/-- The stores of a word: checked, then held (R213, R215). -/
def State.storeLanes (s : State) (t : Team) (w : W) (space len align : Nat) (rel : Bool) (addr : Nat → Nat)
    (bytes : Nat → List Byte) : Eff :=
  match gather (fun l => s.storeAcc t w false space len align (addr l) l) w.act with
  | .miss vas => s.missEff t w 1 false vas
  | .fault e => .err e
  | .mig _ => .wait s w .migrating
  | .ok ls =>
    .go s (ls.foldl (fun w l =>
      if l.parts = [] then w.holdVa l.lane (s.recAddr t w space (addr l.lane) l.lane) (bytes l.lane) false rel
      else w.holdStores [l] rel bytes) w)

end Sys2Proof.Machine
end

