-- ==== Sys2Proof/Machine/Ops.lean ====
section
/-!
DEFINITION. The named operations shared by the meanings: issuing a word, committing a part of a run, taking a fault, and
entering and leaving an `.emu` handler (R48, R52, R59 to R61, R65, R69, R73).
-/
namespace Sys2Proof.Machine

/-! ### Issuing a word (R48) -/

/-- Write a word's window back to its group. -/
def State.putWindow (s : State) (c : Cur) (w : W) : State :=
  { s.onGroup c.1 c.2.1 fun _ => w.grp.setTset w.ts with free := Nat.max s.free w.free }

/-- The thread set stands at the next word; it has been ready since it last became so, over the words of its run (R128).
(DESIGN CHOICE, log entry 12) -/
def TSet.advance (ts : TSet) (clk : Nat) : TSet :=
  { ts with
    pc := ts.pc + 1, phase := .ready, fresh := false, got := [], got2 := []
    readyAt := if ts.phase = .ready then ts.readyAt else clk }

/-- The thread set parks at its word, which it has issued (R328). -/
def TSet.park (ts : TSet) (p : Park) : TSet := { ts with phase := .parked p, fresh := false, issued := some ts.pc }

/-- Lanes of a thread set that are active under a guard (R48). -/
def activeLanes (g : Group) (ts : TSet) (grd : BitVec 4) : List Nat :=
  ts.lanes.filter fun l => !g.exited.contains l && g.guard grd l

/-! ### The precise state (R51, R52) -/

/-- Perform the words of a run up to now as if it committed, and let the run go on from `pc`: its temporaries are
kept (R52, R60), and what the `lsync` words from there on have met and released (R149). -/
def State.partialCommit (s : State) (c : Cur) (pc : Nat) : State :=
  let s1 := s.performRun c
  match s1.view c with
  | none => s1
  | some (_, g, _) =>
    s1.onTset c fun x => { x with
      pc := pc, start := pc, mid := true, fresh := false, temps0 := x.temps, fl0 := g.fflg, words := []
      met := x.met.filter fun e => decide (pc ≤ e.1), freed := x.freed.filter fun e => decide (pc ≤ e.1) }

/-! ### Merging (R56, R125) -/

/-- Lanes of a group that have not exited. -/
def Group.live (g : Group) : List Nat := lanes32.filter fun l => !g.exited.contains l

/-- A set may merge with others at its run's start: it is ready there and not stopped. (DEDUCED, log entry 35) -/
def TSet.joinable (ts : TSet) : Bool :=
  ts.fresh && !ts.stop && (match ts.phase with | .ready => true | .conv _ => true | _ => false)

/-- The stop that awaits a set merged from two: one that is due comes before a step's (R329, R330). -/
def stopOf (a b : Nat) : Nat :=
  let due (n : Nat) : Bool := n != 0 && n != stepMark
  if due a && due b then Nat.max a b else if due a then a else if due b then b else Nat.max a b

/-- What two sets that committed the same run keep of it (R115). -/
def Before.merge (a b : Before) : Before :=
  { a with
    lanes := sunion a.lanes b.lanes, time := Nat.max a.time b.time
    words := a.words ++ b.words, stores := a.stores ++ b.stores }

/-- Two sets merged (R56, R125). A set waiting under CONV goes on waiting only if both do and lanes are missing. The merged set has
the age of the set that has been ready longer, the greater count of passes, the older promotion, and a hold only where both have
one (R128, R138); of its `lsync` words it keeps what either has met and released (R149), and it re-executes with no load hoisted
where either does (R116). (DESIGN CHOICE, log entry 12) -/
def TSet.merge (a b : TSet) (live : List Nat) (clk : Nat) : TSet :=
  let lanes := sunion a.lanes b.lanes
  let phase : Phase := match a.phase, b.phase with
    | .conv x, .conv y => if live.all lanes.contains then .ready else .conv (Nat.min x y)
    | _, _ => .ready
  { a with
    lanes := lanes, phase := phase
    readyAt := match a.phase, b.phase with
      | .ready, .ready => Nat.min a.readyAt b.readyAt
      | .ready, _ => a.readyAt
      | _, .ready => b.readyAt
      | _, _ => clk
    pass := Nat.max a.pass b.pass
    promoted := match a.promoted, b.promoted with
      | some x, some y => some (Nat.min x y)
      | some x, none => some x
      | none, y => y
    hold := match a.hold, b.hold with | some x, some y => some (Nat.min x y) | _, _ => none
    stopNext := stopOf a.stopNext b.stopNext
    met := a.met ++ b.met
    freed := a.freed ++ b.freed
    slotAt := Nat.max a.slotAt b.slotAt
    inOrder := a.inOrder || b.inOrder
    prot1 := a.prot1 ++ b.prot1
    before := if a.before.start = b.before.start ∧ a.before.last = b.before.last then a.before.merge b.before else {} }

/-- Add a set that stands at a run's start, merging it with a set that stands there (R125). -/
def Group.join (g : Group) (clk : Nat) (n : TSet) : Group :=
  if n.joinable then
    let mate (x : TSet) : Bool := x.joinable && x.pc == n.pc && x.emu == n.emu && x.id != n.id
    match g.tsets.find? mate with
    | some _ =>
      { g with tsets := (lreplace mate (fun x => x.merge n g.live clk) g.tsets).filter fun y => y.id != n.id }
    | none =>
      let n1 : TSet := match n.phase with
        | .conv _ => if g.live.all n.lanes.contains then { n with phase := .ready, readyAt := clk } else n
        | _ => n
      { g with tsets := (g.tsets.filter fun y => y.id != n.id) ++ [n1] }
  else { g with tsets := (g.tsets.filter fun y => y.id != n.id) ++ [n] }

/-- A set that stands at a run's start again, its open run discarded, merges with one that stands there (R125). -/
def State.rejoin (s : State) (c : Cur) : State :=
  match s.view c with
  | none => s
  | some (_, g, ts) => if ts.joinable then s.onGroup c.1 c.2.1 fun _ => g.join s.clk ts else s

/-- Discard a set's open run (R116, R125). -/
def State.discardRun (s : State) (c : Cur) : State :=
  match s.view c with
  | none => s
  | some (t, g, ts) => (s.setTeam (t.discard g ts s.clk)).rejoin c

/-! ### Placing stores held by address (R198, R203) -/

/-- An act of a closing instruction, which the run performs last (R50). -/
def Held.closing (h : Held) : Bool :=
  match h.act with
  | .store .. => false | .storeVa .. => false | .mxset .. => false | .tmark .. => false | .tbind .. => false
  | .acst .. => false | .acclr .. => false | .acflg .. => false | .bank .. => false | .ffcfg .. => false
  | .mxab => false | .cpcan .. => false | .qsig .. => false | .emuTemp .. => false | _ => true

/-- The act stores to a page that was under migration when its word was issued (R203). -/
def Held.byAddress (h : Held) : Bool := match h.act with | .storeVa .. => true | _ => false

/-- The set holds stores for a page under migration. They are placed before the run commits, and before an earlier part of it is
performed, so that every act is performed then, in the order of the run, or the word of the store faults with no later effect
(R51, R52, R203). (DEDUCED, log entry 61) -/
def TSet.mustPlace (ts : TSet) : Bool := ts.held.any Held.byAddress

/-- The acts of one held store once it has its place: one for each copy in rising index for `stmc` (R221); newest first. -/
def Held.placedAt (h : Held) (ps : List Part) : List Held :=
  match h.act, ps with
  | .storeVa _ va bs _ rel, p :: _ =>
    ((if p.reps = [] then [p.loc] else p.reps.map Loc.mem).map fun loc => { h with act := .store loc va bs rel }).reverse
  | _, _ => [h]

/-- Place the held stores: the acts with their places, or why the set waits. -/
def State.placeHeld (s : State) (t : Team) (w : W) : List Held → Gathered × List Held
  | [] => (.ok [], [])
  | h :: hs =>
    let r := State.placeHeld s t w hs
    match h.act with
    | .storeVa lane va bs multi _ =>
      let a := s.globalParts (s.who t w 1 multi) 2 va bs.length
      (r.1.cons lane a, (match a with | .ok ps => h.placedAt ps | _ => [h]) ++ r.2)
    | _ => (r.1, h :: r.2)

/-- Wait for the pages that held stores miss. -/
def State.walkHeld (s : State) (t : Team) (w : W) (held : List Held) : State :=
  held.foldl (fun s h => match h.act with
    | .storeVa _ va bs multi _ =>
      (match s.globalParts (s.who t w 1 multi) 2 va bs.length with
        | .miss vas => s.addWalks (s.who t w 1 multi) vas
        | _ => s)
    | _ => s) s

/-- What placing the stores of a run comes to: each has its place; the set waits; or a store's page refuses it now, and the run
is discarded to begin again, in which the word of that store meets the fault (R52, R116). -/
inductive Placing where
  | ok (s : State)
  | wait (s : State) (p : Park)
  | again (s : State)
  deriving DecidableEq, Repr

/-- Place the stores that a set holds by address (R203). (DEDUCED, log entry 61) -/
def State.placeRun (s : State) (c : Cur) : Placing :=
  match s.view c with
  | none => .ok s
  | some (t, g, ts) =>
    if !ts.mustPlace then .ok s
    else
      let w := s.window t g ts ts.lanes
      let r := s.placeHeld t w ts.held
      match r.1 with
      | .fault _ => .again (s.discardRun c)
      | .miss _ => .wait (s.walkHeld t w ts.held) .walk
      | .mig _ => .wait s .migrating
      | .ok _ => .ok (s.onTset c fun y => { y with held := r.2 })

/-- Nothing keeps the stores of a set's earlier words from being performed at once: they have their places, and no link in
training lies on their paths. The words before a stop, or before a handler is entered or left, are performed only then, so that
no later access of a lane passes its own stores (R52, R60, R291, R305). (DEDUCED, log entry 61) -/
def State.clearRun (s : State) (c : Cur) : Placing :=
  match s.placeRun c with
  | .ok s0 =>
    (match s0.view c with
      | none => .ok s0
      | some (t, g, ts) =>
        if ts.held.any (s0.storeWaits t g) then .wait s0 .link else .ok s0)
  | r => r

/-- Go on once the stores of a set have their places; until then it is parked at its word, or has begun its run again. -/
def Placing.once (c : Cur) (k : State → State) : Placing → State
  | .ok s0 => k s0
  | .wait s0 p => s0.onTset c fun y => y.park p
  | .again s0 => s0

/-- Go on once the stores of a set's earlier words can be performed; until then the set is parked at its word. -/
def State.whenClear (s : State) (c : Cur) (k : State → State) : State := Placing.once c k (s.clearRun c)

/-! ### Taking a fault (R52, R65, R69) -/

/-- Record a fault of a team. -/
def State.recordFault (s : State) (t : Team) (group tc pc : Nat) (lanes : List Nat) (e : FInfo) : State :=
  match s.launch? t.launch with
  | none => s
  | some l =>
    let c := s.ctx l.ctx
    s.setCtx l.ctx { c with
      fwait := c.fwait ++ [⟨t.index % 2 ^ 32, group, t.coreNo tc, pc, l.num.toNat, l.ctx, e, lanes, s.pidTid l⟩] }

/-- Remove a thread set that runs no more; stores it still holds for a link in training are performed first (R305). -/
def State.dropSet (s : State) (c : Cur) : State :=
  match s.view c with
  | none => s
  | some (t, g, ts) =>
    let s1 := s.setTeam ((t.unprotect ts.prot).unprotect ts.prot1)
    if ts.held = [] then
      s1.onGroup c.1 c.2.1 fun _ => { g with tsets := g.tsets.filter fun x => x.id != ts.id }
    else
      s1.onTset c fun x => { x with
        phase := .post .stores, committed := true, dying := true, prot := [], prot1 := [] }

/-- A held switch of a bank, which a run makes only at its commit (R240). -/
def Held.switches (h : Held) : Bool := match h.act with | .bank .. => true | _ => false

/-- TAKE A FAULT. The words before the faulting one are performed as if the run committed, but for a switch of a bank, which
reopens; the faulting word and every later one have no effect, the record waits for its slot, and the thread set, its launch
and its context stop as R65 gives (R52, R65, R240). A set that waits for a handler which faults goes no further: its illegal word
is never completed (R60, R61). -/
def State.takeFault (s : State) (c : Cur) (pc : Nat) (e : FInfo) : State :=
  match s.view c with
  | none => s
  | some (t, g, ts) =>
    let before (x : TSet) : TSet := { x with held := x.held.filter fun h => h.pc != pc && !h.switches }
    let s0 := (s.forget (waiterOf c)).onTeam c.1 fun u => u.reopen ts
    let s1 := (s0.onTset c before).performRun c
    let s2 := match ts.emu with | some x => (s1.dropSet c).dropSet (c.1, c.2.1, x.parent) | none => s1.dropSet c
    (s2.recordFault t g.index (s.tcore t g.index) pc ts.lanes e).faultLaunch t.launch e.code

/-- A word or trailer of the set faults, once the stores of its earlier words have their places (R52, R203).
(DEDUCED, log entry 61) -/
def State.faultAt (s : State) (c : Cur) (pc : Nat) (e : FInfo) : State :=
  Placing.once c (fun s0 => s0.takeFault c pc e) (s.placeRun c)

/-- A set that is parked inside its run faults, once the stores of its earlier words have their places; until then it stays as it is,
and so does the work whose failure it takes, which `drop` removes (R52, R203). (DEDUCED, log entry 61) -/
def State.faultParked (s : State) (c : Cur) (pc : Nat) (e : FInfo) (drop : State → State) : State :=
  match s.placeRun c with
  | .ok s0 => (drop s0).takeFault c pc e
  | .wait s0 _ => s0
  | .again s0 => drop s0

/-! ### A word -/

/-- Issue a word: with no active lane it has no effect; otherwise it completes, faults or parks (R48). -/
def liftWord (grd : BitVec 4) (eff : State → Team → W → Eff) (s : State) : Res :=
  match s.cur with
  | none => .refused .noIssuingThreadSet
  | some c =>
    match s.view c with
    | none => .refused .noIssuingThreadSet
    | some (t, g, ts) =>
      let w := s.window t g ts (activeLanes g ts grd)
      match (if w.act = [] then .go s w else eff s t w) with
      | .go s1 w1 => .next (s1.putWindow c { w1 with ts := w1.ts.advance s.clk })
      | .err e => .next (s.faultAt c ts.pc e)
      | .wait s1 w1 p => .next (s1.putWindow c { w1 with ts := w1.ts.park p })

/-- Issue a word that only reads and writes its window. -/
def regWord (grd : BitVec 4) (body : Body) (s : State) : Res :=
  liftWord grd (fun s _ w => match body w with | .ok w1 => .go s w1 | .error e => .err e) s

/-! ### Handlers (R60, R61) -/

/-- A thread set of a group at the start of a run, ready from now on (R128). (DESIGN CHOICE, log entry 12) -/
def newSet (id : Nat) (lanes : List Nat) (pc clk : Nat) : TSet where
  id := id
  lanes := lanes
  start := pc
  pc := pc
  phase := .ready
  fresh := true
  begun := 0
  mid := false
  committed := false
  temps := []
  temps0 := []
  undoV := []
  undoP := []
  gOv := []
  lsOv := []
  seedOv := none
  recOv := []
  profOv := []
  fl := 0
  flWrite := none
  fl0 := 0
  held := []
  draw := 0
  got := []
  got2 := []
  met := []
  next := []
  await := 0
  conv := false
  hot := false
  emu := none
  pass := 0
  slotAt := 0
  promoted := none
  readyAt := clk
  hold := none
  stop := false
  stopNext := 0
  resumed := none
  dying := false
  prot := []
  prot1 := []

/-- The value of an operand field of an illegal word in a lane: 0 where it names no readable source (R60). Of the banks that are
no 64-bit source the model takes: a predicate 0 or 1, a lane set its segment size, a signal its count, and 0 for a barrier,
tile, FIFO or `nx` register. (DESIGN CHOICE, log entry 35) -/
def W.rawSrc (w : W) (field : BitVec 20) (lane : Nat) : Reg :=
  match Opd.ofBits field with | some o => w.src o lane | none => 0

/-- Per-lane values of an operand field. -/
def W.rawMap (w : W) (field : BitVec 20) : AMap Reg :=
  w.act.foldl (fun m l => aset 0 m l (w.rawSrc field l)) []

/-- ENTER THE HANDLER of an illegal word: earlier words are performed, temporaries are kept, and a new thread set of
the word's active lanes begins at the handler's entry run (R60). -/
def State.enterHandler (s : State) (c : Cur) (word : Word) (w : W) (entry : Nat) : State :=
  let e : Emu :=
    { word := word, pc := w.ts.pc, parent := w.ts.id
      sa := w.rawMap (word.extractLsb' 58 20), sb := w.rawMap (word.extractLsb' 38 20)
      sc := w.rawMap (word.extractLsb' 18 20) }
  let s1 := s.partialCommit c (w.ts.pc + 1)
  s1.onGroup c.1 c.2.1 fun g =>
    let child := { newSet g.nextTs w.act entry s.clk with emu := some e, stopNext := w.ts.stopNext }
    let wait (x : TSet) : TSet := { x with phase := .inHandler child.id }
    { g with
      tsets := lreplace (fun x => x.id == w.ts.id) wait g.tsets ++ [child]
      nextTs := g.nextTs + 1 }

/-- A set of the handler that a waiting parent is served by. -/
def TSet.serves (ts : TSet) (parent : Nat) : Bool :=
  !ts.dying && (match ts.emu with | some e => e.parent == parent | none => false)

/-- Some set of the handler that a waiting parent is served by runs on. -/
def Group.serves (g : Group) (parent : Nat) : Bool := g.tsets.any fun x => x.serves parent

/-- The end of a handler's set: its run's words are performed, and once no set of the handler is left the parent resumes at the
word after the illegal word (R60). -/
def State.endHandler (s : State) (c : Cur) (e : Emu) : State :=
  let s1 := match s.view c with | some (t, _, ts) => s.countRun t ts.hot | none => s
  let s2 := (s1.performRun c).dropSet c
  s2.onGroup c.1 c.2.1 fun g =>
    let g : Group := { g with runs := g.runs + 1 }
    if g.serves e.parent then g
    else
      let wake (x : TSet) : TSet := { x with phase := .ready, readyAt := s.clk, slotAt := g.slotAt }
      { g with tsets := lreplace (fun x => x.id == e.parent) wake g.tsets }

/-- RETURN FROM THE HANDLER, once the stores of its last run can be performed (R60, R291). (DEDUCED, log entry 35) -/
def State.leaveHandler (s : State) (c : Cur) (e : Emu) : State := s.whenClear c fun s0 => s0.endHandler c e

/-- An illegal word (R59 to R61): the handler where the kernel has one and the set is in none, else ILLEGAL. -/
def State.illegal (s : State) (t : Team) (c : Cur) (word : Word) (w : W) : State :=
  match (s.kernelOf t).emu with
  | some entry =>
    if w.ts.emu.isSome then s.faultAt c w.ts.pc { code := 1, lane := w.low, detail := fieldOf word.toNat 114 13 }
    else s.whenClear c fun s0 => s0.enterHandler c word w entry
  | none => s.faultAt c w.ts.pc { code := 1, lane := w.low, detail := fieldOf word.toNat 114 13 }

end Sys2Proof.Machine
end

