-- ==== Sys2Proof/Machine/Tile.lean ====
section
/-!
DEFINITION. The meanings of the tile and bank words, class 0b100 OPC 0x000 to 0x007 (R226 to R241).
-/
namespace Sys2Proof.Machine

/-! ### Checks and touches (R226, R233, R239) -/

/-- Checks of a `.s` access of each active lane: none, or the lowest lane's fault. -/
def State.scratchCheck (s : State) (t : Team) (w : W) (len : Nat) (addr : Nat → Nat) : Option FInfo :=
  match gather (fun l => s.laneAccess (s.who t w 0 false) t (32 * w.grp.index + l) 1 (addr l) len len) w.act with
  | .fault e => some e
  | _ => none

/-- The source address that a tile's window gives for a set whose run began at `begun`. -/
def Team.windowSrc (t : Team) (begun tile : Nat) : Option Nat :=
  t.windows.findSome? fun e =>
    match e.2 with
    | some x => if x.soff ≤ tile ∧ tile < x.soff + x.len ∧ x.since < begun then some ((x.src + (tile - x.soff)) % 2 ^ 64) else none
    | none => none

/-- Touch one tile for a lane: an EMPTY tile of a bound window with no fill queued is filled (R239).
(DEDUCED, log entry 37) -/
def State.touch (s : State) (team : Nat) (w : W) (x : Nat × Nat) : State :=
  match s.team? team with
  | none => s
  | some t =>
    let tile := x.2 / 512 * 512
    let g := t.tag tile
    match t.windowSrc w.ts.begun tile with
    | none => s
    | some src =>
      if g.mask ≠ 0 ∨ g.pend then s
      else
        let f : Fill := ⟨s.nextId, team, w.grp.index, w.act, w.ts.pc, x.1, none, tile, src, s.clk⟩
        { s.setTeam (t.setTag tile { g with pend := true }) with fills := s.fills ++ [f], nextId := s.nextId + 1 }

/-- The first issue of a waiting word touches its tiles; a later issue of it, after a park, does not.
(DEDUCED, log entry 37) -/
def State.touchAll (s : State) (team : Nat) (w : W) (addr : Nat → Nat) : State :=
  if w.ts.issued = some w.ts.pc then s
  else (w.act.map fun l => (l, addr l)).foldl (fun s x => s.touch team w x) s

/-! ### Waiting and taking (R233, R234) -/

/-- The reads of a `twait` that can be made now. -/
def State.waitReads (s : State) (t : Team) (w : W) (n : Nat) (addr : Nat → Nat) (typ : Typ) : List (Nat × Reg) :=
  let core := t.coreNo (s.tcore t w.grp.index)
  w.act.filterMap fun l =>
    match w.ts.got.find? fun e => e.1 == l with
    | some e => some e
    | none =>
      if (t.tag (addr l)).full then
        some (l, loadReg typ (s.partBytes core w.ts.held { loc := .scr t.id (addr l), va := addr l, len := n }))
      else none

/-- `twait` (R233): each lane's read is made at an instant at which its tile is FULL; what becomes of the tile after a lane's
read is no matter of that lane's. -/
def execTwait (x : RWord) (s : State) : Res := liftWord x.grd (fun s t w =>
  let n := tyBytes x.typ
  let rest := w.act.filter fun l => !w.ts.got.any fun e => e.1 == l
  match s.scratchCheck t { w with act := rest } n (w.addrR x) with
  | some e => .err e
  | none =>
    let s1 := s.touchAll t.id w (w.addrR x)
    let got := s.waitReads t w n (w.addrR x) x.typ
    match rest.find? fun l => (t.tag (w.addrR x l)).full && s.locBad (.scr t.id (w.addrR x l)) n with
    | some l => .err { code := 8, lane := l, addr := w.addrR x l }
    | none =>
    if got.length = w.act.length then
      .go s1 (w.dst x.dst fun l => match got.find? fun e => e.1 == l with | some e => e.2 | none => 0)
    else .wait s1 { w with ts := { w.ts with got := got } } .tile) s

/-- `ttake` (R234): checked and touched at the word; taken at the commit. -/
def execTtake (x : RWord) (s : State) : Res := liftWord x.grd (fun s t w =>
  match s.scratchCheck t w (tyBytes x.typ) (w.addrR x) with
  | some e => .err e
  | none =>
    .go (s.touchAll t.id w (w.addrR x)) (w.hold (.ttake x.typ x.dst (w.act.map fun l => (l, w.addrR x l))))) s

/-! ### Reading and marking tags (R235, R236) -/

/-- `ttst` (R235). -/
def execTtst (x : RWord) (s : State) : Res := liftWord x.grd (fun s t w =>
  match s.scratchCheck t w 1 (w.addrR x) with
  | some e => .err e
  | none =>
    let want := match modField x.mod 0 2 with | 0 => 2 | 1 => 0 | _ => 1
    .go s (w.dstPred x.dst fun l => (t.tag (w.addrR x l)).state == want)) s

/-- The value that `tmask` reads of a tag (R235). -/
def Tag.word (g : Tag) : Nat := bitOf g.pend * 2 ^ 19 + bitOf g.ovr * 2 ^ 18 + g.state * 2 ^ 16 + g.mask.toNat

/-- `tmask` (R235). -/
def execTmask (x : RWord) (s : State) : Res := liftWord x.grd (fun s t w =>
  if x.mod.getLsbD 0 then .go s (w.dst x.dst fun _ => BitVec.ofNat 64 (t.ovc % 2 ^ 32 + t.ovlast % 2 ^ 25 * 2 ^ 32))
  else match s.scratchCheck t w 1 (w.addrR x) with
    | some e => .err e
    | none => .go s (w.dst x.dst fun l => BitVec.ofNat 64 (t.tag (w.addrR x l)).word)) s

/-- `tmark` (R236): one act for each lane, performed at the commit. -/
def execTmark (x : RWord) (s : State) : Res := liftWord x.grd (fun s t w =>
  match s.scratchCheck t w 1 (w.addrR x) with
  | some e => .err e
  | none => .go s (w.act.foldl (fun v l => v.hold (.tmark (w.addrR x l / 512 * 512) (x.mod.getLsbD 0))) w)) s

/-! ### Posting (R231) -/

/-- The destination of a fragment before alignment is known: its place, or its fault with a mark for the bank case.
(DEDUCED, log entry 33) -/
def State.postDst (s : State) (t : Team) (w : W) (isS : Bool) (dst : Nat) : Except FInfo (Loc × Bool) :=
  if isS then
    if (s.kernelOf t).scratch < dst + 512 then .error { code := 3, addr := dst } else .ok (.scr t.id dst, t.inCache dst)
  else match vaClass dst with
    | .aperture .. =>
      match s.aperture (s.who t w 1 false) dst 1 with
      | .fault e => if e.code = 3 ∧ e.detail = 1 then .ok (.scr t.id e.addr, true) else .error e
      | .ok (p :: _) => .ok (p.loc, false)
      | _ => .error { code := 3, addr := dst }
    | _ => .error { code := 3, addr := dst }

/-- One lane's fragment with its checks in the order of R231. -/
def State.postLane (s : State) (t : Team) (w : W) (x : RWord) (lane : Nat) : Except FInfo PostLane :=
  let dst := (w.src x.sa lane).toNat
  let src := (w.src x.sb lane).toNat
  let mask := fieldOf (w.src x.sc lane).toNat 0 16
  match s.postDst t w (fieldOf x.aux.toNat 0 2 == 1) dst with
  | .error e => .error e
  | .ok (loc, cached) =>
    if dst % 512 ≠ 0 then .error { code := 6, addr := dst }
    else if src % 512 ≠ 0 then .error { code := 6, addr := src }
    else if (s.kernelOf t).scratch < src + 512 then .error { code := 3, addr := src }
    else if cached then .error { code := 3, detail := 1, addr := (match loc with | .scr _ o => o | _ => dst) }
    else if t.inCache src then .error { code := 3, detail := 1, addr := src }
    else if mask = 0 ∧ !x.mod.getLsbD 5 then .error { code := 11, detail := 2 }
    else .ok ⟨lane, loc, src, mask⟩

/-- The fragments of the lanes, or the lowest failing lane's fault. -/
def State.postLanes (s : State) (t : Team) (w : W) (x : RWord) : List Nat → Except FInfo (List PostLane)
  | [] => .ok []
  | l :: ls =>
    match s.postLane t w x l with
    | .error e => .error { e with lane := l }
    | .ok p => match State.postLanes s t w x ls with | .error e => .error e | .ok ps => .ok (p :: ps)

/-- The signal a destination operand names; none for `z`. -/
def sigOpd (o : Opd) : Option Nat := match o with | .s i => some i.val | _ => none

/-- `tpost` (R231): checked at the word; the fragments are sent at the commit. -/
def execTpost (x : RWord) (s : State) : Res := liftWord x.grd (fun s t w =>
  match s.postLanes t w x w.act with
  | .error e => .err e
  | .ok ps => .go s (w.hold (.tpost (sigOpd x.dst) (x.mod.getLsbD 5) (relOf x.mod) ps))) s

/-! ### Windows (R237) -/

/-- The range overlaps another bound window or the probe table. -/
def State.windowClash (s : State) (t : Team) (k soff len : Nat) : Bool :=
  let p := s.kernelOf t
  let meets (a n : Nat) : Bool := decide (soff < a + n) && decide (a < soff + len) && len != 0
  meets (p.scratch - 512 * p.probe) (512 * p.probe) ||
  t.windows.any fun e => e.1 != k && (match e.2 with | some x => meets x.soff x.len | none => false)

/-- `tbind` (R237). (DEDUCED, log entry 39) -/
def execTbind (x : RWord) (s : State) : Res := liftWord x.grd (fun s t w =>
  let src := (w.srcLow x.sa).toNat
  let soff := (w.srcLow x.sb).toNat
  let len := (w.srcLow x.sc).toNat
  let k := fieldOf x.aux.toNat 0 4
  let bad (v : Nat) : Bool := v % 512 != 0
  if bad soff || bad len || bad src then
    .err { code := 6, lane := w.low, addr := if bad soff then soff else if bad len then len else src }
  else if (s.kernelOf t).scratch < soff + len then .err { code := 3, lane := w.low, addr := soff }
  else if s.windowClash t k soff len then .err { code := 11, lane := w.low, detail := 3 }
  else .go s (w.hold (.tbind k src soff len))) s

/-! ### Switching banks (R225, R240) -/

/-- The mode the plan gives a bank: 1 SCRATCH, 2 FIFO. -/
def Team.planMode (t : Team) (core bank : Nat) : Option Nat :=
  (t.plan.find? fun e => e.core == core && e.bank == bank).map fun e => e.kind + 1

/-- A tile of the bank is not EMPTY. -/
def Team.bankBusy (t : Team) (core bank : Nat) : Bool :=
  let lo := bankKey core bank 0 / 512
  t.tags.any fun e => decide (lo ≤ e.1) && decide (e.1 < lo + 512) && e.2.mask != 0

/-- A configured FIFO of a core lies over the bank. -/
def Team.fifoOver (t : Team) (core bank : Nat) : Bool :=
  (List.range 8).any fun f =>
    let y := t.fifo core f
    y.conf && decide (y.first ≤ bank) && decide (bank < y.first + y.nb)

/-- `bank` (R240). (DEDUCED, log entry 39) -/
def execBank (x : RWord) (s : State) : Res := liftWord x.grd (fun s t w =>
  let core := (w.srcLow x.sa).toNat
  let bank := (w.srcLow x.sb).toNat
  let mode := modField x.mod 0 2
  let done := w.dstPred x.dst fun _ => true
  let engine (d : Nat) : Eff := .err { code := 11, lane := w.low, detail := d }
  match t.planMode core bank with
  | none => engine 6
  | some own =>
    if mode ≠ 0 ∧ mode ≠ own then engine 6
    else
      let now := if t.released.contains (32 * core + bank) then 0 else own
      if mode = now then .go s done
      else if now = 0 then .go s (done.hold (.bank core bank mode))
      else if own = 1 ∧ t.bankBusy core bank then engine 4
      else if own = 2 ∧ t.fifoOver core bank then engine 5
      else .go (s.setTeam { t with closed := (32 * core + bank) :: t.closed }) (done.hold (.bank core bank mode))) s

end Sys2Proof.Machine
end

