-- ==== Sys2Proof/Machine/BarrierWords.lean ====
section
/-!
DEFINITION. The meanings of the barrier words, class 0b101 OPC 0x100 to 0x107 (R242 to R254). Each is checked and
performed at its run's commit (`Barrier.check`, `Barrier.apply`).
-/
namespace Sys2Proof.Machine

/-- Barrier number of an operand. -/
def barNo (o : Opd) : Nat := match o with | .b i => i.val | _ => 0

/-- A barrier word held to the commit. -/
def barHold (x : RWord) (op : Nat) (n : W → Nat) (sig : Option Nat) (dst : Opd) (s : State) : Res :=
  liftWord x.grd (fun s _ w => .go s (w.hold (.barrier op (barNo x.sa) (n w) sig dst))) s

/-- `binit` (R249). -/
def execBinit (x : RWord) (s : State) : Res := barHold x 0 (fun w => (w.srcLow x.sb).toNat) none .z s
/-- `barr` (R250). -/
def execBarr (x : RWord) (s : State) : Res := barHold x 1 (fun _ => 0) none .z s
/-- `bwait` (R250). -/
def execBwait (x : RWord) (s : State) : Res := barHold x 2 (fun _ => 0) none .z s
/-- `bsync` (R250). -/
def execBsync (x : RWord) (s : State) : Res := barHold x 3 (fun _ => 0) none .z s
/-- `bdrop` (R250). -/
def execBdrop (x : RWord) (s : State) : Res := barHold x 4 (fun _ => 0) none .z s
/-- `bphase` (R251). -/
def execBphase (x : RWord) (s : State) : Res := barHold x 5 (fun _ => 0) none x.dst s
/-- `barm` (R252). -/
def execBarm (x : RWord) (s : State) : Res := barHold x 6 (fun w => (w.srcLow x.sc).toNat) (sigOpd x.sb) .z s

/-- `gbar` (R253): a kernel without a gang faults ENGINE 10. -/
def execGbar (x : RWord) (s : State) : Res := liftWord x.grd (fun s t w =>
  if (s.kernelOf t).gang = 0 then .err { code := 11, lane := w.low, detail := 10 }
  else .go s (w.hold (.barrier 7 (barNo x.sa) 0 none .z))) s

end Sys2Proof.Machine
end

