-- ==== Sys2Proof/Machine/Copy.lean ====
section
/-!
DEFINITION. The meanings of the copy, FIFO and signal words, class 0b100 OPC 0x100 to 0x107 (R279 to R289).
-/
namespace Sys2Proof.Machine

/-! ### Copy commands (R282, R283) -/

/-- A copy word's operands, from the lowest active lane; `kind` 0 `cp`, 1 `cp.d2`, 2 `cpgat`, 3 `cpmc`. -/
def W.copyArgs (w : W) (x : RWord) (kind : Nat) : CopyArgs :=
  let reg (k : Nat) : Nat := (w.srcLow (opdPlus x.sc k)).toNat
  let shape := reg 0
  let row := kind = 1 ∨ kind = 2
  { kind := kind
    sig := sigOpd x.dst
    srcS := cpSrc x.aux == 1
    dstSp := cpDst x.aux
    src := (w.srcLow x.sa).toNat
    dst := match x.sb with | .f i => i.val | o => (w.srcLow o).toNat
    width := if row then fieldOf shape 0 32 else shape
    rows := if row then fieldOf shape 32 32 else 1
    sstr := if kind = 1 then signedOf 64 (reg 1) else if kind = 2 then (reg 2 : Int) else 0
    dstr := if kind = 1 then signedOf 64 (reg 2) else 0
    table := if kind = 2 then reg 1 else 0
    mask := if kind = 3 then fieldOf (reg 1) 0 16 else 0 }

/-- Step 1 of R283: the shape is within the ranges of R282. -/
def CopyArgs.shapeOk (a : CopyArgs) : Bool :=
  if a.kind = 1 ∨ a.kind = 2 then decide (1 ≤ a.width) && decide (a.width ≤ 2 ^ 24) && decide (1 ≤ a.rows) && decide (a.rows ≤ 65536)
  else decide (1 ≤ a.width) && decide (a.width ≤ 2 ^ 32)

/-- The first scratch row beyond SCRATCH, source before destination (step 3). -/
def CopyArgs.badScratch (a : CopyArgs) (scratch : Nat) : Option Nat :=
  let bad (v : Nat) : Option Nat := if scratch < v + a.width then some v else none
  let src := if a.srcS && a.kind != 2 then (List.range a.rows).findSome? fun r => bad (a.rowSrc r 0) else none
  match src with
  | some v => some v
  | none => if a.dstSp = 1 then (List.range a.rows).findSome? fun r => bad (a.rowDst r) else none

/-- The FIFOs a command delivers to, for its checks: that of a team that has retired is UNCONFIGURED (R287). -/
def State.fifoTargets (s : State) (t : Team) (tc : Nat) (a : CopyArgs) : List Fifo :=
  (s.copyRanks t tc a).map fun r => match s.team? r.1 with | some u => u.fifo r.2 a.dst | none => fifo0

/-- The mask of a `cpmc` is nonzero, names ranks below GANG, and one rank of a team at most (step 7). -/
def maskOk (k : Kernel) (mask : Nat) : Bool :=
  let ranks := (List.range 16).filter mask.testBit
  let teams := ranks.map fun r => r / Nat.max k.cores 1
  ranks != [] && ranks.all (fun r => decide (r < k.gang)) && teams.all fun x => teams.count x == 1

/-- The first failing check of R283. -/
def State.copyCheck (s : State) (t : Team) (tc : Nat) (a : CopyArgs) : Option FInfo :=
  let k := s.kernelOf t
  let engine (d : Nat) : Option FInfo := some { code := 11, detail := d }
  let fifos := s.fifoTargets t tc a
  if !a.shapeOk then engine 14
  else if a.kind = 2 ∧ a.table % 4 ≠ 0 then some { code := 6, addr := a.table }
  else match a.badScratch k.scratch with
  | some v => some { code := 3, addr := v }
  | none =>
    if a.dstSp = 2 ∧ fifos.any (fun f => !f.conf) then engine 15
    else if a.dstSp = 2 ∧ fifos.any (fun f => a.width * a.rows % f.entryBytes != 0) then engine 17
    else if a.kind = 3 ∧ k.gang = 0 then engine 10
    else if a.kind = 3 ∧ !maskOk k a.mask then engine 19
    else none

/-- A copy word: checked, then held to the commit. -/
def State.copyWord (s : State) (t : Team) (w : W) (x : RWord) (kind : Nat) : Eff :=
  let a := w.copyArgs x kind
  match s.copyCheck t (s.tcore t w.grp.index) a with
  | some e => .err { e with lane := w.low }
  | none => .go s (w.hold (.copy a))

/-- `cp` (R282 to R286). -/
def execCp (x : RWord) (s : State) : Res :=
  liftWord x.grd (fun s t w => s.copyWord t w x (if x.mod.getLsbD 0 then 1 else 0)) s
/-- `cpmc` (R282 to R286). -/
def execCpmc (x : RWord) (s : State) : Res := liftWord x.grd (fun s t w => s.copyWord t w x 3) s
/-- `cpgat` (R282 to R286). -/
def execCpgat (x : RWord) (s : State) : Res := liftWord x.grd (fun s t w => s.copyWord t w x 2) s

/-! ### Status and cancellation (R286) -/

/-- The status word of an entry. -/
def CopyStat.word (e : CopyStat) : Nat := e.bytes * 2 ^ 16 + e.code * 256 + e.state

/-- `cpst` (R286). -/
def execCpst (x : RWord) (s : State) : Res := liftWord x.grd (fun s _ w =>
  let v := match w.grp.copies[(w.srcLow x.sa).toNat]? with | some e => e.word | none => 0
  .go s (w.dst x.dst fun _ => BitVec.ofNat 64 v)) s

/-- `cpcan` (R286): acts at the commit. -/
def execCpcan (x : RWord) (s : State) : Res := liftWord x.grd (fun s _ w =>
  .go s (w.hold (.cpcan x.dst (w.srcLow x.sa).toNat))) s

/-! ### FIFOs (R287 to R289) -/

/-- FIFO number of an operand. -/
def fifoNo (o : Opd) : Nat := match o with | .f i => i.val | _ => 0

/-- The banks of a configuration are FIFO banks of the plan, held in FIFO mode, and in no other configured FIFO. -/
def Team.fifoBanksOk (t : Team) (core f first nb : Nat) : Bool :=
  decide (nb ≤ 8) && decide (first + nb ≤ 32) && (List.range nb).all fun k =>
    let b := first + k
    t.planMode core b == some 2 && !t.released.contains (32 * core + b) &&
    (List.range 8).all fun j =>
      let y := t.fifo core j
      j == f || !(y.conf && decide (y.first ≤ b) && decide (b < y.first + y.nb))

/-- The FIFO is named by an ARMED or RUNNING nest of the core, or a command into it has not ended. -/
def State.fifoInUse (s : State) (t : Team) (core f : Nat) : Bool :=
  let n := t.nest core
  let names (a : Option Active) : Bool := match a with | some a => (nxStreams a.set).any fun x => x.fifo == f | none => false
  names n.armed || names n.active ||
    s.cmds.any fun c => c.args.dstSp == 2 && c.args.dst == f && c.ranks.contains (t.id, core)

/-- `ffcfg` (R287). -/
def execFfcfg (x : RWord) (s : State) : Res := liftWord x.grd (fun s t w =>
  let f := fifoNo x.sa
  let c := (w.srcLow x.sb).toNat
  let nb := fieldOf c 5 4
  let core := s.tcore t w.grp.index
  if nb ≠ 0 ∧ !t.fifoBanksOk core f (fieldOf c 0 5) nb then .err { code := 11, lane := w.low, detail := 18 }
  else if s.fifoInUse t core f then .err { code := 11, lane := w.low, detail := 16 }
  else .go s (w.hold (.ffcfg f (fieldOf c 0 5) nb (fieldOf c 9 2)))) s

/-- The FIFOs of a core at the read positions from which its running nest reads on (R265). -/
def Team.asRead (t : Team) (core : Nat) : Team := match (t.nest core).active with | none => t | some a => t.rewound core a

/-- The array is stalled on a FIFO: the running nest needs bytes of it that are not there (R288). -/
def Team.stalledOn (t : Team) (core f : Nat) : Bool :=
  match (t.nest core).active with
  | none => false
  | some a => (nxStreams a.set).any fun x => x.fifo == f && !((t.asRead core).fifo core f).readable x.bytes

/-- The status word of a FIFO (R289). -/
def Team.fifoWord (t : Team) (core f : Nat) : Nat :=
  let y := (t.asRead core).fifo core f
  y.entry * 2 ^ 46 + bitOf y.conf * 2 ^ 45 + bitOf (t.stalledOn core f) * 2 ^ 44 + y.room * 2 ^ 22 + (y.wr - y.rd)

/-- `ffst` (R289). -/
def execFfst (x : RWord) (s : State) : Res := liftWord x.grd (fun s t w =>
  .go s (w.dst x.dst fun _ => BitVec.ofNat 64 (t.fifoWord (s.tcore t w.grp.index) (fifoNo x.sa)))) s

/-! ### Signals (R280) -/

/-- `sigt` (R280). -/
def execSigt (x : RWord) (s : State) : Res := liftWord x.grd (fun s _ w =>
  let n := w.srcLow x.sa
  if x.mod.getLsbD 0 then .go s (w.dstPred x.dst fun _ => n == 0) else .go s (w.dst x.dst fun _ => n)) s

end Sys2Proof.Machine
end

