-- ==== Sys2Proof/Machine/Trailers.lean ====
section
/-!
DEFINITION. Trailers: commit, targets and call stacks, the AWAIT test, and regrouping (R53 to R56, R125, R134, R136 to
R140).
-/
namespace Sys2Proof.Machine

/-! ### Fields of a word of the text (R46, R50) -/

/-- Class and opcode of the closing instructions (R50). -/
def closingOp (cls opc : Nat) : Bool :=
  match cls with
  | 2 => [0x005, 0x006, 0x007, 0x008, 0x00C].contains opc
  | 4 => [0x000, 0x002, 0x100, 0x101, 0x102, 0x202, 0x208, 0x300].contains opc
  | 5 => [0x003, 0x004, 0x009, 0x100, 0x101, 0x102, 0x103, 0x104, 0x105, 0x106, 0x107, 0x201, 0x202].contains opc
  | _ => false

/-- Class of a word (R46). -/
def Word.cls (w : Word) : Nat := fieldOf w.toNat 124 3
/-- Opcode of a word (R46). -/
def Word.opc (w : Word) : Nat := fieldOf w.toNat 114 10

/-! ### Targets (R137, R139) -/

/-- A word index that starts a run (R49, R139). -/
def Kernel.runStart (k : Kernel) (pc : Nat) : Bool :=
  decide (pc < k.text.length) && (pc == 0 || (match k.text[pc - 1]? with | some w => isTrailerWord w | none => false))

/-- A signed offset from a trailer (R53). -/
def targetOf (pc : Nat) (tgt : BitVec 32) : Nat := (((pc : Int) + tgt.toInt) % 2 ^ 64).toNat

/-- A lane's move at a trailer: next PC plus one (0 for an exit), depth, the on-chip entries, and an entry to store. -/
structure Move where
  lane  : Nat
  next  : Nat
  depth : Nat
  stk   : List Nat
  put   : Option (Loc × Nat × Nat)   -- place, virtual address and value of a private entry
  deriving DecidableEq, Repr

/-- What a lane's move comes to. -/
inductive MoveRes where
  | ok (m : Move)
  | fault (e : FInfo)
  | miss (kind : Nat) (vas : List Nat)
  | mig
  deriving DecidableEq, Repr

/-- A private call-stack entry's place (R140): `kind` 0 to read it, 1 to write it. (DESIGN CHOICE, log entry 15) -/
def State.entryPlace (s : State) (t : Team) (w : W) (kind d lane : Nat) : Acc :=
  s.lanePlaces t w kind false 2 8 8 ((s.kernelOf t).priv - 8 * (d - 4)) lane

/-- A push of a return index (R140). -/
def State.pushMove (s : State) (t : Team) (w : W) (lane next ret : Nat) : MoveRes :=
  let d := aget 0 w.grp.depth lane + 1
  let stk := aget [] w.grp.stk lane
  if d ≤ 4 then .ok ⟨lane, next + 1, d, stk ++ [ret], none⟩
  else if (s.kernelOf t).priv < 8 * (d - 4) then .fault { code := 10, lane := lane, detail := 1 }
  else match s.entryPlace t w 1 d lane with
    | .fault e => .fault { e with lane := lane }
    | .miss vas => .miss 1 vas
    | .mig _ => .mig
    | .ok (p :: _) => .ok ⟨lane, next + 1, d, stk, some (p.loc, p.va, ret)⟩
    | .ok [] => .mig

/-- The places of a lane's private entry that a `ret` pops, once they are translated (R140). -/
def State.popParts (s : State) (t : Team) (w : W) (lane : Nat) : List Part :=
  let d := aget 0 w.grp.depth lane
  if d ≤ 4 then [] else match s.entryPlace t w 0 d lane with | .ok ps => ps | _ => []

/-- The entries of a `ret`, lane by lane. -/
def State.popAccs (s : State) (t : Team) (w : W) : List LaneAcc := w.ts.lanes.map fun l => ⟨l, s.popParts t w l⟩

/-- A pop (R140). -/
def State.popMove (s : State) (t : Team) (w : W) (lane : Nat) : MoveRes :=
  let d := aget 0 w.grp.depth lane
  let stk := aget [] w.grp.stk lane
  let check (v : Nat) (rest : List Nat) : MoveRes :=
    if (s.kernelOf t).runStart v then .ok ⟨lane, v + 1, d - 1, rest, none⟩
    else .fault { code := 10, lane := lane, detail := 3, addr := v }
  if d = 0 then .fault { code := 10, lane := lane, detail := 2 }
  else if d ≤ 4 then check (stk.getD (d - 1) 0) (stk.take (d - 1))
  else match s.entryPlace t w 0 d lane with
    | .fault e => .fault { e with lane := lane }
    | .miss vas => .miss 0 vas
    | .mig _ => .mig
    | .ok ps =>
      let far := s.remoteParts (s.popAccs t w)
      check (leNat (ps.flatMap fun p => s.readPart (t.coreNo (s.tcore t w.grp.index)) w far lane p)) stk

/-- A lane's move by trailer kind (R54, R137). -/
def State.laneMove (s : State) (t : Team) (w : W) (kind : Nat) (x : TWord) (lane : Nat) : MoveRes :=
  let pc := w.ts.pc
  let stay (next : Nat) : MoveRes := .ok ⟨lane, next, aget 0 w.grp.depth lane, aget [] w.grp.stk lane, none⟩
  let reg := (w.src x.reg lane).toNat
  let bad : MoveRes := .fault { code := 3, lane := lane, addr := reg }
  match kind with
  | 1 => stay (targetOf pc x.tgt + 1)
  | 2 => stay ((if w.grp.guard x.grd lane then targetOf pc x.tgt else pc + 1) + 1)
  | 3 => if (s.kernelOf t).runStart reg then stay (reg + 1) else bad
  | 4 => s.pushMove t w lane (targetOf pc x.tgt) (pc + 1)
  | 5 => if (s.kernelOf t).runStart reg then s.pushMove t w lane reg (pc + 1) else bad
  | 6 => s.popMove t w lane
  | 7 => .ok ⟨lane, 0, 0, [], none⟩
  | _ => stay (pc + 2)

/-- What the moves of all lanes come to. -/
inductive MovesRes where
  | ok (ms : List Move)
  | fault (e : FInfo)
  | miss (vas : List (Nat × Nat))     -- kind and address
  | mig
  deriving DecidableEq, Repr

/-- A lane's move before those of the lanes above it: pages first, then the lowest lane's fault (R140, R197). -/
def MovesRes.cons : MoveRes → MovesRes → MovesRes
  | .miss k x, .miss y => .miss ((x.map fun v => (k, v)) ++ y)
  | .miss k x, _ => .miss (x.map fun v => (k, v))
  | _, .miss y => .miss y
  | .fault e, _ => .fault e
  | _, .fault e => .fault e
  | .mig, _ => .mig
  | _, .mig => .mig
  | .ok m, .ok ms => .ok (m :: ms)

/-- The moves of a trailer's lanes (R136 step 2). -/
def State.moves (s : State) (t : Team) (w : W) (kind : Nat) (x : TWord) : MovesRes :=
  w.ts.lanes.foldr (fun l acc => acc.cons (s.laneMove t w kind x l)) (.ok [])
where
  /-- Flipped for the fold. -/
  cons (acc : MovesRes) (m : MoveRes) : MovesRes := MovesRes.cons m acc

/-! ### Regrouping (R125, R134) -/

/-- Lanes that exit leave the group's sets: the parent of a handler among them. A set with no lane left is gone. -/
def Group.exitLanes (g : Group) (lanes : List Nat) : Group :=
  let exited := sunion lanes g.exited
  let cut (x : TSet) : TSet := { x with lanes := x.lanes.filter fun l => !exited.contains l }
  { g with exited := exited, tsets := (g.tsets.map cut).filter fun x => x.lanes != [] || x.dying }

/-- A parent whose handler's lanes have all exited goes on with those it has left (R60). -/
def Group.wakeParents (g : Group) (clk : Nat) : Group :=
  let wake (x : TSet) : TSet := match x.phase with
    | .inHandler _ => if g.serves x.id then x else { x with phase := .ready, readyAt := clk }
    | _ => x
  { g with tsets := g.tsets.map wake }

/-- The sets a thread set divides into: its next PCs in rising order with their lanes (R125). -/
def TSet.branches (ts : TSet) : List (Nat × List Nat) :=
  let pcs := (ts.lanes.filterMap fun l => let n := aget 0 ts.next l; if n = 0 then none else some (n - 1)).foldr sinsert []
  pcs.map fun p => (p, ts.lanes.filter fun l => aget 0 ts.next l == p + 1)

/-- The set that goes on with some of a set's lanes at a run's start. The hold of a `yield` lasts 64 issue cycles after the one in
which it begins, through later trailers of the set (R138); the slot that the trailer took is the set's (R128, R333), and
what its lanes have written up to now is its own (R116). -/
def TSet.child (ts : TSet) (id : Nat) (lanes : List Nat) (pc clk : Nat) (conv yielded : Bool) : TSet :=
  { newSet id lanes pc clk with
    emu := ts.emu, stop := ts.stop, stopNext := ts.stopNext, prot1 := ts.prot1, before := { ts.before with time := clk }
    hold := if yielded then some 64 else ts.hold
    slotAt := ts.slotAt
    phase := if conv then .conv clk else .ready }

/-- An identifier that no set of the group has, nor has had. -/
def Group.freshId (g : Group) : Nat := g.tsets.foldl (fun n x => Nat.max n (x.id + 1)) g.nextTs

/-- Regroup a set whose trailer has resolved and whose AWAIT test has passed (R136 step 5). -/
def Group.regroup (g : Group) (ts : TSet) (clk : Nat) (yielded : Bool) (isTaken : Nat → Bool) : Group :=
  let out := ts.lanes.filter fun l => aget 0 ts.next l == 0
  let g1 := ({ g with tsets := g.tsets.filter fun x => x.id != ts.id }).exitLanes out
  (ts.branches.foldl (fun (acc : Group × Nat) b =>
    (acc.1.join clk (ts.child acc.2 b.2 b.1 clk (ts.conv && isTaken b.1) yielded), acc.2 + 1))
    ({ g1 with nextTs := g1.freshId + ts.branches.length }, g1.freshId)).1.wakeParents clk

/-- Every signal that AWAIT names reads zero (R55). -/
def Group.awaitPasses (g : Group) (mask : BitVec 16) : Bool :=
  (List.range 16).all fun i => !mask.getLsbD i || aget 0 g.sig i == 0

/-- Protections carried into several sets are held once for each (R224). (DEDUCED, log entry 36) -/
def Team.reprotect (t : Team) (slots : List Nat) (copies : Nat) : Team :=
  if copies = 0 then t.unprotect slots
  else { t with slots := slots.foldl (fun m i =>
      let x := aget ⟨0, 0, 0⟩ m i
      aset ⟨0, 0, 0⟩ m i { x with prot := x.prot + (copies - 1) }) t.slots }

/-- Kind and fields of the trailer at a set's PC. -/
def State.trailerAt (s : State) (t : Team) (pc : Nat) : Nat × Nat :=
  match (s.kernelOf t).text[pc]? with
  | some w => (fieldOf w.toNat 120 4, targetOf pc (w.extractLsb' 0 32))
  | none => (0, 0)

/-- Steps 4 and 5 of R136: wait for AWAIT, or regroup. -/
def State.finishTrailer (s : State) (c : Cur) : State :=
  match s.view c with
  | none => s
  | some (t, g, ts) =>
    if g.awaitPasses ts.await then
      let k := s.trailerAt t ts.pc
      let isTaken (pc : Nat) : Bool := k.1 != 2 || pc == k.2
      let g1 := g.regroup ts s.clk (k.1 == 8) isTaken
      s.setTeam ((t.reprotect ts.prot1 ts.branches.length).setGroup g1)
    else s.onTset c fun x => { x with phase := .await }

/-- Apply one lane's move (R136 step 3). -/
def State.applyMove (s : State) (c : Cur) (from_ : From) (m : Move) : State :=
  let put (g : Group) : Group :=
    { g with depth := aset 0 g.depth m.lane m.depth, stk := aset [] g.stk m.lane m.stk }
  let s1 := s.onGroup c.1 c.2.1 put
  match m.put with
  | none => s1
  | some p => s1.storeAt { from_ with lane := m.lane } p.1 p.2.1 (leBytes 8 p.2.2)

/-- A link in training holds an entry that a trailer reads or writes (R140, R305). -/
def State.movesHeld (s : State) (t : Team) (w : W) (pops : List LaneAcc) (ms : MovesRes) : Bool :=
  let core := t.coreNo (s.tcore t w.grp.index)
  s.partsHeld t w pops ||
    (match ms with
      | .ok ms => ms.any fun m => match m.put with | some p => s.storeHeld core p.1 8 | none => false
      | _ => false)

/-- Steps 2 and 3 of R136, then the rest. Entries that a `ret` pops from another package are asked for first (R140, R313). -/
def State.resolveTrailer (s : State) (c : Cur) (kind : Nat) (x : TWord) : State :=
  match s.view c with
  | none => s
  | some (t, g, ts) =>
    let w := s.window t g ts ts.lanes
    let pops := if kind = 6 then s.popAccs t w else []
    let far := s.remoteParts pops
    let ms := s.moves t w kind x
    match ms with
    | .miss vas =>
      (vas.foldl (fun s v => s.addWalk (s.who t w v.1 false) v.2) s).onTset c fun y => y.park .walk
    | .mig => s.onTset c fun y => y.park .migrating
    | _ =>
      if s.movesHeld t w pops ms then s.onTset c fun y => y.park .link
      else if far ≠ [] ∧ ts.got2 = [] then (s.askFar t w far).onTset c fun y => y.park (.remote s.nextId)
      else match ms with
      | .ok ms =>
        let from_ : From := ⟨t.id, g.index, ts.lanes, ts.pc, 0, t.coreNo (s.tcore t g.index)⟩
        let s1 := ms.foldl (fun s m => s.applyMove c from_ m) (s.countParts pops)
        let next := ms.foldl (fun m v => aset 0 m v.lane v.next) []
        (s1.onTset c fun y => { y with next := next, await := x.await, conv := x.conv, phase := .ready }).finishTrailer c
      | .fault e => s.takeFault c ts.pc e
      | _ => s

/-- A trailer is issued: commit its run unless it has, then resolve it (R136). -/
def State.runTrailer (s : State) (c : Cur) (kind : Nat) (x : TWord) : State :=
  match s.view c with
  | none => s
  | some (_, _, ts) =>
    if ts.committed then s.resolveTrailer c kind x
    else
      match s.placeRun c with
      | .wait s0 p => s0.onTset c fun y => y.park p
      | .again s0 => s0
      | .ok s0 =>
        match s0.view c with
        | none => s
        | some (t0, g0, ts0) =>
          match s0.commitWait t0 g0 ts0 with
          | some p => s0.onTset c fun y => y.park p
          | none =>
            match s0.commitFault t0 g0 ts0 with
            | some e => s0.takeFault c e.1 e.2
            | none =>
              let s1 := s0.commitRun c
              match s1.view c with
              | none => s1
              | some (_, _, ts1) =>
                if ts1.phase = .ready then s1.resolveTrailer c kind x
                else s1.onTset c fun y => { y with issued := some y.pc }

/-- The meaning shared by the trailers. -/
def liftTrailer (kind : Nat) (x : TWord) (s : State) : Res :=
  match s.cur with
  | none => .refused .noIssuingThreadSet
  | some c =>
    match s.view c with
    | none => .refused .noIssuingThreadSet
    | some _ => .next (s.runTrailer c kind x)

end Sys2Proof.Machine
end

