-- ==== Sys2Proof/Machine/Debug.lean ====
section
/-!
DEFINITION. Debug records, stops and resumption, and the registers of a stopped group (R327 to R335).
-/
namespace Sys2Proof.Machine

/-- Write the stop records that wait for slots, oldest first (R335). -/
def State.flushStops (s : State) : State :=
  s.dbg.waiting.foldl (fun s x =>
    if s.dbgRoom then
      let s1 := s.dbgWrite x.2.2.2
      { s1 with dbg := { s1.dbg with waiting := s1.dbg.waiting.filter (· != x) } }
    else s) s

/-- A set's stop record still waits for a slot. -/
def State.stopPending (s : State) (c : Cur) : Bool :=
  s.dbg.waiting.any fun x => x.1 == c.1 && x.2.1 == c.2.1 && x.2.2.1 == c.2.2

/-! ### The state presented at a stop (R52, R327) -/

/-- A set parked inside its run presents the words before the one it is parked at as performed; a closing instruction that waits
at the trailer stays held, and the run would begin again at it (R52, R114, R329). (DEDUCED, log entry 38) -/
def State.presentParked (s : State) (c : Cur) (ts : TSet) : State :=
  let close := ts.held.filter Held.closing
  let from_ := match close with | [] => ts.pc | h :: _ => h.pc
  let s1 := (s.onTset c fun x => { x with held := x.held.filter fun h => !h.closing }).partialCommit c ts.pc
  s1.onTset c fun x => { x with held := close ++ x.held, start := from_, got := ts.got, got2 := ts.got2 }

/-- The state presented at a stop of a set at its word: earlier words performed as if the run committed; a stop at a trailer
performs the whole run, whose temporaries stay in view (R52, R327). (DEDUCED, log entry 38) -/
def State.presentStop (s : State) (c : Cur) : State :=
  match s.view c with
  | none => s
  | some (t, _, ts) =>
    if ts.fresh ∨ ts.committed then s
    else
      let atTrailer := match (s.kernelOf t).text[ts.pc]? with | some w => isTrailerWord w | none => false
      if atTrailer then
        let temps := match (s.performRun c).view c with | some (_, _, x) => x.temps | none => ts.temps
        (s.commitRun c).onTset c fun x => { x with temps := temps }
      else s.partialCommit c ts.pc

/-! ### Stops (R329) -/

/-- Stop a set with its stop record. -/
def State.stopNow (s : State) (c : Cur) (cls : Nat) : State :=
  match s.view c with
  | none => s
  | some (t, g, ts) =>
    let r := s.setRec t g ts cls
    let s1 := s.onTset c fun x => { x with stop := true, stopNext := 0 }
    ({ s1 with dbg := { s1.dbg with waiting := s1.dbg.waiting ++ [(c.1, c.2.1, c.2.2, r)] } }).flushStops

/-- Stop a set where it stands. One that is parked inside its run presents its earlier words, once their stores can be performed;
until then the stop awaits it (R52, R329). -/
def State.stopSet (s : State) (c : Cur) (cls : Nat) : State :=
  match s.view c with
  | none => s
  | some (_, _, ts) =>
    if ts.stop || ts.dying then s
    else if !ts.parkedIn then s.stopNow c cls
    else
      let later (x : TSet) : TSet := { x with stopNext := cls }
      match s.clearRun c with
      | .ok s0 =>
        (match s0.view c with
          | some (_, _, ts0) => (s0.presentParked c ts0).stopNow c cls
          | none => s0)
      | .wait s0 _ => s0.onTset c later
      | .again s0 => s0.onTset c later

/-- A set stops with a class: at once where `now` or where it stands between runs or is parked, else at its next run
boundary or where it parks. -/
def State.stopSoon (s : State) (now : Bool) (cls : Nat) (c : Cur) : State :=
  match s.view c with
  | none => s
  | some (_, _, ts) =>
    if ts.phase = .ready ∧ !ts.fresh ∧ !now then s.onTset c fun x => { x with stopNext := if x.stop then x.stopNext else cls }
    else s.stopSet c cls

/-- Every set of a context, by package-wide core and group (R329). -/
def State.setsOf (s : State) (ctx : Nat) : List Cur :=
  ksort <| (s.teams.filter fun t => s.ctxOf t == ctx).flatMap fun t => t.groups.flatMap fun g =>
    g.tsets.map fun ts => (256 * t.coreNo (s.tcore t g.index) + g.index, (t.id, g.index, ts.id))

/-- The sets that the stop of one set stops, itself among them: records are written by rising core, then group (R329). -/
def State.stopWith (s : State) (c : Cur) (ctx cls : Nat) : State :=
  let sets := (s.setsOf ctx).filter fun x => x == c || !s.dbg.oneGroup || (x.1 == c.1 && x.2.1 == c.2.1)
  sets.foldl (fun s x => s.stopSoon (x == c) cls x) s

/-- A set stops of itself at its PC with a class, and the others with it. At a trailer the run commits first: a set whose atomic
or service is still to be performed stops when that has been, so that every word is completed (R52, R327). -/
def State.stopHere (s : State) (c : Cur) (cls : Nat) : State :=
  let s1 := s.presentStop c
  match s1.view c with
  | none => s1
  | some (t, _, ts) => if ts.phase = .post .atomics ∨ ts.phase = .post .service then s1 else s1.stopWith c (s.ctxOf t) cls

/-- A stop that awaits the set is due: it stands at a run's start, or is parked there or in its run; a step that completes the run
waits for the run's trailer (R329, R330). -/
def TSet.stopDue (ts : TSet) : Bool :=
  ts.stopNext != 0 && ts.stopNext != stepMark && !ts.stop && !ts.dying &&
    (match ts.phase with
      | .ready => ts.fresh
      | .post _ => ts.stopNext != stepOut
      | .conv _ | .parked _ | .await => true
      | .inHandler _ => false)

/-- The class of the stop that awaits a set: a step's is STOP_STEP (R329, R330). -/
def TSet.stopClass (ts : TSet) : Nat := if ts.stopNext = stepOut then 10 else ts.stopNext

/-- A set reaches a word whose DBG bit stops it: it has not issued the word, nor resumed at it (R327, R328).
(DEDUCED, log entry 38) -/
def State.dbgHit (s : State) (t : Team) (g : Group) (ts : TSet) : Bool :=
  let k := s.kernelOf t
  s.attached (s.ctxOf t) && ts.resumed != some ts.pc && ts.issued != some ts.pc && !ts.stop && k.dbg.contains ts.pc &&
    (match k.text[ts.pc]? with
      | some w => isTrailerWord w || activeLanes g ts (w.extractLsb' 98 4) != []
      | none => false)

/-! ### Resumption (R330, R331) -/

/-- The set whose registers a lane of a stopped group presents: in a handler the set that handles it, not the one that waits
for it (R60, R331). -/
def Group.shown (g : Group) (lane : Nat) : Option TSet :=
  match g.tsets.find? fun x => x.lanes.contains lane && x.emu.isSome with
  | some ts => some ts
  | none => g.tsets.find? fun x => x.lanes.contains lane

/-- Write an operand of a lane of a stopped group: no set of it that stands inside a run goes on reading what its run wrote
there before (R331). (DEDUCED, log entry 38) -/
def Group.editReg (g : Group) (o : Opd) (lane : Nat) (x : Reg) : Group :=
  let stopped (f : TSet → TSet) : List TSet := g.tsets.map fun ts => if ts.stop then f ts else ts
  match o with
  | .v n =>
    let k := laneKey n.toNat lane
    { g with v := aset marker g.v k x, tsets := stopped fun ts => { ts with undoV := ts.undoV.filter fun e => e.1 != k } }
  | .g n =>
    { g with
      g := aset marker g.g n.toNat x
      tsets := stopped fun ts => { ts with gOv := ts.gOv.filter fun e => e.1 != n.toNat } }
  | .t i =>
    let put (ts : TSet) : TSet :=
      if ts.stop && (g.shown lane).map (·.id) == some ts.id then
        { ts with temps := (laneKey i.val lane, x) :: ts.temps, temps0 := (laneKey i.val lane, x) :: ts.temps0 } else ts
    { g with tsets := g.tsets.map put }
  | .p i =>
    let bit : BitVec 8 := BitVec.ofNat 8 (2 ^ i.val)
    let fix (e : Nat × BitVec 8) : Nat × BitVec 8 :=
      if e.1 = lane then (e.1, if x.getLsbD 0 then e.2 ||| bit else e.2 &&& ~~~bit) else e
    { g.putPred o [(lane, x.getLsbD 0)] with tsets := stopped fun ts => { ts with undoP := ts.undoP.map fix } }
  | .ls i =>
    let n := x.toNat
    if i.val ≠ 0 ∧ (n = 4 ∨ n = 8 ∨ n = 16 ∨ n = 32) then
      { g with
        ls := aset 32 g.ls i.val n
        tsets := stopped fun ts => { ts with lsOv := ts.lsOv.filter fun e => e.1 != i.val } }
    else g
  | .s i => { g with sig := aset 0 g.sig i.val (x.toNat % 256) }
  | .sr .fflg =>
    { g with
      fflg := x.extractLsb' 0 6
      tsets := stopped fun ts => { ts with fl := 0, fl0 := x.extractLsb' 0 6, flWrite := none } }
  | .sr .seed => { g with seed := x, tsets := stopped fun ts => { ts with seedOv := none } }
  | _ => g

/-- The context and number of a launch, by which register writes are kept (R331, R375). -/
def Launch.editKey (l : Launch) : Nat := l.ctx * 2 ^ 32 + l.num.toNat

/-- Take the register writes that wait for a group's resumption. -/
def State.takeEdits (s : State) (t : Team) (g : Nat) : State :=
  let num := (s.launchOf t).editKey
  let mine := s.dbg.edits.filter fun e => e.1 == num && e.2.1 == t.index && e.2.2.1 == g
  let put (x : Group) : Group := mine.foldl (fun x e =>
    match Opd.ofBits e.2.2.2.2.1 with | some o => x.editReg o e.2.2.2.1 e.2.2.2.2.2 | none => x) x
  let s1 := s.onGroup t.id g put
  { s1 with dbg := { s1.dbg with edits := s1.dbg.edits.filter fun e => !mine.contains e } }

/-- What a resumed set is to stop for: nothing, or a step, which one stopped at the trailer of a run that has committed ends as
soon as it has completed that run (R330). -/
def TSet.stepFrom (ts : TSet) (step : Bool) : Nat :=
  if !step then 0
  else if !ts.committed then stepMark
  else match ts.phase with | .ready => 10 | .post _ => stepOut | _ => stepMark

/-- Resume one set, to commit a run and stop again where `step` (R330). -/
def State.resumeSet (s : State) (step : Bool) (c : Cur) : State :=
  match s.view c with
  | none => s
  | some (t, g, ts) =>
    if ts.stop ∧ !s.stopPending c then
      let s1 := (s.takeEdits t g.index).onTset c fun x =>
        { x with stop := false, stopNext := x.stepFrom step, resumed := some x.pc, readyAt := s.clk }
      s1.rejoin c
    else s

/-- The team, group and launch that the debugger has selected (R338). -/
def State.selTeam (s : State) : Option Team :=
  let num := fieldOf s.dbg.selg.toNat 0 32
  let idx := fieldOf s.dbg.sel.toNat 32 32
  s.teams.find? fun t => t.index == idx &&
    (match s.launch? t.launch with | some l => l.num.toNat == num && l.ctx == s.dbg.ctx | none => false)

/-- The selected group. -/
def State.selGroup (s : State) : Option (Team × Group) :=
  match s.selTeam with
  | none => none
  | some t => (t.group? (fieldOf s.dbg.sel.toNat 24 8)).map fun g => (t, g)

/-- Is the group stopped: it has a set and every set of it is stopped? -/
def Group.stopped (g : Group) : Bool := g.tsets != [] && g.tsets.all (·.stop)

/-- Sets of the selected group. -/
def State.selSets (s : State) : List Cur :=
  match s.selGroup with
  | none => []
  | some (t, g) => g.tsets.map fun ts => (t.id, g.index, ts.id)

/-- Value of a register as a stopped run has it: of an `nx` field, that of the core's shadow table with what the run has written
into it (R263, R331); of the banks that are no 64-bit source, what the model takes for them. (DESIGN CHOICE, log entry 35) -/
def State.shownReg (s : State) (t : Team) (g : Group) (ts : TSet) (field : BitVec 20) (lane : Nat) : Reg :=
  match Opd.ofBits field with
  | some (.nx i) => BitVec.ofNat 64 (nx (shadowAfter (t.nest (s.tcore t g.index)).shadow ts.held) i.val)
  | _ => (s.window t g ts ts.lanes).rawSrc field lane

/-- Value of the selected register (R331). -/
def State.selValue (s : State) : Reg :=
  match s.selGroup with
  | none => 0
  | some (t, g) =>
    if !g.stopped then 0
    else
      let lane := fieldOf s.dbg.sel.toNat 19 5
      let field := BitVec.ofNat 20 (fieldOf s.dbg.selg.toNat 32 20)
      match g.shown lane, g.tsets.head? with
      | none, none => 0
      | some ts, _ => s.shownReg t g ts field lane
      | none, some ts => s.shownReg t g ts field lane

end Sys2Proof.Machine
end

