-- ==== Sys2Proof/Machine/QueueWords.lean ====
section
/-!
DEFINITION. The meanings of the queue words, class 0b101 OPC 0x200 to 0x203, and the joins of child launches (R97 to
R102).
-/
namespace Sys2Proof.Machine

/-- Record index of an operand. -/
def recNo (o : Opd) : Nat := match o with | .imm x => x.toNat | _ => 0

/-- `qrec` (R99). -/
def execQrec (x : RWord) (s : State) : Res := liftWord x.grd (fun s _ w =>
  .go s { w with ts := { w.ts with recOv := (recNo x.sb, w.srcLow x.sa) :: w.ts.recOv } }) s

/-- Word `i` of the record buffer as the thread set sees it. -/
def W.recRead (w : W) (i : Nat) : Nat := (overlay (aget 0 w.grp.recb i) w.ts.recOv i).toNat

/-- The lowest record word that a push refuses (R100). -/
def W.recBad (w : W) : Option Nat :=
  if fieldOf (w.recRead 0) 0 8 ≠ 1 ∨ fieldOf (w.recRead 0) 9 7 ≠ 0 then some 0
  else if fieldOf (w.recRead 2) 32 32 ≠ 0 then some 2
  else if fieldOf (w.recRead 3) 60 4 ≠ 0 then some 3
  else if w.recRead 4 % 8 ≠ 0 then some 4
  else if w.recRead 6 ≠ 0 then some 6
  else none

/-- `qpush` (R100): checked at the word, pushed at the commit. -/
def execQpush (x : RWord) (s : State) : Res := liftWord x.grd (fun s _ w =>
  match w.recBad with
  | some i => .err { code := 11, lane := w.low, detail := i }
  | none => .go s (w.hold .qpush)) s

/-- A counter of each active lane (R101): an aperture address is none of the context. -/
def State.counterAcc (s : State) (t : Team) (w : W) (kind : Nat) (addr : Nat → Nat) : Gathered :=
  gather (fun l =>
    match vaClass (addr l) with
    | .user => s.lanePlaces t w kind false 0 8 8 (addr l) l
    | _ => .fault { code := 3, addr := addr l }) w.act

/-- Virtual address of a lane's counter. -/
def LaneAcc.va (l : LaneAcc) : Nat := match l.parts.head? with | some p => p.va | none => 0

/-- Physical address of a lane's counter. -/
def LaneAcc.pa (l : LaneAcc) : Nat :=
  match l.parts.head? with
  | some p => (match p.loc with | .mem pa => pa | _ => 0)
  | none => 0

/-- `qjoin` (R101): checked at the word; the set waits at its commit. (DEDUCED, log entry 39) -/
def execQjoin (x : RWord) (s : State) : Res := liftWord x.grd (fun s t w =>
  match s.counterAcc t w 0 (w.addrR x) with
  | .miss vas => s.missEff t w 0 false vas
  | .fault e => .err e
  | .mig _ => .wait s w .migrating
  | .ok ls => .go s (w.hold (.qjoin x.dst (ls.map fun l => (l.lane, l.pa, (w.src x.sb l.lane).toNat, l.va))))) s

/-- `qsig` (R102): checked at the word; one step for each lane at the commit. (DEDUCED, log entry 39) -/
def execQsig (x : RWord) (s : State) : Res := liftWord x.grd (fun s t w =>
  match s.counterAcc t w 2 (w.addrR x) with
  | .miss vas => s.missEff t w 2 false vas
  | .fault e => .err e
  | .mig _ => .wait s w .migrating
  | .ok ls => .go s (ls.foldl (fun w l =>
      let h : Held := ⟨w.ts.pc, w.act, .qsig (.mem l.pa) l.va (w.src x.sb l.lane).toNat (x.mod.getLsbD 0), l.lane⟩
      { w with ts := { w.ts with held := h :: w.ts.held } }) w)) s

/-! ### The release of a join (R101) -/

/-- Every counter of a join has reached its target, and no link in training holds the reading of one (R101, R305).
(DEDUCED, log entry 56) -/
def State.joinMet (s : State) (parts : List (Nat × Nat × Nat × Nat)) : Bool :=
  parts.all fun p => decide (p.2.2.1 ≤ s.word64 p.2.1 % 2 ^ 63) && !s.linkHeld 1024 p.2.1 8 && !s.polderWaits (.mem p.2.1)

/-- The join that a parked set holds. (DEDUCED, log entry 56) -/
def TSet.joining (ts : TSet) : Option (Nat × Opd × List (Nat × Nat × Nat × Nat)) :=
  ts.held.findSome? fun h => match h.act with | .qjoin d ps => some (h.pc, d, ps) | _ => none

/-- Why a counter of a join can no longer be read: its key has been destroyed, no polder link leads to it, or its bytes are lost
(R67, R308, R313, R348). -/
def State.counterFault (s : State) (pa : Nat) : Option (Nat × Nat) :=
  if !s.fw.keySlots.getLsbD (paKey pa) then some (7, 0)
  else if s.polderGone (.mem pa) then some (15, 1)
  else if s.linkHeld 1024 pa 8 || s.polderWaits (.mem pa) then none
  else if s.locBad (.mem pa) 8 then some (8, 0)
  else none

/-- The fault of a join of which a counter can no longer be read: that of its lowest lane (R52). -/
def State.joinFault (s : State) (parts : List (Nat × Nat × Nat × Nat)) : Option FInfo :=
  parts.findSome? fun p => (s.counterFault p.2.1).map fun e => { code := e.1, lane := p.1, addr := p.2.2.2, detail := e.2 }

/-- QJOIN_RELEASE: the counters have reached their targets; each lane's predicate takes not ERR, and the run goes on to
its commit (R101). A counter that can no longer be read ends it with a fault (R67, R308, R313, R348). -/
def execQjoinRelease (team group tset : Nat) (s : State) : Res :=
  let c : Cur := (team, group, tset)
  match s.view c with
  | none => .next s
  | some (_, g, ts) =>
    match ts.joining with
    | none => .next s
    | some (pc, dst, parts) =>
      if ts.phase ≠ .parked .join ∨ ts.stop then .next s
      else match s.joinFault parts with
      | some e => .next (s.faultParked c pc e fun s => s)
      | none =>
      if s.joinMet parts then
        let vals := parts.map fun p => (p.1, !(s.word64 p.2.1).testBit 63)
        let old := parts.map fun p => (p.1, aget 0 g.p p.1)
        let free (x : TSet) : TSet := { x with
          phase := .ready, readyAt := s.clk
          undoP := old ++ x.undoP
          held := x.held.filter fun h => match h.act with | .qjoin .. => false | _ => true }
        .next ((s.onGroup team group fun y => y.putPred dst vals).onTset c free)
      else .next s

end Sys2Proof.Machine
end

