-- ==== Sys2Proof/Machine/EvQueue.lean ====
section
/-!
DEFINITION. Events of queues: waking, taking packets, and each type of packet (R19, R83 to R93, R96, R102, R336, R375).
-/
namespace Sys2Proof.Machine

/-! ### Waking (R19, R85, R87, R88) -/

/-- Words of a place, lowest first. -/
def State.words (s : State) (pa n : Nat) : List Reg := (List.range n).map fun k => BitVec.ofNat 64 (s.word64 (pa + 8 * k))

/-- The queue halts: more packets stand in the ring than it holds (R87, R88). -/
def Queue.overrun (x : Queue) : Bool := decide (x.done < x.tail) && decide (x.slots < x.tail - x.done)

/-- A ring or wake page that cannot be read, or whose bytes are lost, halts the queue; a drained one has no packet left to report
(R85, R88, R348). (DEDUCED, log entry 41) -/
def State.ringLost (s : State) (q : Nat) (x : Queue) : State :=
  if x.state = 1 then s.haltQueue q 2 else s.setQueue q { s.queue q with tail := x.head }

/-- QUEUE_WAKE: the wake core clears its indication and then reads the count of packets written; it also does the writes
the queue owes (R19, R85 to R88). -/
def execQueueWake (q : Fin 1024) (s : State) : Res :=
  let x := s.queue q.val
  let served := x.paused.isNone && (x.state == 3 || (x.state == 1 && (s.ctx x.ctx).state == 2))
  let s0 := s.setQueue q.val { x with wake := false }
  let lostRing (s : State) : State := s.ringLost q.val x
  if s.unserved q.val then .next s
  else if !served then .next (s0.settleQueue q.val)
  else
    let r := s0.queuePlace (wakeCore q.val) q.val (x.wakeVa 0) 0
    match r.2 with
    | .at pa =>
      if r.1.locBad (.mem pa) 8 then .next (lostRing r.1) else
      let y := { r.1.queue q.val with tail := r.1.word64 pa }
      let s1 := r.1.setQueue q.val y
      .next ((if x.state = 1 ∧ y.overrun then s1.haltQueue q.val 1 else s1).settleQueue q.val)
    | .fail .. => .next (lostRing r.1)
    | .req id => .next (r.1.setQueue q.val { r.1.queue q.val with paused := some id })
    | .busy => .next (r.1.setQueue q.val { r.1.queue q.val with wake := true })

/-! ### Taking (R87, R89 to R93) -/

/-- Body fields. -/
def Pkt.body (p : Pkt) (w : Nat) : Nat := p.word w

/-- The packet is malformed (R92). -/
def Pkt.bad (p : Pkt) : Bool :=
  fieldOf (p.word 0) 9 7 != 0 ||
  (match p.typ with
    | 1 => p.word 2 / 2 ^ 32 != 0 || p.word 3 / 2 ^ 60 != 0 || p.word 4 % 8 != 0 || p.word 6 != 0
    | 2 => !(decide (1 ≤ p.word 4) && decide (p.word 4 ≤ 2 ^ 40)) || p.word 5 != 0 || p.word 6 != 0
    | 3 => p.word 2 % 8 != 0 || p.word 4 != 0 || p.word 5 != 0 || p.word 6 != 0
    | 4 => p.word 2 % 8 != 0 || decide (2 ≤ p.word 4) || p.word 5 != 0 || p.word 6 != 0
    | 5 => p.word 2 % 64 != 0 || decide (8 ≤ p.word 3) || p.word 4 != 0 || p.word 5 != 0 || p.word 6 != 0
    | _ => true)

/-- The next launch number of a context (R375). -/
def State.takeNumber (s : State) (ctx : Nat) : BitVec 32 × State :=
  let n := (s.ctx ctx).launchNo
  (n, s.setCtx ctx { s.ctx ctx with launchNo := n + 1 })

/-- A packet enters the queue's list as taken, with HEAD advanced. -/
def State.enterPkt (s : State) (q : Nat) (p : Pkt) : State :=
  let x := s.queue q
  s.setQueue q { x with head := (x.head + 1) % 2 ^ 64, pkts := x.pkts ++ [p] }

/-- A launch that ends before it is handed over: its end is traced and its packet completes (R334, R375). -/
def State.endUnstarted (s : State) (q : Nat) (p : Pkt) (code : Nat) : State :=
  let l : Launch :=
    { id := 0, num := p.grid, ctx := (s.queue q).ctx, slot := 0, kernel := {}, gx := 1, gy := 1, gz := 1, origin := some q }
  (s.trace (s.launchRec l 15)).completePkt q p.num code p.grid.toNat

/-- An untaken packet of a DRAINED queue is completed without being taken: a LAUNCH that passes the checks which need no kernel
takes a number, whatever its handle and PRIVB (R88, R375). (DESIGN CHOICE, log entry 25) -/
def State.drainPkt (s : State) (q : Nat) (p : Pkt) : State :=
  let s1 := s.enterPkt q p
  if p.typ = 1 then
    if p.bad then s1.completePkt q p.num 0x0E 0
    else
      let n := s1.takeNumber (s1.queue q).ctx
      n.2.endUnstarted q { p with grid := n.1 } 0x0E
  else s1.completePkt q p.num 0x80 0

/-- The kernel that a handle names for a context, with its slot; none when stale (R104). -/
def State.handleKernel (s : State) (ctx h : Nat) : Option (Nat × Kernel) :=
  let slot := fieldOf h 0 12
  let k := s.kslot ctx slot
  match k.kernel with
  | some kn => if fieldOf h 26 6 = ctx ∧ fieldOf h 12 14 = k.gen then some (slot, kn) else none
  | none => none

/-- A GRID field: 0 gives 2^20 (R90). -/
def gridDim (w k : Nat) : Nat := let n := fieldOf w (20 * k) 20; if n = 0 then 2 ^ 20 else n

/-- The launch that a record's words describe. -/
def launchOfWords (id : Nat) (num : BitVec 32) (ctx slot : Nat) (k : Kernel) (word : Nat → Nat) : Launch :=
  { id := id, num := num, ctx := ctx, slot := slot, kernel := k
    gx := gridDim (word 3) 0, gy := gridDim (word 3) 1, gz := gridDim (word 3) 2
    pblock := word 4, privb := word 5, ccaddr := word 1, ccinc := fieldOf (word 0) 16 16
    bar := (word 0).testBit 8 }

/-- The launch of a LAUNCH packet, under an identifier. -/
def State.packetLaunch (s : State) (q : Nat) (p : Pkt) (id : Nat) : Launch :=
  let x := s.queue q
  { launchOfWords id p.grid x.ctx p.slot (p.kernel.getD {}) p.word with
    pri := x.pri, gen := p.gen, queue := some (q, p.num), origin := some q }

/-- A LAUNCH that names no kernel of its context fails when it is taken (R92, R104). -/
def State.staleLaunch (s : State) (q : Nat) (p : Pkt) : State :=
  let l := s.packetLaunch q p s.nextId
  ({ s with launches := s.launches ++ [l], nextId := s.nextId + 1 } : State).failLaunch l 0x0E 0 2

/-- Take a well-formed LAUNCH: its handle is checked, then the private base against its kernel (R92, R208); one that passes
keeps its kernel, whatever becomes of the handle (R109). -/
def State.takeLaunch (s : State) (q : Nat) (p : Pkt) : State :=
  let x := s.queue q
  let n := s.takeNumber x.ctx
  match s.handleKernel x.ctx (p.word 2) with
  | none => (n.2.enterPkt q { p with grid := n.1 }).staleLaunch q { p with grid := n.1 }
  | some (slot, k) =>
    if k.priv ≠ 0 ∧ p.word 5 % 16 ≠ 0 then (s.enterPkt q p).completePkt q p.num 0x81 0
    else n.2.enterPkt q { p with grid := n.1, slot := slot, gen := (s.kslot x.ctx slot).gen, kernel := some k }

/-- Take the packet at HEAD with its 64 bytes: the barrier bit holds it until every earlier packet has completed; a
malformed one completes at once, and a LAUNCH takes its number (R92, R93, R375). -/
def State.takePkt (s : State) (q : Nat) (ws : List Reg) : State :=
  let x := s.queue q
  let p : Pkt := { num := x.head, words := ws, state := 0, taken := s.clk }
  if x.state = 3 then s.drainPkt q p
  else if p.bar ∧ x.done ≠ x.head then s
  else if p.bad then (s.enterPkt q p).completePkt q p.num 0x81 0
  else if p.typ = 1 then s.takeLaunch q p
  else s.enterPkt q p

/-- PACKET_TAKE: the wake core takes the packet at HEAD (R93). The slot is read, and HEAD written, under the context's
translation; a page request pauses the queue, a failed translation halts it (R85). -/
def execPacketTake (q : Fin 1024) (s : State) : Res :=
  let x := s.queue q.val
  let served := x.state == 3 || (x.state == 1 && (s.ctx x.ctx).state == 2)
  if s.unserved q.val || !served || x.paused.isSome || decide (x.tail ≤ x.head) then .next s
  else
    let pause (s : State) (id : Nat) : Res := .next (s.setQueue q.val { s.queue q.val with paused := some id })
    let fail (s : State) : Res := .next (s.ringLost q.val x)
    let r := s.queuePlace (wakeCore q.val) q.val (x.slotVa x.head) 0
    match r.2 with
    | .req id => pause r.1 id
    | .fail .. => fail r.1
    | .busy => .next r.1
    | .at pa =>
      let h := r.1.queuePlace (wakeCore q.val) q.val (x.wakeVa 0x80) 1
      match h.2 with
      | .req id => pause h.1 id
      | .fail .. => fail h.1
      | .busy => .next h.1
      | .at pb =>
        if h.1.locBad (.mem pa) 64 then fail h.1 else
        let s1 := h.1.takePkt q.val (h.1.words pa 8)
        .next (if (s1.queue q.val).head = x.head then s else s1.putNat pb 8 ((x.head + 1) % 2 ^ 64))

/-- The first taken packet of a type that has not begun. -/
def Queue.waitingPkt (x : Queue) (typ : Nat) : Option Pkt := x.pkts.find? fun p => p.state == 0 && p.typ == typ && p.req.isNone

/-! ### LAUNCH (R90, R92, R104, R109, R208) -/

/-- Read a launch's parameters for the policy core (R90, R344): the values, or why it must wait or fail, with the failing address. -/
def State.readParams (s : State) (ctx base n : Nat) : State × Except (DevRes × Nat) (List Reg) :=
  (List.range n).foldl (fun acc k =>
    match acc.2 with
    | .error e => (acc.1, .error e)
    | .ok vs =>
      let va := (base + 8 * k) % 2 ^ 64
      let r := acc.1.cxPlace 0 ctx va 0
      match r.2 with
      | .at pa =>
        if r.1.locBad (.mem pa) 8 then (r.1, .error (.fail 8 0, va))
        else (r.1, .ok (vs ++ [BitVec.ofNat 64 (r.1.word64 pa)]))
      | x => (r.1, .error (x, va))) (s, .ok [])

/-- Prepare a launch that has not been dispatched: its parameters are read once; an unreadable block completes it, a page
request holds it (R90, R100). The record of a child whose block cannot be read has ADDR 0, as every LAUNCH record (R69).
(DESIGN CHOICE, log entry 43) -/
def State.prepLaunch (s : State) (id : Nat) : State :=
  match s.launch? id with
  | none => s
  | some l =>
    if l.read ∨ l.req.isSome ∨ l.phase = 2 then s
    else
      let r := s.readParams l.ctx l.pblock l.kernel.params.length
      match r.2 with
      | .ok vs => r.1.setLaunch { l with params := vs, read := true }
      | .error (.req id, va) => r.1.setLaunch { l with req := some id, params := [BitVec.ofNat 64 va] }
      | .error (.fail code detail, va) =>
        if l.parent.isSome then r.1.failLaunch l 0x0E 0 5 else r.1.failLaunch l code va detail
      | .error _ => r.1

/-- The kernels have one translation key (R111): the parts it is made of are equal. -/
def Kernel.sameKey (k m : Kernel) : Bool := k.text == m.text && k.raw == m.raw

/-- The revision of the device, which `FW_ID` reads and which is part of every translation's key (R10, R351). -/
def revision : Nat := 1

/-- The entry serves a kernel: its key parts and its revision equal those of the kernel and the device (R10, R111). -/
def TEntry.serves (e : TEntry) (k : Kernel) : Bool := e.text == k.text && e.raw == k.raw && e.rev == revision

/-- The entry that serves a kernel. -/
def State.entryFor (s : State) (k : Kernel) : Option TEntry := s.tcache.find? fun e => e.serves k

/-- The launch proceeds with a stored entry (R109). -/
def State.useEntry (s : State) (l : Launch) (e : TEntry) : State :=
  let use (x : TEntry) : TEntry := { x with last := s.nextId }
  let s1 := s.setLaunch { l with phase := 1, entry := e.id, ready := s.clk, waitSince := s.clk }
  { s1 with tcache := lreplace (fun x => x.id == e.id) use s1.tcache, nextId := s1.nextId + 1 }

/-- An entry as another package of the polder has re-optimised it: its records and sites start afresh (R118). -/
def TEntry.renewed (e : TEntry) (id : Nat) : TEntry :=
  { e with id := id, state := 1, stored := 0, launches := 0, runs := 0, rollbacks := 0, sites := []
           kept := e.kept ++ e.sites.map fun x => (x.ldw, x.stw) }

/-- The entry that a launch dispatched now runs: the one its key has in the cache, or where the polder holds other packages,
as a free choice, the one that another package has put in its place (R20, R118). -/
def State.entryNow (s : State) (l : Launch) : State × Nat :=
  match s.entryFor l.kernel with
  | none => (s, l.entry)
  | some e =>
    if s.members.any (· != s.pkg) && e.state == 1 && Config.freePick s.free e.id % 2 == 1 then
      ({ s with
        tcache := lreplace (fun x => x.id == e.id) (fun x => x.renewed s.nextId) s.tcache
        nextId := s.nextId + 1, free := s.free + 1 }, s.nextId)
    else (s, e.id)

/-- A launch's first dispatch: it counts among those dispatched on its entry, whose code it keeps to its end (R20, R117, R118). -/
def State.countDispatch (s : State) (l : Launch) : State × Launch :=
  let r := s.entryNow l
  let kept := match r.1.tcache.find? fun e => e.id == r.2 with | some e => e.kept | none => []
  let l1 := { l with entry := r.2, kept := kept }
  ({ (r.1.setLaunch l1) with
    tcache := lreplace (fun x => x.id == r.2) (fun x => { x with launches := x.launches + 1 }) r.1.tcache }, l1)

/-- Look a taken launch's key up: a hit on the package lets it go on; a miss waits for the polder and a translation
(R109, R112). -/
def State.lookUp (s : State) (l : Launch) : State :=
  match s.entryFor l.kernel with
  | some e => s.useEntry l e
  | none =>
    if s.xlates.any fun x => x.kernel.sameKey l.kernel then
      { s with xlates := lreplace (fun x => x.kernel.sameKey l.kernel) (fun x => { x with names := x.names ++ [l.handle] }) s.xlates }
    else
      { s with xlates := s.xlates ++ [⟨l.ctx, l.slot, l.handle, l.kernel, false, [l.handle]⟩] }

/-- A record that a team has pushed completes with LAUNCH as the team is lost: its counter's step sets ERR, and its fault record, for
which R69 lists no cause, has DETAIL 0; in DRAINING it has none (R65, R96, R97, R308, R349). (DEDUCED, log entry 48) -/
def State.loseChild (s : State) (t : Team) (ws : List Reg) : State :=
  let word (i : Nat) : Nat := (ws.getD i 0).toNat
  let parent := s.launchOf t
  let f := s.fresh
  let l : Launch := { launchOfWords f.1 (BitVec.ofNat 32 (word 7)) (s.ctxOf t) 0 {} word with
    pri := parent.pri, parent := some t.id, origin := parent.origin }
  let s1 : State := { f.2 with launches := f.2.launches ++ [l] }
  if (s.ctx l.ctx).state = 5 then s1.finishLaunch l 0x0E else s1.failLaunch l 0x0E 0 0

/-- A launch taken with a valid handle (R104, R109). -/
def State.beginLaunch (s : State) (l : Launch) : State :=
  if l.kernel.rejected then ({ s with launches := s.launches ++ [l] } : State).failLaunch l 0x0E 0 1
  else if l.kernel.gang ≠ 0 ∧ l.total % l.kernel.gangTeams ≠ 0 then
    ({ s with launches := s.launches ++ [l] } : State).failLaunch l 0x0E 0 4
  else (({ s with launches := s.launches ++ [l] } : State).lookUp l).prepLaunch l.id

/-- The launch waits for a frozen core of the command complex: the policy core, or the wake core of its queue (R345). -/
def State.launchHeld (s : State) (l : Launch) : Bool :=
  s.cx0Frozen || (match l.origin with | some q => s.unserved q | none => false)

/-- A launch that waits to be handed over: a packet of a queue, or the oldest record that a team has pushed. -/
inductive HandOver where
  | packet (q : Nat)
  | child (team : Nat)
  deriving DecidableEq, Repr

/-- The records that teams have pushed and that may be handed over, each with its priority and the queue from which it
descends: BAR holds one until every earlier child has completed (R97, R94). -/
def State.childTurns (s : State) : List (HandOver × Nat × Nat) :=
  s.teams.filterMap fun t =>
    match t.children, s.launch? t.launch with
    | ws :: _, some l =>
      if s.launchHeld l ∨ ((ws.getD 0 0).getLsbD 8 ∧ t.kids ≠ 0) then none else some (.child t.id, l.pri, l.origin.getD 0)
    | _, _ => none

/-- The launch that is handed over next: of the highest priority, and round-robin by slot after the queue of that priority
served last, where slot 0 begins (R94). A child has its turn with the queue from which it descends, before that queue's own
packet. (DESIGN CHOICE, log entry 16) -/
def State.nextHandOver (s : State) : Option HandOver :=
  let packets := s.queues.filterMap fun e =>
    if s.unserved e.1 then none else (e.2.waitingPkt 1).map fun _ => (HandOver.packet e.1, e.2.pri, e.1)
  let key (x : HandOver × Nat × Nat) : List Nat :=
    [3 - x.2.1, (x.2.2 + 1023 - aget 1023 s.rr x.2.1) % 1024] ++ (match x.1 with | .child t => [0, t] | .packet _ => [1, 0])
  (leastOf key (s.childTurns ++ packets)).map (·.1)

/-- The round-robin position after a hand-over (R94). -/
def State.served (s : State) (pri q : Nat) : State := { s with rr := aset 1023 s.rr pri q }

/-- The kernel of a taken launch: as its slot holds it now, or as the launch keeps it where the handle has become stale since (R109,
R328). -/
def State.kernelNow (s : State) (ctx : Nat) (p : Pkt) : Kernel :=
  match s.handleKernel ctx (p.word 2) with | some (_, k) => k | none => p.kernel.getD {}

/-- LAUNCH_PACKET: CX0 hands a taken launch over in its turn, and its key is looked up (R90, R92, R94, R109). In DRAINING it
completes with LAUNCH. -/
def execLaunchPacket (q : Fin 1024) (s : State) : Res :=
  let x := s.queue q.val
  match (if s.nextHandOver ≠ some (.packet q.val) then none else x.waitingPkt 1) with
  | none => .next s
  | some p =>
    let f := (s.served x.pri q.val).fresh
    let l : Launch := { s.packetLaunch q.val p f.1 with kernel := s.kernelNow x.ctx p }
    if (s.ctx x.ctx).state = 5 then .next (({ f.2 with launches := f.2.launches ++ [l] } : State).finishLaunch l 0x0E)
    else .next ((f.2.setPkt q.val { p with state := 1, launch := f.1 }).beginLaunch l)

/-! ### COPY (R90, R96) -/

/-- Bytes of a segment of a COPY. -/
def copySeg : Nat := 2 ^ 21
/-- Length of segment i. -/
def Pkt.segLen (p : Pkt) (i : Nat) : Nat := Nat.min copySeg (p.word 4 - i * copySeg)

/-- COPY_PACKET: the copy begins on the migration copy engines, in segments of 2 MiB (R90), under an identifier by which a timeout
names it (R313). -/
def execCopyPacket (q : Fin 1024) (s : State) : Res :=
  match (if s.unserved q.val then none else (s.queue q.val).waitingPkt 2) with
  | none => .next s
  | some p =>
    let f := s.fresh
    .next (f.2.setPkt q.val { p with
      state := 1, segs := List.range ((p.word 4 + copySeg - 1) / copySeg), launch := f.1, since := s.clk })

/-- The tier of an address: 0 fast, 1 capacity, 2 none (R200). -/
def State.paTier (s : State) (pa : Nat) : Nat := if s.paHole pa then 2 else if paOff pa < 0x10000000000 then 0 else 1

/-- The tier that a page table gives an address, where it leads to a leaf. -/
def State.vaTier (s : State) (ctx va kind : Nat) : Option Nat :=
  match s.walk ctx va kind with
  | .leaf _ p level => some (s.paTier ((s.leafCopy 1024 ctx p level va).1 + va % 4096))
  | _ => none

/-- The outcome of copying part of a segment. -/
structure CopyRun where
  s    : State
  p    : Pkt
  pos  : Nat                     -- bytes of the segment handled
  mark : Nat                     -- start of the piece within one pair of tiers
  tier : Option (Nat × Nat)
  stop : Option (Nat × Option Nat)  -- failure code, or the request it waits for
  deriving DecidableEq, Repr

/-- The piece within one pair of tiers ends where a side, whose tier is known, leaves its own: for a hole too, which lies in none
(R90, R200). -/
def CopyRun.leaveTier (r : CopyRun) (src dst : Option Nat) : CopyRun :=
  match r.tier with
  | some (a, b) => if (src.any (· != a)) || (dst.any (· != b)) then { r with mark := r.pos } else r
  | none => r

/-- A byte as it stood before the packet was taken. -/
def State.beforeCopy (s : State) (p : Pkt) (pa : Nat) : Byte :=
  match (p.wrote.filter fun e => e.1 == pa).getLast? with | some e => e.2 | none => readByte s.mem pa

/-- SRC and DST overlap. -/
def Pkt.overlaps (p : Pkt) : Bool := decide (p.word 2 < p.word 3 + p.word 4) && decide (p.word 3 < p.word 2 + p.word 4)

/-- The steps of DST − SRC, or of SRC − DST, by which the byte at offset `i` lies inside the overlap: the values that the COPY
can have written into its place are those of the bytes so many steps away. -/
def Pkt.steps (p : Pkt) (i : Nat) : Nat :=
  if p.word 2 < p.word 3 then i / (p.word 3 - p.word 2)
  else if p.word 3 < p.word 2 then (p.word 4 - 1 - i) / (p.word 2 - p.word 3) else 0

/-- Source address of the byte `k` such steps from offset `i`. -/
def Pkt.stepVa (p : Pkt) (i k : Nat) : Nat :=
  if p.word 2 < p.word 3 then p.word 2 + i - k * (p.word 3 - p.word 2) else p.word 2 + i + k * (p.word 2 - p.word 3)

/-- A byte of a COPY's source: where SRC and DST overlap, freely what it was before the packet was taken or a value that
the COPY wrote there (R90). -/
def State.copyByte (s : State) (p : Pkt) (ctx i pa : Nat) : Byte :=
  let k := Config.freePick s.free (2 ^ 56 + i) % (p.steps i + 1)
  if k = 0 then s.beforeCopy p pa
  else match s.walk ctx (p.stepVa i k) 0 with
    | .leaf _ e level => s.beforeCopy p (leafPage e level (p.stepVa i k) + p.stepVa i k % 4096)
    | _ => s.beforeCopy p pa

/-- One piece of a segment, within a page of each side; its lines are counted as it is read and written (R90, R202).
(DESIGN CHOICE, log entry 20) -/
def copyPiece (ctx seg : Nat) (r : CopyRun) : CopyRun :=
  let len := r.p.segLen seg
  if r.stop.isSome ∨ len ≤ r.pos then r
  else
    let at_ := seg * copySeg + r.pos
    let src := (r.p.word 2 + at_) % 2 ^ 64
    let dst := (r.p.word 3 + at_) % 2 ^ 64
    let n := Nat.min (len - r.pos) (Nat.min (4096 - src % 4096) (4096 - dst % 4096))
    let a := r.s.devPlace ctx src 0 n
    let b := a.1.devPlace ctx dst 1 n
    match a.2, b.2 with
    | .fail c _, _ => { r.leaveTier (r.s.vaTier ctx src 0) (r.s.vaTier ctx dst 1) with s := a.1, stop := some (c, none) }
    | .req id, _ => { r with s := a.1, stop := some (0, some id) }
    | .busy, _ => { r with stop := some (0, some 0) }
    | _, .fail c _ => { r.leaveTier (r.s.vaTier ctx src 0) (r.s.vaTier ctx dst 1) with s := b.1, stop := some (c, none) }
    | _, .req id => { r with s := b.1, stop := some (0, some id) }
    | _, .busy => { r with stop := some (0, some 0) }
    | .at pa, .at pb =>
      let tier := (r.s.paTier pa, r.s.paTier pb)
      if b.1.locBad (.mem pa) n then { r with s := b.1, stop := some (8, none) }
      else
        let bs := (List.range n).map fun k =>
          if r.p.overlaps then b.1.copyByte r.p ctx (at_ + k) (pa + k) else readByte b.1.mem (pa + k)
        let old := if r.p.overlaps then (List.range n).map fun k => (pb + k, readByte b.1.mem (pb + k)) else []
        { r with
          s := (b.1.countLines pa n).engineWrite (.mem pb) bs, p := { r.p with wrote := old ++ r.p.wrote }, pos := r.pos + n
          mark := if r.tier = some tier then r.mark else r.pos, tier := some tier }

/-- The bytes a COPY reports: of the pieces completed in order from the start (R96). -/
def Pkt.copied (p : Pkt) : Nat :=
  let bad := p.fails.foldl (fun (m : Option (Nat × Nat × Nat)) f =>
    match m with | none => some f | some g => if f.1 < g.1 then some f else some g) none
  match bad with
  | none => p.word 4
  | some f => f.1 * copySeg + f.2.1

/-- Code of a COPY: that of its first failed segment. -/
def Pkt.copyCode (p : Pkt) : Nat :=
  match p.fails.foldl (fun (m : Option (Nat × Nat × Nat)) f =>
    match m with | none => some f | some g => if f.1 < g.1 then some f else some g) none with
  | none => 0
  | some f => f.2.2

/-- A segment has ended; after the last the packet completes. -/
def State.endSegment (s : State) (q : Nat) (p : Pkt) : State :=
  let s1 := s.setPkt q p
  if p.segs = [] then s1.completePkt q p.num p.copyCode p.copied else s1

/-- A page of a segment of a COPY, of its source or of its destination, lies in a package that a test names. -/
def State.segAway (s : State) (ctx : Nat) (p : Pkt) (seg : Nat) (hit : Nat → Bool) : Bool :=
  let away (base kind : Nat) : Bool :=
    let at_ := base + seg * copySeg
    (List.range (copySeg / 4096 + 1)).any fun k =>
      let va := if k = 0 then at_ else (at_ / 4096 + k) * 4096
      decide (va < at_ + p.segLen seg) && (match s.walk ctx (va % 2 ^ 64) kind with
        | .leaf _ e level =>
          let pkg := paPkg (s.leafCopy 1024 ctx e level (va % 2 ^ 64)).1
          pkg != s.pkg && hit pkg
        | _ => false)
  away (p.word 2) 0 || away (p.word 3) 1

/-- An access of a COPY to another package fails: its first open segment that goes there fails with LINK, where it stands (R96, R313).
(DESIGN CHOICE, log entry 62) -/
def State.copyFails (s : State) (q : Nat) (p : Pkt) (hit : Nat → Bool) : State :=
  match p.segs.find? fun n => s.segAway (s.queue q).ctx p n hit with
  | none => s
  | some seg =>
    s.endSegment q { p with
      segs := p.segs.filter (· != seg), fails := p.fails ++ [(seg, if p.reqSeg = seg then p.reqAt else 0, 15)] }

/-- COPY_PACKET_SEGMENT_END: a segment is copied and ends (R90, R96). One that an engine error ends (`ok` false) fails with
DATA where it stands. (DESIGN CHOICE, log entry 20) -/
def execCopyPacketSegmentEnd (q : Fin 1024) (pkt seg : Nat) (ok : Bool) (s : State) : Res :=
  match (s.queue q.val).pkts.find? fun p => p.num == pkt with
  | none => .next s
  | some p =>
    if p.typ ≠ 2 ∨ p.state ≠ 1 ∨ p.req.isSome ∨ !p.segs.contains seg then .next s
    else
      let start := if p.reqSeg = seg then p.reqAt else 0
      let r0 : CopyRun := ⟨s, p, start, start, none, if ok then none else some (8, none)⟩
      let r := (List.range (2 * (p.segLen seg / 4096) + 4)).foldl (fun r _ => copyPiece (s.queue q.val).ctx seg r) r0
      let s1 := { r.s with free := r.s.free + 1 }
      match r.stop with
      | none => .next (s1.endSegment q.val { r.p with segs := p.segs.filter (· != seg), done := p.done ++ [seg] })
      | some (_, some id) =>
        if id = 0 then .next s
        else .next (s1.setPkt q.val { r.p with req := some id, reqSeg := seg, reqAt := r.mark })
      | some (code, none) =>
        .next (s1.endSegment q.val { r.p with
          segs := p.segs.filter (· != seg), fails := p.fails ++ [(seg, r.mark, code)] })

/-! ### WAIT, SIGNAL and MARK (R93) -/

/-- WAIT_PACKET: the packet begins to wait on its counter (R93). -/
def execWaitPacket (q : Fin 1024) (s : State) : Res :=
  match (if s.unserved q.val then none else (s.queue q.val).waitingPkt 3) with
  | none => .next s
  | some p => .next (s.setPkt q.val { p with state := 1 })

/-- Test a pending WAIT (R93): its counter at the target completes it, ERR fails it; in DRAINING it is cancelled. -/
def State.testWait (s : State) (q : Nat) (p : Pkt) : State :=
  let ctx := (s.queue q).ctx
  if p.typ ≠ 3 ∨ p.state ≠ 1 then s
  else if (s.ctx ctx).state = 5 then s.completePkt q p.num 0x80 0
  else if p.req.isSome then s
  else
    let r := s.cxPlace 0 ctx (p.word 2) 0
    match r.2 with
    | .at pa =>
      let c := r.1.word64 pa
      if r.1.locBad (.mem pa) 8 then r.1.completePkt q p.num 8 0
      else if c.testBit 63 then r.1.completePkt q p.num 0x82 0
      else if p.word 3 ≤ c then r.1.completePkt q p.num 0 0 else r.1
    | .fail code _ => r.1.completePkt q p.num code 0
    | .req id => r.1.setPkt q { p with req := some id }
    | .busy => r.1

/-- WAIT_COMPLETE (R93). -/
def execWaitComplete (q : Fin 1024) (pkt : Nat) (s : State) : Res :=
  match (s.queue q.val).pkts.find? fun p => p.num == pkt with
  | none => .next s
  | some p => if s.unserved q.val then .next s else .next (s.testWait q.val p)

/-- SIGNAL_PACKET: the packet steps its counter, raises the interrupt it asks for, and completes (R90, R93). -/
def execSignalPacket (q : Fin 1024) (s : State) : Res :=
  let x := s.queue q.val
  match (if s.unserved q.val then none else x.waitingPkt 4) with
  | none => .next s
  | some p =>
    let r := s.cxPlace 0 x.ctx (p.word 2) 2
    match r.2 with
    | .at pa =>
      let s1 := r.1.stepCounter pa (p.word 3) false
      if r.1.locBad (.mem pa) 8 then .next (r.1.completePkt q.val p.num 8 0) else
      .next ((if (p.word 4).testBit 0 then s1.irq (.completion x.ctx) else s1).completePkt q.val p.num 0 0)
    | .fail code _ => .next (r.1.completePkt q.val p.num code 0)
    | .req id => .next (r.1.setPkt q.val { p with req := some id })
    | .busy => .next r.1

/-- MARK_PACKET: the packet writes the clock's count into its record and completes (R90, R93, R336). -/
def execMarkPacket (q : Fin 1024) (s : State) : Res :=
  let x := s.queue q.val
  match (if s.unserved q.val then none else x.waitingPkt 5) with
  | none => .next s
  | some p =>
    let r := s.cxPlace 0 x.ctx ((p.word 2 + 8 * p.word 3) % 2 ^ 64) 1
    match r.2 with
    | .at pa => .next ((r.1.putNat pa 8 r.1.clk).completePkt q.val p.num 0 0)
    | .fail code _ => .next (r.1.completePkt q.val p.num code 0)
    | .req id => .next (r.1.setPkt q.val { p with req := some id })
    | .busy => .next r.1

/-! ### Re-testing waits (R102) -/

/-- COUNTER_POLL: every pending WAIT and every parked `qjoin` is tested again by the cores of the command complex that serve
them, but by none that is frozen (R102, R339, R345). (DEDUCED, log entry 56) -/
def execCounterPoll (s : State) : Res :=
  let waits := s.queues.flatMap fun x => if s.unserved x.1 then [] else x.2.pkts.map fun p => (x.1, p)
  let s1 := waits.foldl (fun s w => s.testWait w.1 w.2) s
  let joins := if s.cx0Frozen then [] else s1.teams.flatMap fun t => t.groups.flatMap fun g =>
    (g.tsets.filter fun ts => ts.phase == .parked .join).map fun ts => (t.id, g.index, ts.id)
  .next (joins.foldl (fun s c => match execQjoinRelease c.1 c.2.1 c.2.2 s with | .next s2 => s2 | _ => s) s1)

end Sys2Proof.Machine
end

