-- ==== Sys2Proof/Machine/Sched.lean ====
section
/-!
DEFINITION. Which thread set a core issues next, issue cycles and passes, and the start of a run (R125, R128, R131, R133,
R138, R347, R371).
-/
namespace Sys2Proof.Machine

/-! ### Readiness -/

/-- No thread set of the team begins a new run: it halts, is being swapped out, or its context is stopped (R65, R95,
R133). -/
def State.mayBegin (s : State) (t : Team) : Bool :=
  let c := s.ctx (s.ctxOf t)
  !t.halting && !t.wantSwap && (c.state == 2 || c.state == 4)

/-- The thread set may issue a word. -/
def TSet.canIssue (ts : TSet) (begin_ : Bool) : Bool :=
  ts.phase == .ready && !ts.stop && !ts.dying && (!ts.fresh || begin_)

/-- The thread set of a team may issue: a team whose parked runs have been discarded for a swap issues nothing (R133). -/
def State.mayIssue (s : State) (t : Team) (ts : TSet) : Bool := t.leaving.isNone && ts.canIssue (s.mayBegin t)

/-! ### Candidates (R128, R138) -/

/-- The candidate of a group: its oldest promoted set, else its ready set of the lowest PC; a set held by a `yield` is none while
another is ready, held or not. -/
def State.candidate (s : State) (t : Team) (g : Group) : Option TSet :=
  let ready := g.tsets.filter fun ts => s.mayIssue t ts
  let free := ready.filter fun ts => ts.hold.isNone
  leastOf (fun ts => match ts.promoted with | some p => [0, p, ts.pc] | none => [1, ts.pc, ts.id])
    (if free = [] ∧ ready.length = 1 then ready else free)

/-- Role kinds in issue order: `mx`, `copy`, `epi`, `gen`. -/
def kindRank (k : Nat) : Nat := match k with | 2 => 0 | 1 => 1 | 3 => 2 | _ => 3

/-- The order among a core's candidates. -/
def State.issueKey (s : State) (t : Team) (g : Group) (ts : TSet) : List Nat :=
  let l := s.launchOf t
  let kind := match l.kernel.roles[g.role]? with | some r => r.kind | none => 0
  (match ts.promoted with | some p => [0, p] | none => [1, 0]) ++
    [3 - l.pri, kindRank kind, ts.readyAt, g.index, t.index, l.num.toNat, l.ctx]

/-- Groups of resident teams, with the core each runs on. -/
def State.groupsOn (s : State) : List (Nat × Team × Group) :=
  (s.teams.filter (·.resident)).flatMap fun t => t.groups.map fun g => (t.coreNo (s.tcore t g.index), t, g)

/-- A group has a slot in the current issue cycle of its core. -/
def State.slotTaken (s : State) (core : Nat) (g : Group) : Bool := decide (aget 0 s.issue core < g.slotAt)

/-- The candidate that a core issues next, with whether a new issue cycle begins (R128, R347, R371). -/
def State.corePick (s : State) (core : Nat) (gs : List (Nat × Team × Group)) : Option (Cur × Bool) :=
  let mine := gs.filter fun x => x.1 == core
  let cands := mine.filterMap fun x => (s.candidate x.2.1 x.2.2).map fun ts => (x.2.1, x.2.2, ts)
  let key (x : Team × Group × TSet) : List Nat := s.issueKey x.1 x.2.1 x.2.2
  let cur (x : Team × Group × TSet) : Cur := (x.1.id, x.2.1.index, x.2.2.id)
  let used := (mine.filter fun x => s.slotTaken core x.2.2).length
  let rest := cands.filter fun x => !s.slotTaken core x.2.1
  -- a die whose clock stops finishes the issue cycle in progress, with what was ready when it was told to stop
  let stopped := s.clockStopped (core / 16)
  let begun := if stopped then rest.filter fun x => decide (x.2.2.readyAt < aget 0 s.pwr.stopAt (core / 16)) else rest
  if s.coreFrozen core then none
  else if used < 4 ∧ begun ≠ [] ∧ used ≠ 0 then (leastOf key begun).map fun x => (cur x, false)
  else if stopped then none
  else (leastOf key cands).map fun x => (cur x, true)

/-- Each core's next issue, the core whose issue cycle began first coming first. -/
def State.wordMoves (s : State) : List (Cur × Nat × Bool) :=
  let gs := s.groupsOn
  let cores := (gs.map (·.1)).foldl (fun r c => sinsert c r) []
  ksort (cores.filterMap fun c => (s.corePick c gs).map fun x => (256 * aget 0 s.issue c + c, (x.1, c, x.2)))

/-- The ready sets of a core's groups that the ending cycle passed over, and the holds of yields counted down. -/
def State.endCycle (s : State) (core : Nat) : State :=
  let start := aget 0 s.issue core
  let any := s.groupsOn.any fun x => x.1 == core && s.slotTaken core x.2.2
  let count (t : Team) (ts : TSet) : TSet :=
    let ready := s.mayIssue t ts
    { ts with
      pass := if any && ready && decide (ts.readyAt < start) && decide (ts.slotAt ≤ start) then ts.pass + 1 else ts.pass
      hold := ts.hold.map fun n => n - 1 }
  let group (t : Team) (g : Group) : Group :=
    if t.coreNo (s.tcore t g.index) = core then { g with tsets := g.tsets.map (count t) } else g
  let team (t : Team) : Team := if t.resident then { t with groups := t.groups.map (group t) } else t
  { s with teams := s.teams.map team }

/-- The words of a set's open run with the times at which they were first issued, as it issues the one it stands at (R116). -/
def TSet.noteWord (ts : TSet) (clk : Nat) : List (Nat × Nat) :=
  if ts.words.head?.map (·.1) = some ts.pc then ts.words else (ts.pc, clk) :: ts.words

/-- Give a thread set a slot, in a new issue cycle where `new` (R128). A set that begins its run takes a fresh draw, and ends
the hold of its group's other sets (R138). -/
def State.giveSlot (s : State) (c : Cur) (core : Nat) (new : Bool) : State :=
  let s1 := if new then { s.endCycle core with issue := aset 0 s.issue core s.clk } else s
  match s1.view c with
  | none => s1
  | some (_, _, ts0) =>
    let mine (ts : TSet) : TSet :=
      if ts.fresh then
        { ts with
          fresh := false, start := ts.pc, mid := false, begun := s.clk, draw := s1.free, temps := [], temps0 := []
          pass := 0, promoted := none, slotAt := s.clk + 1, words := [(ts.pc, s.clk)], roOwn := [] }
      else { ts with pass := 0, promoted := none, slotAt := s.clk + 1, words := ts.noteWord s.clk }
    let step (g : Group) (ts : TSet) : TSet :=
      if ts.id = c.2.2 then { mine ts with fl0 := if ts.fresh then g.fflg else ts.fl0 }
      else if ts0.fresh && ts.hold.isSome then { ts with hold := none, readyAt := s.clk } else ts
    let s2 := s1.onGroup c.1 c.2.1 fun g => { g with slotAt := s.clk + 1, tsets := g.tsets.map (step g) }
    { s2 with free := if ts0.fresh then s2.free + 1 else s2.free, cur := some c }

/-- On a core that has a held set and issues nothing, an issue cycle passes with each ac (R138). -/
def State.idleCycles (s : State) : State :=
  let held (g : Group) : Bool := g.tsets.any fun ts => ts.hold.isSome
  let gs := s.groupsOn
  let idle (core : Nat) : Bool := !s.coreIdle core && (s.corePick core gs).isNone
  let group (t : Team) (g : Group) : Group :=
    if held g && idle (t.coreNo (s.tcore t g.index)) then
      { g with tsets := g.tsets.map fun ts => { ts with hold := ts.hold.map fun n => n - 1 } } else g
  { s with teams :=
      if s.teams.any fun t => t.resident && t.groups.any held then
        s.teams.map fun t => if t.resident then { t with groups := t.groups.map (group t) } else t
      else s.teams }

/-! ### Promotion and the end of holds (R56, R128, R138) -/

/-- CONV_WAIT_EXPIRY: a set that has waited 256 ac for others bound for its target is ready, and merges (R56, R125). -/
def execConvWaitExpiry (team group tset : Nat) (s : State) : Res :=
  match s.view (team, group, tset) with
  | none => .next s
  | some (_, g, ts) =>
    match ts.phase with
    | .conv since =>
      if since + 256 ≤ s.clk ∧ !ts.stop then
        .next (s.onGroup team group fun _ => g.join s.clk { ts with phase := .ready, readyAt := s.clk })
      else .next s
    | _ => .next s

/-- PROMOTION: a set passed over in 64 issue cycles is promoted (R128). -/
def execPromotion (team group tset : Nat) (s : State) : Res :=
  match s.view (team, group, tset) with
  | none => .next s
  | some (_, _, ts) =>
    if 64 ≤ ts.pass ∧ ts.promoted = none then .next (s.onTset (team, group, tset) fun x => { x with promoted := some s.clk })
    else .next s

/-- YIELD_EXPIRY: the hold of a `yield` ends after 64 issue cycles, and the ready age restarts (R138). -/
def execYieldExpiry (team group tset : Nat) (s : State) : Res :=
  match s.view (team, group, tset) with
  | none => .next s
  | some (_, _, ts) =>
    if ts.hold = some 0 then .next (s.onTset (team, group, tset) fun x => { x with hold := none, readyAt := s.clk })
    else .next s

end Sys2Proof.Machine
end

