-- ==== Sys2Proof/Machine/EvTeam.lean ====
section
/-!
DEFINITION. The dispatcher: placing, swapping, restoring and retiring teams, and cancelling launches (R13, R21, R66, R72,
R94 to R96, R101, R119 to R124, R130 to R135, R256).
-/
namespace Sys2Proof.Machine

/-! ### What a team needs of a core (R94, R108, R122) -/

/-- The kernel declares an `mx` role or a nonzero FIFOS. -/
def Kernel.usesArray (k : Kernel) : Bool := k.fifos != 0 || k.roles.any (·.kind == 2)

/-- Groups of a team core. -/
def Kernel.groupsOf (k : Kernel) (tc : Nat) : List Nat := (List.range k.groupCount).filter fun g => k.coreOf g == tc

/-- Lane registers of a team core's groups. -/
def Kernel.regsOf (k : Kernel) (tc : Nat) : Nat :=
  ((k.groupsOf tc).map fun g => match k.roles[roleOf k.roles g]? with | some r => 32 * r.budget | none => 0).sum

/-- Banks that a kernel without a plan takes on a team core: its scratch spread evenly over the team's cores. -/
def Kernel.share (k : Kernel) (tc : Nat) : Nat :=
  let n := (k.scratch + bankBytes - 1) / bankBytes
  let m := (n + k.cores - 1) / Nat.max k.cores 1
  Nat.min m (n - m * tc)

/-- Banks that a plan names on a team core. (DESIGN CHOICE, log entry 16) -/
def planBanks (plan : List PlanEnt) (tc : Nat) : List Nat :=
  ((plan.filter fun e => e.core == tc).map (·.bank)).foldr sinsert []

/-- Team cores of a team that stand on a core of the package. -/
def Team.coresAt (t : Team) (core : Nat) : List Nat := (List.range t.cores.length).filter fun tc => t.coreNo tc == core

/-- Resident teams of a core, each with its kernel, the kernel's handle, and its team core. -/
def State.onCore (s : State) (core : Nat) : List (Team × Kernel × Nat × Nat) :=
  (s.teams.filter (·.resident)).flatMap fun t =>
    match s.launch? t.launch with
    | none => []
    | some l => (t.coresAt core).map fun tc => (t, l.kernel, l.handle, tc)

/-- Banks of a core that are free: neither held nor OFFLINE. -/
def State.freeBanks (s : State) (core : Nat) : List Nat :=
  let held := (s.onCore core).flatMap fun x => planBanks x.1.plan x.2.2.2
  (List.range 32).filter fun b => !held.contains b && !(s.core core).offline.contains b

/-- A core has room for team core `tc` of a kernel with the handle `name`; `plan` names its banks, or is none before a kernel
without one is placed. -/
def State.coreFits (s : State) (k : Kernel) (name : Nat) (plan : Option (List PlanEnt)) (core tc : Nat) : Bool :=
  let here := s.onCore core
  let others := here.filter fun x => x.2.2.1 != name
  let groups := (here.map fun x => (x.2.1.groupsOf x.2.2.2).length).sum
  let regs := (here.map fun x => x.2.1.regsOf x.2.2.2).sum
  let free := s.freeBanks core
  !s.dieCut (core / 16) && decide (groups + (k.groupsOf tc).length ≤ 64) && decide (regs + k.regsOf tc ≤ 262144) &&
  others.all (fun x => (others.headD x).2.2.1 == x.2.2.1) &&
  (others == [] || (k.planned && others.all fun x => x.2.1.planned)) &&
  !(k.usesArray && here.any fun x => x.2.1.usesArray) &&
  (match plan with
    | some p => (planBanks p tc).all free.contains
    | none => decide (k.share tc ≤ free.length))

/-- Cores of a die. -/
def dieCores (die : Nat) : List Nat := (List.range 16).map (16 * die + ·)

/-- Teams of `n` team cores each, placed in part, with one more core: it is left out, or becomes the next team core of a team
that it fits. Placements that hold equally many teams of each length are alike, and one of them is kept. -/
def growTeams (fits : Nat → Nat → Bool) (n : Nat) (found : List (List (List Nat))) (core : Nat) : List (List (List Nat)) :=
  let shape (ts : List (List Nat)) : List Nat := (List.range (n + 1)).map fun k => (ts.filter fun t => t.length == k).length
  let grown := found.flatMap fun ts => (List.range n).filterMap fun tc =>
    if fits tc core then (ts.findIdx? fun t => t.length == tc).map fun i => ts.set i (ts.getD i [] ++ [core]) else none
  grown.foldl (fun acc ts => if acc.any (fun x => shape x == shape ts) then acc else acc ++ [ts]) found

/-- Cores among `cs`, which rise, for `teams` alike teams of `n` team cores each, each team's in rising order, where there is
any such choice (R122); `fits` tests a team core and a core. -/
def packCores (fits : Nat → Nat → Bool) (cs : List Nat) (n teams : Nat) : Option (List Nat) :=
  let found := cs.foldl (growTeams fits n) [List.replicate teams []]
  (found.find? fun ts => ts.all fun t => t.length == n).map List.flatten

/-- Cores for as many of the alike teams as a die can hold, among those not kept back (R94). -/
def State.fillDie (s : State) (k : Kernel) (name : Nat) (plans : List (Option (List PlanEnt))) (avoid : List Nat) (die : Nat) :
    Nat → Option (List Nat)
  | 0 => none
  | n + 1 =>
    match packCores (fun tc c => s.coreFits k name (plans.headD none) c tc) ((dieCores die).filter fun c => !avoid.contains c)
        k.cores (n + 1) with
    | some cs => some cs
    | none => s.fillDie k name plans avoid die n

/-- Cores for teams with plans of their own, one after another, each on the first die that holds it. -/
def State.eachCores (s : State) (k : Kernel) (name : Nat) (dies : List Nat) :
    List (Option (List PlanEnt)) → List Nat → Option (List Nat)
  | [], used => some used
  | p :: ps, used =>
    match dies.findSome? fun d =>
      packCores (fun tc c => s.coreFits k name p c tc) ((dieCores d).filter fun c => !used.contains c) k.cores 1 with
    | none => none
    | some cs => s.eachCores k name dies ps (used ++ cs)

/-- Cores for teams that are alike, on the dies in rising order, each of which takes as many as it can hold. -/
def State.gangCores (s : State) (k : Kernel) (name : Nat) (avoid : List Nat) :
    List Nat → List (Option (List PlanEnt)) → Option (List Nat)
  | _, [] => some []
  | [], _ :: _ => none
  | d :: ds, plans =>
    match s.fillDie k name plans avoid d (Nat.min plans.length (16 / Nat.max k.cores 1)) with
    | none => s.gangCores k name avoid ds plans
    | some cs => (s.gangCores k name avoid ds (plans.drop (cs.length / Nat.max k.cores 1))).map fun r => cs ++ r

/-- A placement for teams that are placed together, on cores that are not kept back: on any dies, or for a `near` gang on one (R94).
(DESIGN CHOICE, log entry 16) -/
def State.findPlace (s : State) (k : Kernel) (name : Nat) (plans : List (Option (List PlanEnt))) (avoid : List Nat) :
    Option (List Nat) :=
  let on (dies : List Nat) : Option (List Nat) :=
    if plans.all fun p => p == plans.headD none then s.gangCores k name avoid dies plans
    else (s.eachCores k name dies plans avoid).map fun cs => cs.drop avoid.length
  if k.gang ≠ 0 ∧ k.lat = 0 then (List.range 16).findSome? fun d => on [d] else on (List.range 16)

/-- The cores of team `i` in a placement. -/
def Kernel.slice (k : Kernel) (cores : List Nat) (i : Nat) : List Nat := (cores.drop (i * k.cores)).take k.cores

/-- A placement that the dispatcher may choose: distinct cores, each team on one die with its team cores numbered in rising
order of `sr.core`, the gang's latency class met, and room on every core (R94, R122). -/
def State.placeOk (s : State) (k : Kernel) (name : Nat) (plans : List (Option (List PlanEnt))) (cores : List Nat) : Bool :=
  cores.length == k.cores * plans.length && cores.all (fun c => decide (c < 256)) &&
  (cores.foldr sinsert []).length == cores.length &&
  (!(k.gang != 0 && k.lat == 0) || cores.all fun c => c / 16 == cores.headD 0 / 16) &&
  plans.zipIdx.all fun x =>
    let mine := k.slice cores x.2
    (mine.all fun c => c / 16 == mine.headD 0 / 16) && ((mine.zip (mine.drop 1)).all fun c => decide (c.1 < c.2)) &&
      mine.zipIdx.all fun c => s.coreFits k name x.1 c.1 c.2

/-! ### Swap images (R72) -/

/-- Bytes of a team's image. (DESIGN CHOICE, log entry 23) -/
def Kernel.imageBytes (k : Kernel) : Nat :=
  let n := 65536 + k.scratch + k.scratch / 128 + (k.roles.map fun r => r.groups * (256 * r.budget + 4096)).sum +
    262144 * (k.plan.filter fun e => e.kind == 1).length + 524288 * (if k.usesArray then k.cores else 0)
  (n + 65535) / 65536 * 65536

/-- Free bytes of a context's swap area. -/
def State.swapRoom (s : State) (ctx : Nat) : Nat :=
  let used := (s.teams.map fun t => if s.ctxOf t = ctx then (match t.out with | some o => o.size | none => 0) else 0).sum
  fieldOf (s.ctx ctx).swlen.toNat 0 32 * 2 ^ 21 - used

/-- The quantum in force (R132). -/
def State.quantum (s : State) : Nat := Nat.max (fieldOf s.cxq.quant.toNat 0 32) 65536

/-! ### Lanes that wait (R132) -/

/-- The set is parked: it waits and does not issue. -/
def TSet.waits (ts : TSet) : Bool :=
  match ts.phase with | .parked _ => true | .post _ => true | .await => true | .inHandler _ => true | _ => false

/-- Every lane of the team is parked. -/
def Team.allParked (t : Team) : Bool := t.groups.all fun g => g.tsets.all (·.waits)

/-- A set of the team waits in `qjoin`. -/
def Team.joiner (t : Team) : Bool := t.groups.any fun g => g.tsets.any fun ts => ts.phase == .parked .join

/-- The counters a set joins, with their values. -/
def State.joinCounts (s : State) (ts : TSet) : List (Nat × Nat) :=
  ts.held.flatMap fun h => match h.act with
    | .qjoin _ ps => ps.map fun p => (p.2.1, s.word64 p.2.1)
    | _ => []

/-- Walks that the sets of a team wait for, with or without a page request. -/
def State.teamWalks (s : State) (id : Nat) : List Nat :=
  (s.walks.filter fun k => k.waiters.any fun m => match m with | .set t _ _ => t == id | .engine _ => false).map (·.id)

/-- A set of the team is parked for a reason. -/
def Team.parkedFor (t : Team) (p : Park) : Bool := t.groups.any fun g => g.tsets.any fun ts => ts.phase == .parked p

/-- Commands in the copy engines of a team's cores, where a set waits for room in one. -/
def State.teamRooms (s : State) (t : Team) : List Nat :=
  if t.parkedFor .copyRoom then (s.cmds.filter fun c => t.cores.contains (s.cmdCore c)).map (·.id) else []

/-- Links that hold their traffic, where a set waits for one. -/
def State.teamLinks (s : State) (t : Team) : List Nat :=
  if t.parkedFor .link || t.groups.any (fun g => g.tsets.any fun ts => ts.phase == .post .stores) then (s.links.filter fun x => x.2.holds).map (·.1) else []

/-- Remote loads and atomics of a team in flight, which its sets wait for. -/
def State.teamWorks (s : State) (id : Nat) : List Nat := (s.accesses.filter fun a => a.team == id && a.kind != 1).map (·.id)

/-- Phases of a team's thread sets. -/
def Team.phases (t : Team) : List (Nat × Nat × Phase) := t.groups.flatMap fun g => g.tsets.map fun ts => (g.index, ts.id, ts.phase)

/-- A page is under migration. -/
def State.migrating (s : State) : Bool := s.pg.migs.any fun m => m.2.busy

/-- What a team's lanes wait on as their parked runs are discarded; `after` gives the phases that the sets have then
(R132, R133). -/
def State.waitsOf (s : State) (t : Team) (after : List (Nat × Nat × Phase)) : Swapped where
  size := (s.kernelOf t).imageBytes
  parked := t.allParked
  why := t.phases.map (·.2.2)
  tags := t.tags
  bars := t.bars
  sigs := t.groups.map (·.sig)
  counts := t.groups.flatMap fun g => g.tsets.flatMap fun ts => if ts.phase = .parked .join then s.joinCounts ts else []
  walks := s.teamWalks t.id
  rooms := s.teamRooms t
  links := s.teamLinks t
  sets := after
  works := s.teamWorks t.id
  kids := t.children.length
  nests := (t.nests.filter fun n => n.2.armed.isSome).map (·.1)
  mig := s.migrating
  chunks := []

/-- An event that a lane of a swapped-out team waits on has come: one of the kind for which a set of it waits (R132). -/
def State.woken (s : State) (t : Team) (o : Swapped) : Bool :=
  let for_ (p : Phase) : Bool := match p with
    | .parked .tile => t.tags != o.tags
    | .parked .signalRoom | .await => (t.groups.map (·.sig)) != o.sigs
    | .parked .queueFull => t.children.length != o.kids
    | .parked .migrating => o.mig && !s.migrating
    | .parked .armed => o.nests.any fun c => (t.nest c).armed.isNone
    | .parked .join => o.counts.any fun c => s.word64 c.1 != c.2
    | .parked .walk => o.walks.any fun k => !s.walks.any fun w => w.id == k
    | .parked .copyRoom => o.rooms.any fun k => !s.cmds.any fun c => c.id == k
    | .parked .link | .post .stores => o.links.any fun n => !(s.link n).holds
    | .parked (.remote _) | .post .atomics => o.works.any fun k => !s.accesses.any fun a => a.id == k
    | .post (.barrier b) => t.bar b != aget barNone o.bars b
    | _ => false
  t.phases != o.sets || o.why.any for_

/-- The team may be restored. -/
def State.restorable (s : State) (t : Team) : Bool :=
  let c := s.ctx (s.ctxOf t)
  !t.resident && !t.halting && (c.state == 2 || c.state == 4) &&
    (match t.out with | some o => !o.parked || s.woken t o | none => true)

/-! ### Teams that wait for room (R94, R132) -/

/-- Teams placed and swapped together: the team's gang, or itself. -/
def State.mates (s : State) (t : Team) : List Team := if (s.kernelOf t).gang = 0 then [t] else s.gangOf t

/-- A wait for room: its priority and age, and a launch's next team or a swapped-out one. -/
structure Wait where
  rank  : List Nat
  id    : Nat
  k     : Kernel
  name  : Nat
  plans : List (Option (List PlanEnt))
  child : Bool
  deriving DecidableEq, Repr

/-- A kernel's plan as a placement sees it. -/
def Kernel.planOf (k : Kernel) : Option (List PlanEnt) := if k.planned then some k.plan else none

/-- The launch's next team waits to be dispatched. -/
def State.launchWaits (s : State) (l : Launch) : Bool :=
  l.phase == 1 && l.read && !s.launchStopped l && !s.launchHeld l && (s.ctx l.ctx).state == 2 && decide (l.nextTeam < l.total)

/-- A launch's wait. -/
def Launch.wait (l : Launch) : Wait where
  rank := [4 - (if l.boosted then 4 else l.pri), l.waitSince, l.id]
  id := l.id
  k := l.kernel
  name := l.handle
  plans := List.replicate l.kernel.gangTeams l.kernel.planOf
  child := l.parent.isSome

/-- A swapped-out team's wait, with its gang. R132 does not say from when it has waited for room: the model counts from its swap, the
time in which all its lanes were parked included. (DESIGN CHOICE, log entry 65) -/
def State.teamWait (s : State) (t : Team) : Option Wait :=
  let ms := s.mates t
  match s.launch? t.launch with
  | none => none
  | some l =>
    if (ms.head?.map (·.id)) = some t.id ∧ ms.any s.restorable ∧ ms.all (fun u => !u.resident && !u.halting) then
      some { rank := [4 - (if t.boosted then 4 else l.pri), t.swappedAt, t.id], id := t.id, k := l.kernel
             name := l.handle, plans := ms.map fun u => some u.plan, child := false }
    else none

/-- Every wait for room. -/
def State.waits (s : State) : List Wait :=
  (s.launches.filter s.launchWaits).map Launch.wait ++ s.teams.filterMap s.teamWait

/-- The wait fits somewhere now, on cores that are not kept back. -/
def State.fitsNow (s : State) (w : Wait) (avoid : List Nat := []) : Option (List Nat) := s.findPlace w.k w.name w.plans avoid

/-- The preference among teams swapped out to make room; none where the team stays. Within its first two classes R132 gives no order:
the model takes that of the third, the lowest priority and then the longest resident. (DESIGN CHOICE, log entry 65) -/
def State.swapClass (s : State) (t : Team) : Option (List Nat) :=
  let pri := match s.launch? t.launch with | some l => l.pri | none => 0
  if t.joiner then some [0, pri, t.placedAt, t.id]
  else if t.allParked then some [1, pri, t.placedAt, t.id]
  else if t.quantum then some [2, pri, t.placedAt, t.id]
  else none

/-- The preference of a gang: that of its least preferred team. (DESIGN CHOICE, log entry 16) -/
def State.gangClass (s : State) (t : Team) : Option (List Nat) :=
  (s.mates t).foldl (fun acc u =>
    match acc, s.swapClass u with
    | some a, some b => some (if lexLt a b then b else a)
    | _, _ => none) (some [])

/-- Bytes of the images of a team and its gang. -/
def State.imagesOf (s : State) (t : Team) : Nat := ((s.mates t).map fun _ => (s.kernelOf t).imageBytes).sum

/-- The images fit the area of the team's context. -/
def State.imageFits (s : State) (t : Team) : Bool := decide (s.imagesOf t ≤ s.swapRoom (s.ctxOf t))

/-- Resident teams that may leave, in the order in which they are swapped out to make room; those whose quantum has not passed come
last (R132). -/
def State.swapOrder (s : State) : List Team :=
  let key (t : Team) : List Nat := (s.gangClass t).getD [3, (s.launchOf t).pri, t.placedAt, t.id]
  (s.teams.filter fun t => t.resident && (t.halting || s.imageFits t)).foldr (fun t acc =>
    let before := acc.takeWhile fun u => lexLt (key u) (key t)
    before ++ t :: acc.drop before.length) []

/-- The cores that a wait gets once as many teams of a list have left, with their gangs, as it needs. -/
def roomAfter (w : Wait) : List Team → State → Option (List Nat)
  | [], s => s.fitsNow w
  | t :: ts, s =>
    match s.fitsNow w with
    | some cs => some cs
    | none =>
      let ms := (s.mates t).map (·.id)
      roomAfter w ts { s with teams := s.teams.filter fun u => u.id != t.id && !ms.contains u.id }

/-- The cores on which room is being made for a wait. -/
def State.roomMade (s : State) (w : Wait) : List Nat := (roomAfter w s.swapOrder s).getD []

/-- Waits that rank before one. -/
def State.ahead (s : State) (w : Wait) : List Wait := s.waits.filter fun x => lexLt x.rank w.rank

/-- Cores kept back from a wait: room is being made on them for one that has waited eight quanta, ranks before it, and does not fit
(R131, R132). (DESIGN CHOICE, log entry 16) -/
def State.reserved (s : State) (w : Wait) : List Nat :=
  ((s.ahead w).filter fun x => x.rank.headD 1 == 0 && (s.fitsNow x).isNone).flatMap s.roomMade

/-- The wait may have the cores: no wait that ranks before it fits in the room that remains to that one, and none of the cores is kept
back. A wait that does not fit holds back no other (R94, R132). (DESIGN CHOICE, log entry 16) -/
def State.isNext (s : State) (w : Wait) (cores : List Nat) : Bool :=
  (s.ahead w).all (fun x => (s.fitsNow x (s.reserved x)).isNone) && !(cores.any (s.reserved w).contains)

/-! ### Placing (R94, R108, R122 to R124, R225) -/

/-- The plan of a kernel without one, over the banks that are free on its cores. (DESIGN CHOICE, log entry 16) -/
def State.assignBanks (s : State) (k : Kernel) (cores : List Nat) : List PlanEnt :=
  (List.range k.cores).flatMap fun tc =>
    let banks := (s.freeBanks (cores.getD tc 0)).take (k.share tc)
    let first := (k.scratch + bankBytes - 1) / bankBytes
    let m := (first + k.cores - 1) / Nat.max k.cores 1
    banks.zipIdx.map fun b =>
      let off := (m * tc + b.2) * bankBytes
      ⟨0, tc, b.1, 0, off, Nat.min bankBytes (k.scratch - off), 0, 2 ^ 32 - 1⟩

/-- A group at launch (R124). -/
def newGroup (l : Launch) (index clk : Nat) : Group where
  index := index
  role := roleOf l.kernel.roles index
  v := []
  g := l.params.zipIdx.foldl (fun m x => aset marker m x.2 x.1) []
  p := []
  ls := []
  sig := []
  fflg := 0
  seed := 0
  recb := []
  uev := []
  stk := []
  depth := []
  exited := []
  tHist := []
  copies := []
  roSeen := []
  roFence := []
  rels := []
  runs := 0
  slotAt := 0
  tsets := [newSet 0 lanes32 0 clk]
  nextTs := 1

/-- The team handle that a message of this package is addressed under; none where its destination is memory (R319). -/
def MsgArgs.handle? (a : MsgArgs) : Option Nat := if a.kind = 0 then none else some (fieldOf a.dst 25 16)

/-- A handle that no team has and nothing in flight is addressed under: fragments, messages and accesses (R232).
(DESIGN CHOICE, log entry 16) -/
def State.freeHandle (s : State) : Nat :=
  let used := s.teams.map (·.handle) ++ s.frags.map (·.handle) ++ s.msgs.filterMap fun m => m.args.handle?
  ((List.range (used.length + 1)).find? fun h => !used.contains h).getD 0

/-- A team at its first placement. (DESIGN CHOICE, log entry 4) -/
def State.newTeam (s : State) (l : Launch) (index : Nat) (cores : List Nat) : Team where
  id := s.nextId
  launch := l.id
  index := index
  handle := s.freeHandle
  cores := cores
  resident := true
  plan := if l.kernel.planned then l.kernel.plan else s.assignBanks l.kernel cores
  scr := []
  bad := []
  tags := []
  ovc := 0
  ovlast := 0
  windows := []
  slots := []
  next := 0
  released := []
  closed := []
  bars := (List.range 16).foldl (fun m b => aset barNone m b { barNone with e := l.kernel.threads }) []
  children := []
  kids := 0
  nests := []
  fifos := []
  pend := []
  groups := (List.range l.kernel.groupCount).map fun g => newGroup l g s.clk
  halting := false
  placedAt := s.clk
  slice := s.quantum
  quantum := false
  wantSwap := false
  swappedAt := 0
  leaving := none
  out := none
  boosted := false
  roT0 := s.wseq
  unf := []

/-- Place the launch's next team, or its next gang. The wait of the team after it begins then, at the launch's own priority: R132 does
not say from when that wait counts. (DESIGN CHOICE, log entry 65) -/
def State.place (s : State) (l : Launch) (cores : List Nat) : State :=
  let n := l.kernel.gangTeams
  let d : State × Launch := if l.nextTeam = 0 then (s.trace (s.launchRec l 14)).countDispatch l else (s, l)
  let s0 := d.1
  let l := d.2
  let s1 := (List.range n).foldl (fun s i =>
    let t := s.newTeam l (l.nextTeam + i) (l.kernel.slice cores i)
    { s with teams := s.teams ++ [t], nextId := s.nextId + 1 }) s0
  s1.setLaunch { l with
    nextTeam := l.nextTeam + n, first := if l.first = 0 then s.clk else l.first, waitSince := s.clk, boosted := false }

/-- A parked joiner of a context could be swapped out but for the room of the swap area (R101). -/
def State.joinerStuck (s : State) (ctx : Nat) : Bool :=
  s.teams.any fun t => t.resident && s.ctxOf t == ctx && t.joiner && decide (s.swapRoom ctx < (s.kernelOf t).imageBytes)

/-- A team of a context could be swapped out: its image fits. -/
def State.swappable (s : State) (ctx : Nat) : Bool :=
  s.teams.any fun t => t.resident && s.ctxOf t == ctx && decide ((s.kernelOf t).imageBytes ≤ s.swapRoom ctx)

/-- TEAM_PLACEMENT: the launch's next team, or gang, is placed on the given cores, when no wait of a higher rank fits
(R94, R132). A launch that no placement could hold completes with LAUNCH, and so does a child that the swap area keeps
from its room (R101). -/
def execTeamPlacement (launch : Nat) (cores : List Nat) (s : State) : Res :=
  match s.launch? launch with
  | none => .next s
  | some l =>
    if !s.launchWaits l then .next s
    else
      let w := l.wait
      let empty : State := { s with teams := [] }
      if l.nextTeam = 0 ∧ (empty.fitsNow w).isNone then .next (s.failLaunch l 0x0E 0 3)
      else if s.placeOk w.k w.name w.plans cores ∧ s.isNext w cores then .next (s.place l cores)
      else if w.child ∧ l.nextTeam = 0 ∧ (s.fitsNow w).isNone ∧ s.joinerStuck l.ctx ∧ !s.swappable l.ctx then
        .next (s.failLaunch l 0x0E 0 7)
      else .next s

/-! ### Timers of the dispatcher (R132) -/

/-- QUANTUM_EXPIRY: a team has been resident for its quantum. -/
def execQuantumExpiry (team : Nat) (s : State) : Res :=
  match s.team? team with
  | none => .next s
  | some t =>
    if t.resident ∧ t.placedAt + t.slice ≤ s.clk ∧ !t.quantum then .next (s.setTeam { t with quantum := true }) else .next s

/-- WAIT_PRIORITY_BOOST: what has waited for room through eight quanta ranks at priority 4; the identifier names a
swapped-out team or a launch whose next team waits. -/
def execWaitPriorityBoost (team : Nat) (s : State) : Res :=
  match s.team? team, s.launch? team with
  | some t, _ =>
    if (s.teamWait t).isSome ∧ t.swappedAt + 8 * s.quantum ≤ s.clk ∧ !t.boosted then
      .next (s.setTeam { t with boosted := true }) else .next s
  | none, some l =>
    if s.launchWaits l ∧ l.waitSince + 8 * s.quantum ≤ s.clk ∧ !l.boosted then
      .next (s.setLaunch { l with boosted := true }) else .next s
  | none, none => .next s

/-- PARKED_RESTORE_TIMEOUT: after eight quanta a swapped-out team whose lanes are all parked is restored in any case. -/
def execParkedRestoreTimeout (team : Nat) (s : State) : Res :=
  match s.team? team with
  | none => .next s
  | some t =>
    match t.out with
    | none => .next s
    | some o =>
      if o.parked ∧ t.swappedAt + 8 * s.quantum ≤ s.clk then
        .next (s.setTeam { t with out := some { o with parked := false } }) else .next s

/-! ### Swapping out (R66, R72, R132, R133) -/

/-- Something waits for room that it does not find. -/
def State.roomWanted (s : State) : Bool := s.waits.any fun w => (s.fitsNow w).isNone

/-- The team is to be swapped out: its context is suspended, or room is wanted and no team is preferred to it. -/
def State.toSwap (s : State) (t : Team) : Bool :=
  t.resident && !t.halting && s.imageFits t &&
  ((s.ctx (s.ctxOf t)).state == 3 ||
    (match s.gangClass t with
      | none => false
      | some r => s.roomWanted && s.teams.all fun u =>
          !u.resident || u.halting || !s.imageFits u || (s.mates u).any (fun v => v.id == t.id) ||
            (match s.gangClass u with | some x => !lexLt x r | none => true)))

/-- A copy waits only for room in its FIFO. -/
def State.fifoStalled (s : State) (c : Cmd) : Bool :=
  c.args.dstSp == 2 &&
    (match s.team? c.team with | none => true | some t => c.open_.all fun n => !s.segEnabled c t n) &&
    c.ranks.any fun r => match s.team? r.1 with | some u => (u.fifo r.2 c.args.dst).room == 0 | none => false

/-- The team's image can be written: its parked runs are discarded, and its copies have run to completion, but for what waits
for room in a FIFO (R133). -/
def State.readyOut (s : State) (t : Team) : Bool :=
  t.leaving.isSome && (s.cmds.filter fun c => c.team == t.id).all s.fifoStalled

/-- Virtual address of a 64 KiB chunk of a context's swap area (R72). -/
def Ctx.chunkVa (c : Ctx) (chunk : Nat) : Nat := fieldOf c.swap.toNat 21 36 * 2 ^ 21 + 65536 * chunk

/-- Chunks of a context's swap area that hold images. -/
def State.usedChunks (s : State) (ctx : Nat) : List Nat :=
  s.teams.flatMap fun t => if s.ctxOf t = ctx then (match t.out with | some o => o.chunks | none => []) else []

/-- The lowest free chunks for an image. (DESIGN CHOICE, log entry 23) -/
def State.pickChunks (s : State) (ctx size : Nat) : List Nat :=
  let used := s.usedChunks ctx
  ((List.range (fieldOf (s.ctx ctx).swlen.toNat 0 32 * 32)).filter fun c => !used.contains c).take (size / 65536)

/-- The lowest key ID that a context's KEYS names. -/
def Ctx.lowKey (c : Ctx) : Nat := ((List.range 64).find? fun k => c.keys.getLsbD k).getD 0

/-- Write a page of an image, under the lowest key of the context: the spec gives the contents no layout, so its bytes are free
values. A page that the process has not kept mapped, or that a store of the context may not write, is not written (R17, R67).
(DESIGN CHOICE, log entry 23) -/
def State.imagePage (s : State) (ctx va : Nat) : State :=
  match s.walk ctx va 1 with
  | .leaf _ p level =>
    let at_ := (s.ctx ctx).lowKey * 2 ^ 50 + leafPage p level va % 2 ^ 50
    let bytes := (List.range 4096).map fun k => (Config.freeWord (Config.freePick s.free (va + k))).extractLsb' 0 8
    if (s.leafFault ctx p at_ 1 true).isSome then s else { s with mem := writeBytes s.mem at_ bytes }
  | _ => s

/-- Write an image into its chunks (R66, R72). -/
def State.writeImage (s : State) (ctx : Nat) (chunks : List Nat) : State :=
  let s1 := chunks.foldl (fun s c =>
    (List.range 16).foldl (fun s k => s.imagePage ctx ((s.ctx ctx).chunkVa c + 4096 * k)) s) s
  { s1 with free := s1.free + 1 }

/-- Step 3 of R133: the parked runs of a team are discarded, and what its lanes wait on is recorded. -/
def State.leave (s : State) (id : Nat) : State :=
  match s.team? id with
  | none => s
  | some t =>
    let t1 := t.discardParked s.clk
    (s.forgetTeam id).setTeam { t1 with leaving := some (s.waitsOf t t1.phases) }

/-- Step 5 of R133: write a team's image and free its cores. -/
def State.swapOut (s : State) (id : Nat) : State :=
  match s.team? id with
  | none => s
  | some t =>
    let chunks := s.pickChunks (s.ctxOf t) (s.kernelOf t).imageBytes
    let s1 := (t.cores.foldl State.drainAll s).writeImage (s.ctxOf t) chunks
    let s2 := s1.onTeam id fun u =>
      { u with
        resident := false, wantSwap := false, swappedAt := s.clk, closed := [], boosted := false, leaving := none
        out := t.leaving.map fun o => { o with chunks := chunks } }
    s2.trace (s.teamRec t 12)

/-- TEAM_SWAP_OUT: no set of the team begins a new run; once each is at a boundary or parked the parked runs are discarded,
and once its copies have run to completion the image is written; a gang goes as a whole (R133). A team whose image does not
fit stays (R72). (DESIGN CHOICE, log entry 23) -/
def execTeamSwapOut (team : Nat) (s : State) : Res :=
  match s.team? team with
  | none => .next s
  | some t =>
    let ms := s.mates t
    let want (b : Bool) : State := ms.foldl (fun s u => s.onTeam u.id fun x => { x with wantSwap := b, leaving := none }) s
    if t.wantSwap && !s.imageFits t then .next (want false)
    else if !t.wantSwap && !s.toSwap t then .next s
    else
      let s0 := if t.wantSwap then s else want true
      if !ms.all Team.atBoundary then .next s0 else
      let s1 := (s0.mates t).foldl (fun s u => if u.leaving.isNone then s.leave u.id else s) s0
      if (s1.mates t).all s1.readyOut then .next ((s1.mates t).foldl (fun s u => s.swapOut u.id) s1) else .next s1

/-! ### Restoring (R134) -/

/-- A set as restored: pass counts, promotions, holds and CONV waits are gone. -/
def TSet.restored (ts : TSet) (clk : Nat) : TSet :=
  { ts with
    phase := match ts.phase with | .conv _ => .ready | p => p
    pass := 0, promoted := none, hold := none, slotAt := 0, readyAt := clk }

/-- A group as restored: its lanes gathered by PC. -/
def Group.restored (g : Group) (clk : Nat) : Group :=
  (g.tsets.map fun ts => ts.restored clk).foldl (fun g ts => g.join clk ts) { g with tsets := [], slotAt := 0 }

/-- A team on its new cores. -/
def State.restore (s : State) (id : Nat) (cores : List Nat) : State :=
  match s.team? id with
  | none => s
  | some t =>
    let s1 := s.setTeam { t with
      cores := cores, resident := true, out := none, placedAt := s.clk, slice := s.quantum, quantum := false
      boosted := false, roT0 := s.wseq, groups := t.groups.map fun g => g.restored s.clk }
    s1.trace (s.teamRec t 13)

/-- TEAM_RESTORE: a swapped-out team, with its gang, is restored to the given cores (R132, R134).
(DESIGN CHOICE, log entry 23) -/
def execTeamRestore (team : Nat) (cores : List Nat) (s : State) : Res :=
  match s.team? team with
  | none => .next s
  | some t =>
    match s.teamWait t with
    | none => .next s
    | some w =>
      if s.placeOk w.k w.name w.plans cores ∧ s.isNext w cores then
        .next ((s.mates t).zipIdx.foldl (fun s u => s.restore u.1.id (w.k.slice cores u.2)) s)
      else .next s

/-! ### Retiring and stopping (R65, R95, R135) -/

/-- Nothing of a team is left to happen (R73, R135). -/
def State.doneTeam (s : State) (t : Team) : Bool :=
  t.groups.all (fun g => g.live == [] && g.tsets == [] && g.sig == []) && !s.inFlight t.id && t.children == [] && t.pend == []

/-- Cancel what a stopping team's copies still wait for in FIFOs. -/
def State.dropStalled (s : State) (id : Nat) : State :=
  (s.cmds.filter fun c => c.team == id && s.fifoStalled c).foldl (fun s c => s.settleCmd { c with cancelled := true, open_ := [] }) s

/-- A stopping team's nests are aborted. -/
def State.stopNests (s : State) (t : Team) : State :=
  (List.range t.cores.length).foldl (fun s tc =>
    match s.team? t.id with | some u => s.abortNests u tc | none => s) s

/-- The team has a nest armed or running. -/
def Team.nesting (t : Team) : Bool := t.nests.any fun n => n.2.armed.isSome || n.2.active.isSome

/-- TEAM_RETIRE: a team whose groups have ended and whose operations have completed retires, once its buffered stores are
performed (R73, R135). A team that a fault,
an abort or a destroyed context stops ends at its run boundaries, once what it issued is applied or reported. -/
def execTeamRetire (team : Nat) (s : State) : Res :=
  match s.team? team with
  | none => .next s
  | some t =>
    if s.doneTeam t then .next (s.removeTeam t false)
    else if s.buffered team ∧ t.groups.all (fun g => g.tsets == []) then .next (t.cores.foldl State.drainAll s)
    else if !t.halting || !t.atBoundary then .next s
    else if t.nesting then .next (s.stopNests t)
    else
      let s1 := s.dropStalled team
      match s1.team? team with
      | none => .next s1
      | some u =>
        let busy := u.groups.any fun g => g.tsets.any fun ts => ts.phase == .post .atomics
        let s1 := if s1.buffered team then u.cores.foldl State.drainAll s1 else s1
        if s1.inFlight team || busy || u.pend != [] || u.children != [] then .next s1
        else .next ((s1.forgetTeam team).removeTeam (u.discardParked s.clk) true)

/-! ### Cancelling (R95) -/

/-- Set the outcome of a cancel. -/
def State.cancelled (s : State) (out : Nat) : State := { s with cxq := { s.cxq with canst := out } }

/-- Cancel the launch in a ring slot. -/
def State.cancel (s : State) (q slot : Nat) (abort : Bool) : State :=
  let x := s.queue q
  match x.pkts.find? fun p => p.num % x.slots == slot && p.typ == 1 && decide (p.state < 2) with
  | none => s.cancelled 3
  | some p =>
    if p.state = 0 then (s.endUnstarted q p 0x80).cancelled 1
    else match s.launch? p.launch with
      | none => s.cancelled 3
      | some l =>
        if l.nextTeam = 0 then (s.finishLaunch l 0x80).cancelled 1
        else if abort then
          let halt (t : Team) : Team := if t.launch = l.id then { t with halting := true } else t
          let s1 := s.setLaunch { l with aborted := true }
          ((({ s1 with teams := s1.teams.map halt } : State)).checkLaunch l.id).cancelled 2
        else s.cancelled 2

/-- CANCEL: `CXQ_CANCEL` without ABORT. A write made while the policy core is frozen is lost, and OUT stays
(DESIGN CHOICE, log entry 51). -/
def execCancelLaunch (q : Fin 1024) (slot : BitVec 16) (s : State) : Res :=
  if s.cx0Frozen then .next s else .next (s.cancel q.val slot.toNat false)

/-- CANCEL_ABORT: `CXQ_CANCEL` with ABORT. A write made while the policy core is frozen is lost, and OUT stays
(DESIGN CHOICE, log entry 51). -/
def execCancelAbort (q : Fin 1024) (slot : BitVec 16) (s : State) : Res :=
  if s.cx0Frozen then .next s else .next (s.cancel q.val slot.toNat true)

end Sys2Proof.Machine
end

