-- ==== Sys2Proof/Machine/EvContext.lean ====
section
/-!
DEFINITION. Events of contexts and of the driver's queue registers (R64 to R72, R84, R85, R88, R374).
-/
namespace Sys2Proof.Machine

/-! ### Keys (R67, R350) -/

/-- DESTROY A KEY: its dirty lines are discarded and its slot is cleared (R67). What memory held under it is gone.
(DESIGN CHOICE, log entry 2) -/
def State.destroyKey (s : State) (key : Nat) : State :=
  { s with
    mem := akeep (fun a => !(paPkg a == s.pkg && paKey a == key)) s.mem
    fw := { s.fw with keySlots := s.fw.keySlots &&& ~~~(1 <<< key : BitVec 64) } }

/-- Destroy every key of a set. -/
def State.destroyKeys (s : State) (keys : BitVec 64) : State :=
  (List.range 64).foldl (fun s k => if keys.getLsbD k then s.destroyKey k else s) s

/-! ### Commands (R65, R70) -/

/-- The outcome of the command just written, for the selected context. -/
def State.ccmd (s : State) (res : Nat) : State := s.setCtx s.cxq.csel { s.ctx s.cxq.csel with res := res }

/-- The fault ring is configured: its LOG2N is in range. A BASE not aligned to the ring's size is used as it is written (R71).
(DESIGN CHOICE, log entry 60) -/
def Ctx.ringSet (c : Ctx) : Bool := decide (7 ≤ fieldOf c.fring.toNat 0 5) && decide (fieldOf c.fring.toNat 0 5 ≤ 16)
/-- The swap area is configured (R72). -/
def Ctx.swapSet (c : Ctx) : Bool := fieldOf c.swlen.toNat 0 32 != 0

/-- Every key of the selected context holds a key and belongs to no other context that is not FREE (R64, R70). -/
def State.keysFree (s : State) : Bool :=
  let keys := (s.ctx s.cxq.csel).keys
  (keys &&& ~~~s.fw.keySlots) == 0 &&
    s.ctxs.all fun e => e.1 == s.cxq.csel || e.2.state == 0 || (e.2.keys &&& keys) == 0

/-- CONTEXT_CREATE (R65, R70): FREE to CREATED after its checks; BADCFG otherwise. -/
def execContextCreate (s : State) : Res :=
  let c := s.ctx s.cxq.csel
  if c.state ≠ 0 then .next (s.ccmd 2)
  else if c.keys = 0 ∨ !s.keysFree ∨ !c.ringSet ∨ !c.swapSet then .next (s.ccmd 3)
  else
    .next (s.setCtx s.cxq.csel { c with
      state := 1, res := 0, fhead := 0, ftail := 0, flost := 0, fwait := [], fwalk := none, launchNo := 0
      rooted := false, faultedWhile := false })

/-- CONTEXT_START (R65, R70): CREATED to ACTIVE; BADCFG while `PG_ROOT` has not been written since the create. -/
def execContextStart (s : State) : Res :=
  let c := s.ctx s.cxq.csel
  if c.state ≠ 1 then .next (s.ccmd 2)
  else if !c.rooted then .next (s.ccmd 3)
  else .next (s.setCtx s.cxq.csel { c with state := 2, res := 0 })

/-- CONTEXT_SUSPEND (R65, R72): ACTIVE to SUSPENDED; busy until the teams that fit have been swapped out. -/
def execContextSuspend (s : State) : Res :=
  let c := s.ctx s.cxq.csel
  if c.state ≠ 2 then .next (s.ccmd 2)
  else .next (s.setCtx s.cxq.csel { c with state := 3, res := 1, faultedWhile := false })

/-- SUSPEND_COMPLETE: every team that fits the swap area has been swapped out (R70, R72). -/
def execSuspendComplete (ctx : Fin 64) (s : State) : Res :=
  let c := s.ctx ctx.val
  let out := s.teams.all fun t => s.ctxOf t != ctx.val || !t.resident || t.halting || (!s.imageFits t && t.atBoundary)
  if c.state = 3 ∧ c.res = 1 ∧ out then .next (s.setCtx ctx.val { c with res := 0 }) else .next s

/-- CONTEXT_RESUME (R65): SUSPENDED to ACTIVE, or to FAULTED after a fault reported while suspended. -/
def execContextResume (s : State) : Res :=
  let c := s.ctx s.cxq.csel
  if c.state ≠ 3 then .next (s.ccmd 2)
  else
    let s1 := s.setCtx s.cxq.csel { c with state := if c.faultedWhile then 4 else 2, res := 0, faultedWhile := false }
    let stay (t : Team) : Team := if s.ctxOf t = s.cxq.csel then { t with wantSwap := false, leaving := none } else t
    .next { s1 with teams := s1.teams.map stay }

/-- CONTEXT_ACKNOWLEDGE (R65): FAULTED to ACTIVE. -/
def execContextAcknowledge (s : State) : Res :=
  let c := s.ctx s.cxq.csel
  if c.state ≠ 4 then .next (s.ccmd 2)
  else .next (s.setCtx s.cxq.csel { c with state := 2, res := 0 })

/-- A queue's context enters DRAINING (R88): it is drained, whatever its state; one that no driver has given a ring has no
packets to report. (DEDUCED, log entry 25) -/
def Queue.drain (x : Queue) (ctx : Nat) : Queue :=
  if x.ctx = ctx ∧ x.state ≠ 3 then { x with state := 3, wake := x.ring != 0 } else x

/-- The numbers of the queues that may belong to a context: of the context that a queue names at reset, all of them (R84). -/
def State.queuesNear (s : State) (n : Nat) : List Nat := if n = 0 then List.range 1024 else s.queues.map (·.1)

/-- CONTEXT_DESTROY (R65): to DRAINING. Launches not yet dispatched complete with LAUNCH and no record, teams stop at run
boundaries, and queues are drained. (DEDUCED, log entry 25) -/
def execContextDestroy (s : State) : Res :=
  let n := s.cxq.csel
  let c := s.ctx n
  if ¬ (1 ≤ c.state ∧ c.state ≤ 4) then .next (s.ccmd 2)
  else
    let s1 := s.setCtx n { c with state := 5, res := 1 }
    let halt (t : Team) : Team := if s.ctxOf t = n then { t with halting := true, wantSwap := false, leaving := none } else t
    let s2 : State := { s1 with
      teams := s1.teams.map halt
      queues := (s1.queuesNear n).foldl (fun m q => aset {} m q ((s1.queue q).drain n)) s1.queues }
    let waiting := s2.launches.filter fun l => l.ctx == n && l.nextTeam == 0 && decide (l.phase < 2)
    let s3 := waiting.foldl (fun s l => s.finishLaunch l 0x0E) s2
    -- a launch placed in part, whose placed teams have all retired, has nothing left to wait for
    .next ((s3.launches.filter fun l => l.ctx == n).foldl (fun s l => s.checkLaunch l.id) s3)

/-- Nothing of a draining context is left to report. (DEDUCED, log entry 25) -/
def State.drained (s : State) (ctx : Nat) : Bool :=
  s.launches.all (fun l => l.ctx != ctx) && s.teams.all (fun t => s.ctxOf t != ctx) && (s.ctx ctx).fwait == [] &&
    s.queues.all fun e => e.2.ctx != ctx || e.2.ring == 0 ||
      (!e.2.wake && e.2.paused.isNone && e.2.pkts == [] && decide (e.2.tail ≤ e.2.head) && e.2.done == e.2.head)

/-- CONTEXT_DESTROYED (R65): the last item of a draining context is reported; its keys are destroyed. RES then tells of the
destroy, though a command may have been refused meanwhile. (DESIGN CHOICE, log entry 60) -/
def execContextDestroyed (ctx : Fin 64) (s : State) : Res :=
  let c := s.ctx ctx.val
  if c.state = 5 ∧ s.drained ctx.val then
    .next ((s.setCtx ctx.val { c with state := 6, res := 0 }).destroyKeys c.keys)
  else .next s

/-- A context's kernel slots at its reclaim: freed, with their generations kept (R104). -/
def KSlot.freed (k : KSlot) : KSlot := { k with kernel := none }

/-- CONTEXT_RECLAIM (R65, R70): DESTROYED to FREE. Keys, tag, ring, swap area and root are cleared, and the context's
queues are DISABLED (R88). (DESIGN CHOICE, log entry 3; DEDUCED, log entry 25) -/
def execContextReclaim (s : State) : Res :=
  let n := s.cxq.csel
  let c := s.ctx n
  if c.state ≠ 6 then .next (s.ccmd 2)
  else
    let free (x : Queue) : Queue :=
      if x.ctx = n then { x with
          state := 0, en := false, head := 0, done := 0, tail := 0, err := 0, errOwed := none, wake := false, paused := none
          lost := [] }
      else x
    let s1 := s.setCtx n { c with
      state := 0, res := 0, keys := 0, tag := 0, fring := 0, swap := 0, swlen := 0, root := 0, rooted := false }
    .next { s1 with
      queues := s1.queues.foldl (fun m e => aset {} m e.1 (free e.2)) s1.queues
      kslots := s1.kslots.foldl (fun m e => if e.1 / 4096 = n then aset {} m e.1 e.2.freed else m) s1.kslots }

/-- FAULT_RING_HEAD_WRITE: HEAD of the selected context's ring moves up to TAIL at most (R71). -/
def execFaultRingHeadWrite (head : BitVec 32) (s : State) : Res :=
  let c := s.ctx s.cxq.csel
  .next (s.setCtx s.cxq.csel { c with fhead := ringHead c.fhead c.ftail head })

/-! ### `CXQ_QCFG` (R84, R85, R88) -/

/-- The ring of a queue may be enabled (R85). -/
def Queue.ringOk (x : Queue) : Bool :=
  let n := fieldOf x.ring.toNat 0 5
  decide (6 ≤ n) && decide (n ≤ 16) && fieldOf x.ring.toNat 12 45 * 4096 % (64 * 2 ^ n) == 0

/-- CTX and PRI as written while DISABLED (R84). (DESIGN CHOICE, log entry 3) -/
def Queue.configure (x : Queue) (v : Nat) : Queue :=
  if x.state = 0 then { x with ctx := fieldOf v 8 6, pri := fieldOf v 4 2 } else x

/-- QUEUE_ENABLE: a write of `CXQ_QCFG` with EN 1 (R84, R85, R88). -/
def execQueueEnable (value : BitVec 64) (s : State) : Res :=
  let q := s.cxq.qsel
  let x := (s.queue q).configure value.toNat
  if !value.getLsbD 0 ∨ x.state ≠ 0 then .next s
  else if x.ringOk then .next (s.setQueue q { x with state := 1, en := true, wake := true, lost := [] })
  else .next (s.setQueue q x)

/-- QUEUE_DISABLE: a write of `CXQ_QCFG` with EN 0 (R84, R88); leaving HALTED clears ERR. -/
def execQueueDisable (value : BitVec 64) (s : State) : Res :=
  let q := s.cxq.qsel
  let x := s.queue q
  if value.getLsbD 0 then .next s
  else if x.state = 0 then .next (s.setQueue q (x.configure value.toNat))
  else if x.state = 1 then .next (s.setQueue q { x with state := 0, en := false })
  else if x.state = 2 then
    .next ((s.setQueue q { x with state := 0, en := false, err := 0, errOwed := some 0 }).writeErr q)
  else .next s

end Sys2Proof.Machine
end

