-- ==== Sys2Proof/Machine/MemAccess.lean ====
section
/-!
DEFINITION. The meanings of the memory access words, class 0b010 (R207 to R224).
-/
namespace Sys2Proof.Machine

/-- Space of a format-I access (R211). -/
def spaceI (x : IWord) : Nat := fieldOf x.aux6.toNat 0 2
/-- Space of a format-R access. -/
def spaceR (x : RWord) : Nat := fieldOf x.aux.toNat 0 2
/-- Little-endian bytes of the low bits of a stored operand (R215). (DEDUCED, log entry 26) -/
def W.storeBytes (w : W) (t : Typ) (o : Opd) (lane : Nat) : List Byte := leBytes (tyBytes t) (w.srcT t o lane).toNat

/-! ### Loads and stores (R214, R215, R220) -/

/-- `ld` (R214). -/
def execLd (x : IWord) (s : State) : Res := liftWord x.grd (fun s t w =>
  (s.readLanes t w (spaceI x) (tyBytes x.typ) (tyBytes x.typ) (fun l => (w.addrI x l)) (w.loadLanes x.dst)).toEff w
    fun s w ls => (s, w.loadDst x.typ x.dst ls)) s

/-- `st` (R215). -/
def execSt (x : IWord) (s : State) : Res := liftWord x.grd (fun s t w =>
  s.storeLanes t w (spaceI x) (tyBytes x.typ) (tyBytes x.typ) (relOf x.mod) (w.addrI x) (w.storeBytes x.typ x.sb)) s

/-- Registers of an `ldv` written from the bytes read. -/
def W.loadVec (w : W) (x : IWord) (ls : List (Nat × List Byte)) : W :=
  (List.range (vecCount x.aux6)).foldl (fun w k =>
    w.dst (opdPlus x.dst k) fun l => BitVec.ofNat 64 (leNat (((bytesOf ls l).drop (8 * k)).take 8))) w

/-- `ldv` (R215). -/
def execLdv (x : IWord) (s : State) : Res := liftWord x.grd (fun s t w =>
  (s.readLanes t w (spaceI x) (8 * vecCount x.aux6) 8 (w.addrI x) (w.loadLanes x.dst)).toEff w
    fun s w ls => (s, w.loadVec x ls)) s

/-- Bytes of the registers of an `stv`. -/
def W.vecBytes (w : W) (x : IWord) (lane : Nat) : List Byte :=
  (List.range (vecCount x.aux6)).flatMap fun k => leBytes 8 (w.src (opdPlus x.sb k) lane).toNat

/-- `stv` (R215). -/
def execStv (x : IWord) (s : State) : Res := liftWord x.grd (fun s t w =>
  s.storeLanes t w (spaceI x) (8 * vecCount x.aux6) 8 (relOf x.mod) (w.addrI x) (w.vecBytes x)) s

/-- The reads of `ldk` once its checks have passed. -/
def State.readOnly (s : State) (t : Team) (w : W) (x : IWord) (ls : List LaneAcc) : Eff :=
  let far := s.remoteParts ls
  if far ≠ [] ∧ w.ts.got2 = [] then .wait (s.askFar t w far) w (.remote s.nextId)
  else
    let r := s.roLanes t w ls
    let seen := r.2.foldl (fun m e => aset 0 m e.1 (Nat.max (aget 0 m e.1) (e.2.getD 0))) w.grp.roSeen
    let own := (r.2.filter fun e => e.2.isNone).map (·.1)
    let w1 : W := { w with grp := { w.grp with roSeen := seen }, ts := { w.ts with roOwn := own ++ w.ts.roOwn } }
    .go { s.countParts ls with free := s.free + 1 } ((w1.watch ls).loadDst x.typ x.dst r.1)

/-- `ldk` (R220). -/
def execLdk (x : IWord) (s : State) : Res := liftWord x.grd (fun s t w =>
  match s.places t w 0 false 0 (tyBytes x.typ) (tyBytes x.typ) (w.addrI x) (w.loadLanes x.dst) with
  | .miss vas => s.missEff t w 0 false vas
  | .fault e => .err e
  | .mig _ => .wait s w .migrating
  | .ok ls => if s.partsHeld t w ls then .wait s w .link else s.readOnly t w x ls) s

/-! ### Atomics and fences (R216 to R219) -/

/-- An atomic word: its lanes are checked and its parts held to the commit (R213, R217). -/
def State.atomWord (s : State) (t : Team) (w : W) (x : RWord) (isRed isCmp : Bool) : Eff :=
  let n := tyBytes x.typ
  match s.places t w 2 false (spaceR x) n n (w.addrR x) w.act with
  | .miss vas => s.missEff t w 2 false vas
  | .fault e => .err e
  | .mig _ => .wait s w .migrating
  | .ok ls =>
    let parts := ls.filterMap fun l => l.parts.head?.map fun p =>
      (⟨l.lane, p.loc, p.va, w.src x.sb l.lane, if isCmp then w.src x.sc l.lane else 0⟩ : AtomLane)
    .go s (w.hold (.atom isRed isCmp (fieldOf x.aux.toNat 2 4) x.typ (if isRed then .z else x.dst) parts (relOf x.mod)))

/-- `atom` (R217). -/
def execAtom (x : RWord) (s : State) : Res := liftWord x.grd (fun s t w => s.atomWord t w x false false) s
/-- `atomc` (R217). -/
def execAtomc (x : RWord) (s : State) : Res := liftWord x.grd (fun s t w => s.atomWord t w x false true) s
/-- `red` (R217). -/
def execRed (x : RWord) (s : State) : Res := liftWord x.grd (fun s t w => s.atomWord t w x true false) s

/-- `fence` (R219): it takes effect at the commit. -/
def execFence (x : RWord) (s : State) : Res := liftWord x.grd (fun s _ w =>
  .go s (w.hold (.fence (fieldOf x.aux.toNat 0 2) (modField x.mod 3 2) (modField x.mod 0 3)))) s

/-! ### Replicated stores (R221) -/

/-- Hold the stores of `stmc`: one for each copy in rising index, or a plain one. -/
def W.holdMulti (w : W) (l : LaneAcc) (rel : Bool) (bs : List Byte) : W :=
  l.parts.foldl (fun w p =>
    let places := if p.reps = [] then [p.loc] else p.reps.map Loc.mem
    places.foldl (fun w loc =>
      let h : Held := ⟨w.ts.pc, w.act, .store loc p.va (bs.take p.len) rel, l.lane⟩
      { w with ts := { w.ts with held := h :: w.ts.held } }) w) w

/-- `stmc` (R221). -/
def execStmc (x : IWord) (s : State) : Res := liftWord x.grd (fun s t w =>
  let n := tyBytes x.typ
  match gather (fun l => s.storeAcc t w true 0 n n (w.addrI x l) l) w.act with
  | .miss vas => s.missEff t w 1 true vas
  | .fault e => .err e
  | .mig _ => .wait s w .migrating
  | .ok ls =>
    .go s (ls.foldl (fun w l =>
      if l.parts = [] then w.holdVa l.lane (w.addrI x l.lane) (w.storeBytes x.typ x.sb l.lane) true (relOf x.mod)
      else w.holdMulti l (relOf x.mod) (w.storeBytes x.typ x.sb l.lane)) w)) s

/-! ### Prefetch and cache control (R222) -/

/-- `pref` (R222): timing only; it never faults and changes no value. (DEDUCED, log entry 17) -/
def execPref (x : IWord) (s : State) : Res := liftWord x.grd (fun s _ w => .go s w) s
/-- `cctl` (R222): timing only; it never faults and changes no value. (DEDUCED, log entry 17) -/
def execCctl (x : RWord) (s : State) : Res := liftWord x.grd (fun s _ w => .go s w) s

/-! ### Probe (R223, R224) -/

/-- A slot at launch. -/
def slot0 : Slot := ⟨0, 0, 0⟩
/-- Scratch offset of slot `i` of a table of `p` slots. -/
def slotOff (k : Kernel) (i : Nat) : Nat := k.scratch - 512 * (k.probe - i)

/-- The slot that holds a block. -/
def Team.slotOf (t : Team) (p blk : Nat) : Option Nat :=
  (List.range p).find? fun i => let x := aget slot0 t.slots i; x.state != 0 && x.tag == blk

/-- The slot a miss takes: the first from NEXT upward, wrapping, that is FREE or VALID and not protected. -/
def Team.victim (t : Team) (p : Nat) : Option Nat :=
  ((List.range p).map fun k => (t.next + k) % p).find? fun i => let x := aget slot0 t.slots i; x.state != 1 && x.prot == 0

/-- Protect a slot. (DEDUCED, log entry 36) -/
def Team.protect (t : Team) (i : Nat) : Team :=
  let x := aget slot0 t.slots i
  { t with slots := aset slot0 t.slots i { x with prot := x.prot + 1 } }

/-- The result of a probe in one lane: the slot and whether it hit. -/
structure ProbeAcc where
  s    : State
  prot : List Nat
  out  : List (Nat × Reg × Bool)
  deriving DecidableEq, Repr

/-- Probe one lane (R224). -/
def ProbeAcc.lane (a : ProbeAcc) (k : Kernel) (w : W) (team : Nat) (x : Nat × Nat) : ProbeAcc :=
  match a.s.team? team with
  | none => a
  | some t =>
    let blk := x.2 / 512 * 512
    let take (s : State) (t : Team) (i : Nat) (hit : Bool) : ProbeAcc :=
      { s := s.setTeam (t.protect i), prot := i :: a.prot
        out := (x.1, BitVec.ofNat 64 (slotOff k i + x.2 % 512), hit) :: a.out }
    match t.slotOf k.probe blk with
    | some i => take a.s t i true
    | none =>
      match t.victim k.probe with
      | none => { a with out := (x.1, BitVec.allOnes 64, false) :: a.out }
      | some i =>
        let old := aget slot0 t.slots i
        let t1 := { t with slots := aset slot0 t.slots i { old with state := 1, tag := blk }, next := (i + 1) % k.probe }
        let t2 := t1.emptyTile (slotOff k i)
        let f : Fill := ⟨a.s.nextId, team, w.grp.index, w.act, w.ts.pc, x.1, some i, slotOff k i, blk, a.s.clk⟩
        take { a.s with fills := a.s.fills ++ [f], nextId := a.s.nextId + 1 } t2 i false

/-- The results of a probe written (R224). -/
def W.probeDst (w : W) (x : IWord) (a : ProbeAcc) : W :=
  let val (l : Nat) := match a.out.find? fun e => e.1 == l with | some e => e.2 | none => (0, false)
  let w1 := (w.dst x.dst fun l => (val l).1).dstPred x.sb fun l => (val l).2
  { w1 with ts := { w1.ts with prot := a.prot ++ w1.ts.prot } }

/-- `probe` (R224). (DEDUCED, log entry 36) -/
def execProbe (x : IWord) (s : State) : Res := liftWord x.grd (fun s t w =>
  let k := s.kernelOf t
  if k.probe = 0 then .err { code := 11, lane := w.low, detail := 1 }
  else match gather (fun l => s.laneAccess (s.who t w 0 false) t (32 * w.grp.index + l) 0 (w.addrI x l) 1 1) w.act with
    | .miss vas => s.missEff t w 0 false vas
    | .fault e => .err e
    | .mig _ => .wait s w .migrating
    | .ok _ =>
      let a := (w.act.map fun l => (l, w.addrI x l)).foldl (fun a y => a.lane k w t.id y) (⟨s, [], []⟩ : ProbeAcc)
      .go a.s (w.probeDst x a)) s

/-- Slots that a `prinv` names. -/
def Team.invSlots (t : Team) (p : Nat) (all : Bool) (blks : List Nat) : List Nat :=
  (List.range p).filter fun i =>
    let x := aget slot0 t.slots i
    x.state != 0 && (all || blks.contains x.tag)

/-- `prinv` (R223): it waits for the fills of the slots it names, then frees them. -/
def execPrinv (x : RWord) (s : State) : Res := liftWord x.grd (fun s t w =>
  let k := s.kernelOf t
  if k.probe = 0 then .err { code := 11, lane := w.low, detail := 1 }
  else
    let slots := t.invSlots k.probe (x.mod.getLsbD 0) (w.act.map fun l => w.addrR x l / 512 * 512)
    if slots.any fun i => (aget slot0 t.slots i).state == 1 then .wait s w .tile
    else
      let free (u : Team) (i : Nat) : Team :=
        ({ u with slots := aset slot0 u.slots i { aget slot0 u.slots i with state := 0, tag := 0 } }).emptyTile (slotOff k i)
      .go (s.setTeam (slots.foldl free t)) w) s

end Sys2Proof.Machine
end

