-- ==== Sys2Proof/Machine/EvEngine.lean ====
section
/-!
DEFINITION. Events of the engines: arrivals of fragments and fills, copy segments, nests and gang reductions (R223, R228,
R231, R232, R239, R240, R261, R267, R268, R277, R284, R285).
-/
namespace Sys2Proof.Machine

/-! ### Fragments (R228, R231, R232) -/

/-- Number of beats in a mask. -/
def beatCount (m : BitVec 16) : Nat := ((List.range 16).filter fun b => m.getLsbD b).length

/-- Data of a fragment: each aligned 8 bytes carry the source tile's bytes at the commit, or those there now (R231). -/
def Frag.bytes (f : Frag) (now : List Byte) (draw : Nat) : List Byte :=
  (List.range 64).flatMap fun k =>
    let a := (f.data.drop (8 * k)).take 8
    let b := (now.drop (8 * k)).take 8
    if a = b then a else choose (Config.freePick draw (512 * f.id + k)) a [a, b]

/-- The beats may be one more arrival of the fragment: beats it carries, all that are left in its last one.
(DEDUCED, log entry 21) -/
def Frag.admits (f : Frag) (beats : BitVec 16) : Bool :=
  (beats &&& ~~~f.mask) == 0 && (beats != 0 || f.mask == 0) &&
    (decide (f.sent + 1 < beatCount f.mask) || (f.left &&& ~~~beats) == 0)

/-- Does an arrival end its fragment? With no beat left a device may still send some again, up to one arrival for each
beat. (DEDUCED, log entry 42) -/
def Frag.isLast (f : Frag) (beats : BitVec 16) (draw : Nat) : Bool :=
  (f.left &&& ~~~beats) == 0 &&
    (decide (beatCount f.mask ≤ f.sent + 1) || (f.left == f.mask && beats == f.mask) || choose (Config.freePick draw f.id) true [true, false])

/-- Apply beats of a fragment at its destination. (DEDUCED, log entry 42) -/
def State.fragArrive (s : State) (f : Frag) (beats : BitVec 16) : State :=
  let last := f.isLast beats s.free
  let now := match s.team? f.team with | some t => t.scrRead f.src 512 | none => f.data
  let s1 := match f.dst with
    | .scr id off => (s.noteScr id (off / 512 * 512) 512 none).onTeam id fun u => u.arrive off beats (f.bytes now s.free) (last && f.sealed)
    | _ => s
  let s2 : State := { s1 with free := s1.free + 1 }
  if last then s2.endFrag f
  else
    let on (x : Frag) : Frag := { x with left := x.left &&& ~~~beats, sent := x.sent + 1 }
    { s2 with frags := lreplace (fun x => x.id == f.id) on s2.frags }

/-- Why a fragment cannot be applied: the DETAIL of R232. One on another package reports any of the causes. -/
def State.fragBlock (s : State) (f : Frag) : Option Nat :=
  match f.dst with
  | .scr id off =>
    match s.team? id with
    | none => some 2
    | some u => if u.refuses off 512 then some 3 else none
  | _ => some (choose (Config.freePick s.free f.id) 1 [1, 2, 3])

/-- The links from a fragment's core to its destination's die hold it (R305, R307). -/
def State.fragHeld (s : State) (f : Frag) : Bool :=
  match s.team? f.team with
  | some t => s.storeHeld (t.coreNo (s.tcore t f.group)) f.dst 512
  | none => false

/-- TILE_ARRIVAL: beats of a fragment are applied to its tile; the last ones lower its signal (R228, R231). Arrivals to a
closed bank wait (R240). -/
def execTileArrival (frag : Nat) (beats : BitVec 16) (s : State) : Res :=
  match s.frags.find? fun f => f.id == frag with
  | none => .next s
  | some f =>
    let open_ : Bool := match f.dst with
      | .scr id off => (match s.team? id with | some u => !u.refuses off 512 && !u.waits off 512 && !s.fragHeld f | none => false)
      | _ => !s.polderWaits f.dst && !s.polderGone f.dst
    if open_ && f.admits beats then .next (s.fragArrive f beats) else .next s

/-- FRAGMENT_FAILURE: a fragment that cannot be applied is discarded, its signal falls, and its issuer is charged LINK
(R232); one that links in training hold is delayed, not failed (R307). -/
def execFragmentFailure (frag : Nat) (s : State) : Res :=
  match s.frags.find? fun f => f.id == frag with
  | none => .next s
  | some f =>
    match if s.polderWaits f.dst then none else s.fragBlock f with
    | none => .next s
    | some d => .next (s.failFrag f d)

/-! ### Fills (R223, R239) -/

/-- A fill that failed is no longer out: a probe slot is FREE and its tile EMPTY; a window's tile may be filled again (R223,
R239). -/
def State.dropFill (s : State) (f : Fill) : State :=
  let s1 : State := { s with fills := s.fills.filter fun x => x.id != f.id }
  s1.onTeam f.team fun t => match f.slot with
    | some i =>
      let x := aget slot0 t.slots i
      { t.emptyTile f.off with slots := aset slot0 t.slots i { x with state := 0, tag := 0 } }
    | none => t.setTag f.off { t.tag f.off with pend := false }

/-- The set of the fill's word that is still parked at it (R239). (DEDUCED, log entry 37) -/
def State.fillSet (s : State) (f : Fill) : Option Cur :=
  match s.team? f.team with
  | none => none
  | some t =>
    match t.group? f.group with
    | none => none
    | some g =>
      (g.tsets.find? fun ts => ts.phase == .parked .tile && !ts.committed && ts.lanes.contains f.lane &&
        (ts.pc == f.pc || (ts.pc == f.pc + 1 && ts.held.any fun h => h.pc == f.pc))).map
        fun ts => (f.team, f.group, ts.id)

/-- A fill fails: a probe's is charged with the probe word's PC; a window's is taken by the set that waits at the
touching word, or charged to it where it waits there no more. (DEDUCED, log entry 37) -/
def State.failFill (s : State) (f : Fill) (e : FInfo) : State :=
  let e1 := { e with lane := f.lane }
  match f.slot, s.fillSet f with
  | none, some c => s.faultParked c f.pc e1 fun s => s.dropFill f
  | _, _ => (s.dropFill f).charge f.team f.group f.lanes f.pc e1

/-- A fill arrives: one arrival of all sixteen beats. -/
def State.fillArrive (s : State) (f : Fill) (bs : List Byte) : State :=
  let s1 : State := { s with fills := s.fills.filter (fun x => x.id != f.id), free := s.free + 1 }
  s1.onTeam f.team fun t =>
    let t1 := t.arrive f.off 0xFFFF bs false
    match f.slot with
    | some i => { t1 with slots := aset slot0 t1.slots i { aget slot0 t1.slots i with state := 2 } }
    | none => t1.setTag f.off { t1.tag f.off with pend := false }

/-- One step of a fill: its source is translated and read as the core of the touching word reads it (R300), and it arrives or
fails; a page request or a closed bank holds it. An arrival at a bank that has left SCRATCH fails as R232 gives. -/
def State.fillStep (s : State) (f : Fill) (ok : Bool) : State :=
  match s.team? f.team with
  | none => s
  | some t =>
    let core := t.coreNo (t.coreAt f.off)
    let w : Who := { core := core, ctx := s.ctxOf t, kind := 0, me := .engine f.id }
    match s.enginePlace w f.va 512 with
    | .wait w vas => s.addWalks w vas
    | .fail e => (s.takeEnds w e.addr).failFill f { e with addr := f.va }
    | .at loc =>
      let bad := s.locBad loc 512
      if !ok then s.failFill f { code := 15, addr := f.va, detail := 1 }
      else if bad then s.failFill f { code := 8, addr := f.va }
      else if t.refuses f.off 512 then s.failFill f { code := 15, addr := f.va, detail := 3 }
      else if t.waits f.off 512 then s
      else
        let s1 := match loc with | .mem pa => s.countLines pa 512 | _ => s
        s1.fillArrive f (s.engineBytes t (t.coreNo (s.tcore t f.group)) s.free [] loc 512)

/-- Only a source on another package may fail on its path. -/
def State.fillAway (s : State) (f : Fill) : Bool :=
  match s.team? f.team with
  | none => false
  | some t =>
    let w : Who := { core := t.coreNo (t.coreAt f.off), ctx := s.ctxOf t, kind := 0, me := .engine f.id }
    match s.enginePlace w f.va 512 with
    | .at (.mem pa) => paPkg pa != s.pkg
    | .at (.far ..) => true
    | _ => false

/-- PROBE_FILL_COMPLETE: the fill of a probe slot arrives, or fails (R223); `ok` false is a failure of the path to
another package. -/
def execProbeFillComplete (fill : Nat) (ok : Bool) (s : State) : Res :=
  match s.fills.find? fun f => f.id == fill with
  | none => .next s
  | some f => if f.slot.isNone ∨ (!ok ∧ !s.fillAway f) then .next s else .next (s.fillStep f ok)

/-- WINDOW_FILL_COMPLETE: the fill of a bound window's tile arrives, or fails (R239). -/
def execWindowFillComplete (fill : Nat) (ok : Bool) (s : State) : Res :=
  match s.fills.find? fun f => f.id == fill with
  | none => .next s
  | some f => if f.slot.isSome ∨ (!ok ∧ !s.fillAway f) then .next s else .next (s.fillStep f ok)

/-! ### Copy segments (R284, R285) -/

/-- The package on which a place lies, where that is another one. -/
def State.awayOf (s : State) (l : Loc) : Option Nat :=
  match l with
  | .mem pa => if paPkg pa = s.pkg then none else some (paPkg pa)
  | .far p _ _ => some p
  | .scr .. => none

/-- A segment fails after part of it was copied: each byte of a global destination holds its old value or the value
copied (R285). LINK with the cause where a side lies on another package, else DATA, with the address of that side (R313). A segment
that only appends zeros reads nothing that could fail. -/
def State.segBreak (s : State) (c : Cmd) (t : Team) (seg cause : Nat) : State :=
  let away (l : Loc) : Bool := (s.awayOf l).isSome
  if segPiece seg = 2 ^ 22 - 1 then
    let w : Who := { core := t.coreNo c.core, ctx := s.ctxOf t, kind := 0, me := .engine c.id }
    match s.enginePlace w (c.indexVa (segRow seg)) 4 with
    | .at loc =>
      let e : FInfo := { code := 8, addr := c.indexVa (segRow seg) }
      s.indexFail { c with begun := true } (segRow seg) (if away loc then { e with code := 15, detail := cause } else e)
    | _ => s
  else if (c.zeroLen seg).isSome then s.segStep c t seg
  else match s.segRead c t seg with
  | .bytes bs dst src =>
    let row := segRow seg
    let idx := overlay 0 c.idx row
    let at_ := ((c.args.pieces row idx).getD (segPiece seg) (0, 0)).1
    let from_ := (c.args.rowSrc row idx + at_) % 2 ^ 64
    let e : FInfo :=
      if away src then { code := 15, addr := from_, detail := cause }
      else if away dst then { code := 15, addr := (c.args.rowDst row + at_) % 2 ^ 64, detail := cause }
      else { code := 8, addr := from_ }
    (s.copySome dst src bs).segFail { c with begun := true } seg e
  | _ => s

/-- The packages other than this one that a segment reads or writes, once its places are known. -/
def State.segPkgs (s : State) (c : Cmd) (t : Team) (seg : Nat) : List Nat :=
  if segPiece seg = 2 ^ 22 - 1 then
    match s.enginePlace { core := t.coreNo c.core, ctx := s.ctxOf t, kind := 0, me := .engine c.id } (c.indexVa (segRow seg)) 4 with
    | .at loc => (s.awayOf loc).toList
    | _ => []
  else if (c.zeroLen seg).isSome then []
  else match s.segRead c t seg with
    | .bytes _ dst src => (s.awayOf src).toList ++ (s.awayOf dst).toList
    | _ => []

/-- An access of a command to another package fails: that of its first open segment for which the package is one that `hit`
names. Which of the accesses of a command in progress was out is the device's matter (R284, R313).
(DESIGN CHOICE, log entry 62) -/
def State.cmdFails (s : State) (c : Cmd) (cause : Nat) (hit : Nat → Bool) : State :=
  match s.team? c.team with
  | none => s
  | some t =>
    match c.open_.find? fun n => (s.segPkgs c t n).any hit with
    | some seg => s.segBreak c t seg cause
    | none => s

/-- The package that a fill reads, where that is another one (R223, R239). -/
def State.fillPkg (s : State) (f : Fill) : Option Nat :=
  match s.team? f.team with
  | none => none
  | some t =>
    let w : Who := { core := t.coreNo (t.coreAt f.off), ctx := s.ctxOf t, kind := 0, me := .engine f.id }
    match s.enginePlace w f.va 512 with
    | .at loc => s.awayOf loc
    | _ => none

/-- The package that an unposted message reads its source from, where that is another one: that of its first page there (R319). -/
def State.msgPkg (s : State) (m : Msg) : Option Nat :=
  if m.posted ≠ 0 ∨ m.args.kind = 2 ∨ m.args.srcS then none
  else match s.team? m.team with
  | none => none
  | some t =>
    let core := t.coreNo (s.tcore t m.group)
    (List.range (m.args.len / 4096 + 2)).findSome? fun k =>
      let va := if k = 0 then m.args.src else (m.args.src / 4096 + k) * 4096
      if m.args.src + m.args.len ≤ va then none
      else match s.enginePlace { core := core, ctx := s.ctxOf t, kind := 0, me := .engine m.id } (va % 2 ^ 64) 1 with
      | .at loc => s.awayOf loc
      | _ => none

/-- COPY_SEGMENT_END: a segment takes its step: it is translated, copied and ends, or waits for a page or for room in its
FIFO; `ok` false is a failure in the copying (R284, R285). (DESIGN CHOICE, log entry 20) -/
def execCopySegmentEnd (cmd seg : Nat) (ok : Bool) (s : State) : Res :=
  match s.cmds.find? fun c => c.id == cmd with
  | none => .next s
  | some c =>
    match s.team? c.team with
    | none => .next s
    | some t =>
      if !s.segEnabled c t seg then .next s
      else if ok then .next (s.segStep c t seg)
      else .next (s.segBreak c t seg 1)

/-! ### Nests and reductions (R261, R267, R268, R277) -/

/-- NEST_START: the armed nest of a team core starts, on every core of its gang at once (R267, R268). -/
def execNestStart (team core : Nat) (s : State) : Res :=
  match s.team? team with
  | none => .next s
  | some t => if s.canStart t core then .next (s.startNest t core) else .next s

/-- KBLOCK_RETIRE: the running nest's next K-block retires, or the nest aborts on malformed metadata (R261, R267). -/
def execKblockRetire (team core : Nat) (s : State) : Res :=
  match s.team? team with
  | none => .next s
  | some t => if s.canRetire t core then .next (s.retireBlock t core) else .next s

/-- ACRED_COMPLETE: the reduction writes its destination tile and flags, while its core does not stand still (R277, R347). -/
def execAcredComplete (acred : Nat) (s : State) : Res :=
  match s.acreds.find? fun a => a.id == acred with
  | none => .next s
  | some a =>
    match s.team? a.team with
    | none => .next s
    | some t => if s.coreIdle (t.coreNo a.core) then .next s else .next (s.finishAcred a t)

end Sys2Proof.Machine
end

