-- ==== Sys2Proof/Machine/EvThread.lean ====
section
/-!
DEFINITION. Events of thread sets: AWAIT, service results, atomics, rollbacks, engine faults and fault records (R52, R55,
R65, R69, R71, R73, R78, R116, R216 to R218).
-/
namespace Sys2Proof.Machine

/-! ### AWAIT (R55) -/

/-- AWAIT_RELEASE: a test finds every awaited signal at zero, and the lanes regroup (R55, R136). -/
def execAwaitRelease (team group tset : Nat) (s : State) : Res :=
  match s.view (team, group, tset) with
  | none => .next s
  | some (_, g, ts) =>
    if ts.phase = .await ∧ !ts.stop ∧ g.awaitPasses ts.await then .next (s.finishTrailer (team, group, tset)) else .next s

/-! ### System services (R78) -/

/-- The request a set has out. -/
def TSet.request (ts : TSet) : Option (Held × Opd × List (Nat × Reg × Reg)) :=
  ts.held.findSome? fun h => match h.act with | .sys d _ ps => some (h, d, ps) | _ => none

/-- SYS_RESULT: the system cores write each lane's result and the set goes on; a lane for which none is given reads the
value of an undefined service. In DRAINING the request is abandoned (R65, R78). (DESIGN CHOICE, log entry 55) -/
def execSysResult (team group tset : Nat) (results : List (BitVec 64)) (s : State) : Res :=
  let c : Cur := (team, group, tset)
  match s.view c with
  | none => .next s
  | some (t, g, ts) =>
    match ts.request with
    | none => .next s
    | some (h, dst, parts) =>
      if ts.phase = .post .service ∧ !ts.stop ∧ (s.ctx (s.ctxOf t)).state ≠ 5 then
        let vals := parts.zipIdx.map fun p => (p.1.1, results.getD p.2 0xFFFFFFFFFFFFFFFF)
        let on (x : TSet) : TSet := ({ x with held := x.held.filter fun y => y != h } : TSet).resume s.clk
        let g1 := g.deliver c.2.2 dst vals
        .next (s.setTeam (t.setGroup { g1 with tsets := lreplace (fun x => x.id == c.2.2) on g1.tsets }))
      else .next s

/-! ### Atomics (R216 to R218) -/

/-- The new value of an atomic with the flags it raises: bits of the type's width. -/
def atomOp (typ : Typ) (op old b : Nat) : Nat × Flags :=
  let w := tyWidth typ
  let float := typ == .f32 || typ == .f64
  let f := fmtOf typ
  match op with
  | 0 =>
    if float then
      let r := roundF f .rne false (sumF .rne [readF f false old, readF f false b])
      (r.bits, r.fl)
    else ((old + b) % 2 ^ w, 0)
  | 1 | 2 =>
    if float then let r := minmaxF f (op == 2) false old b; (r.bits, r.fl)
    else
      let less := decide (intOf (tySigned typ) w b < intOf (tySigned typ) w old)
      (if less == (op == 1) then b else old, 0)
  | 3 => (old &&& b, 0)
  | 4 => (old ||| b, 0)
  | 5 => (old ^^^ b, 0)
  | 6 => (b, 0)
  | 7 => (if b ≤ old then 0 else old + 1, 0)
  | _ => (if old = 0 ∨ b < old then b else old - 1, 0)

/-- The value an atomic stores. -/
def atomNew (isCmp : Bool) (op : Nat) (typ : Typ) (old : Nat) (p : AtomLane) : Nat × Flags :=
  let w := tyWidth typ
  let b := elemBits w 0 p.b
  if isCmp then (if old = b then elemBits w 0 p.c else old, 0) else atomOp typ op old b

/-- Perform one lane's part: the state, the old value and the flags. A place on another package's team answers with its
old bytes. -/
def State.atomLane (s : State) (c : Cur) (ts : TSet) (isCmp : Bool) (op : Nat) (typ : Typ) (k : Nat) (p : AtomLane) :
    State × Nat × Flags :=
  let n := tyBytes typ
  match p.loc with
  | .mem pa =>
    let old := leNat (readBytes s.mem pa n)
    let r := atomNew isCmp op typ old p
    (((s.countLines pa n).putNat pa n r.1).signed s.wseq c.1 c.2.1 p.lane, old, r.2)
  | .scr id off =>
    match s.team? id with
    | none => (s, 0, 0)
    | some u =>
      let old := leNat (u.scrRead off n)
      let r := atomNew isCmp op typ old p
      ((s.setTeam (u.scrWrite off (leBytes n r.1))).noteScr id off n (some (c.1, c.2.1, p.lane)), old, r.2)
  | .far .. =>
    let old := leNat ((List.range n).map fun j => overlay 0 ts.got2 (farKey k j))
    (s, old, (atomNew isCmp op typ old p).2)

/-- What a lane's part meets at its place once the run has committed: its key is destroyed, or its bytes have an
uncorrectable error (R67, R308, R348). -/
def State.atomFault (s : State) (n : Nat) (p : AtomLane) : Option FInfo :=
  let dead : Bool := match p.loc with | .mem pa => !s.fw.keySlots.getLsbD (paKey pa) | _ => false
  if dead then some { code := 7, lane := p.lane, addr := p.va }
  else if s.locBad p.loc n then some { code := 8, lane := p.lane, addr := p.va }
  else none

/-- Perform the parts in rising lane order: the state, each lane's old value and the flags. A part that cannot be performed is
charged to the set, and its lane's destination is not written. (DEDUCED, log entry 19) -/
def State.atomLanes (s : State) (c : Cur) (ts : TSet) (pc : Nat) (lanes : List Nat) (isCmp : Bool) (op : Nat) (typ : Typ) (parts : List AtomLane) :
    State × List (Nat × Nat) × Flags :=
  parts.foldl (fun acc p =>
    match acc.1.atomFault (tyBytes typ) p with
    | some e => (acc.1.charge c.1 c.2.1 lanes pc e, acc.2)
    | none =>
      let r := acc.1.atomLane c ts isCmp op typ p.lane p
      (r.1, acc.2.1 ++ [(p.lane, r.2.1)], acc.2.2 ||| r.2.2)) (s, [], 0)

/-- Perform a committed atomic and release its set: what its core buffers for the lines drains first, or all of it before a
release, and the flags it raises are committed with those of its run (R40, R217, R294, R299). (DEDUCED, log entry 19) -/
def State.atomPerform (s : State) (c : Cur) (ts : TSet) (h : Held) (isCmp : Bool) (op : Nat) (typ : Typ) (dst : Opd)
    (parts : List AtomLane) (rel : Bool) (core : Nat) : State :=
  let r := (s.drainAtom core parts rel).atomLanes c ts h.pc h.lanes isCmp op typ parts
  let vals := r.2.1.map fun e => (e.1, scalarReg typ e.2)
  let fin (g : Group) : Group :=
    let g1 := (g.deliver c.2.2 dst vals).commitFlags ts.flWrite (ts.fl ||| r.2.2) (s.clk + 1)
    let on (x : TSet) : TSet :=
      ({ x with held := x.held.filter (fun y => y != h), got2 := [], fl := 0, flWrite := none } : TSet).resume s.clk
    { g1 with tsets := lreplace (fun x => x.id == c.2.2) on g1.tsets }
  r.1.onGroup c.1 c.2.1 fin

/-- A link in training holds a part of an atomic (R305, R307). -/
def State.atomHeld (s : State) (core : Nat) (parts : List AtomLane) (n : Nat) : Bool :=
  parts.any fun p => s.storeHeld core p.loc n

/-- ATOMIC_PERFORM: once every other package has answered, the lanes' parts are performed in rising lane order, and the
parked set goes on; a set that the debugger has stopped stays where it is (R217, R329). (DEDUCED, log entry 19) -/
def execAtomicPerform (team group tset : Nat) (s : State) : Res :=
  let c : Cur := (team, group, tset)
  match s.view c with
  | none => .next s
  | some (t, g, ts) =>
    let core := t.coreNo (s.tcore t g.index)
    let waits := s.accesses.any fun a => a.kind == 2 && a.team == team && a.group == group && a.lanes.any ts.lanes.contains
    if ts.phase ≠ .post .atomics ∨ ts.stop ∨ waits then .next s
    else match ts.held.findSome? fun h => match h.act with
        | .atom _ isCmp op typ dst parts rel => some (h, isCmp, op, typ, dst, parts, g.releases h rel)
        | _ => none with
      | none => .next (s.onTset c fun x => x.resume s.clk)
      | some (h, isCmp, op, typ, dst, parts, rel) =>
        if s.atomHeld core parts (tyBytes typ) then .next s else .next (s.atomPerform c ts h isCmp op typ dst parts rel core)

/-! ### Alias rollbacks (R116, R117) -/

/-- Class and opcode of a word that no hoisted load passes: a closing instruction, a tile instruction, `probe`, `prinv`,
`lsync` or `sigt`, or a load with `.acq` (R115). An illegal word, which R115 does not name, is taken to bar the load as well:
what its handler does is unknown to the translator. (DESIGN CHOICE, log entry 24) -/
def barsHoist (w : Word) : Bool :=
  match decode w with
  | .ok (.twait _) | .ok (.ttake _) | .ok (.ttst _) | .ok (.tmark _) | .ok (.tmask _)
  | .ok (.probe _) | .ok (.prinv _) | .ok (.lsync _) | .ok (.sigt _) => true
  | .ok (.ld x) | .ok (.ldv x) | .ok (.ldk x) => x.mod.getLsbD 3
  | .ok _ => closingOp (Word.cls w) (Word.opc w)
  | .error _ => true

/-- A load at `pc` may be hoisted above a word: the word bars no load, and no recorded site of the entry keeps the load below it;
a site that names another party's write keeps it where it stands (R115, R118). -/
def Kernel.passes (k : Kernel) (kept : List (Nat × Nat)) (pc i : Nat) : Bool :=
  match k.text[i]? with
  | some w => !barsHoist w && !kept.contains (pc, i) && !kept.contains (pc, 0xFFFFFFFF)
  | none => false

/-- A load at `pc` may be hoisted above the words from `lo` to `hi − 1` (R115, R118). -/
def Kernel.hoistable (k : Kernel) (kept : List (Nat × Nat)) (pc lo hi : Nat) : Bool :=
  (List.range (hi - lo)).all fun i => k.passes kept pc (lo + i)

/-- The first word, of those from `lo` on, above which a load at `pc` may be hoisted when it stands before the word `hi`: `hi`
where it may pass none. -/
def Kernel.highest (k : Kernel) (kept : List (Nat × Nat)) (pc lo hi : Nat) : Nat :=
  ((List.range (hi - lo)).find? fun i => k.hoistable kept pc (lo + i) hi).elim hi (lo + ·)

/-- The word before a run's first word is a trailer that calls (R54). -/
def Kernel.follows (k : Kernel) (start : Nat) : Bool :=
  k.text.zipIdx.any fun x => x.2 + 1 == start && isTrailerWord x.1 && [4, 5].contains (fieldOf x.1.toNat 120 4)

/-- Trailers that may lead to a run's first word: each trailer's word, and whether no hoisted load passes it, for its kind or a
nonzero AWAIT (R54, R115). A trailer of a kind that may go on at the word after it leads there; a target leads where it says, one
in a register anywhere; and a `ret` leads only to a word after a call, which is what its stack holds (R137). -/
def Kernel.entries (k : Kernel) (start : Nat) : List (Nat × Bool) :=
  k.text.zipIdx.filterMap fun x =>
    if !isTrailerWord x.1 then none
    else
      let kind := fieldOf x.1.toNat 120 4
      let leads := (x.2 + 1 == start && !([1, 3, 4, 5, 6, 7].contains kind)) ||
        ([1, 2, 4].contains kind && targetOf x.2 (x.1.extractLsb' 0 32) == start) || kind == 3 || kind == 5 ||
        (kind == 6 && k.follows start)
      let bars := kind == 4 || kind == 5 || kind == 6 || kind == 7 || kind == 8 || fieldOf x.1.toNat 104 16 != 0
      if leads then some (x.2, bars) else none

/-- A load at `pc` may be hoisted into the run that a set committed last: that run alone leads to this one, and nothing between
bars the load (R115). -/
def Kernel.reachesBack (k : Kernel) (kept : List (Nat × Nat)) (ts : TSet) (pc : Nat) : Bool :=
  !ts.mid && k.entries ts.start == [(ts.before.last, false)] && k.hoistable kept pc ts.start pc &&
    !kept.contains (pc, 0xFFFFFFFF)

/-- Two places have a byte in common. -/
def Loc.meets (a : Loc) (n : Nat) (b : Loc) (m : Nat) : Bool :=
  match a, b with
  | .mem p, .mem q => decide (p < q + m) && decide (q < p + n)
  | .scr t o, .scr u r => t == u && decide (o < r + m) && decide (r < o + n)
  | .far p h o, .far q i r => p == q && h == i && decide (o < r + m) && decide (r < o + n)
  | _, _ => false

/-- A store of the set writes a byte that a watched load read: at its place, or at its address where its page is under migration
(R116, R203). -/
def Alias.meets (a : Alias) (act : Act) : Bool :=
  match act with
  | .store loc _ bs _ => a.loc.meets a.len loc bs.length
  | .storeVa _ va bs _ _ =>
    (match a.loc with | .scr .. => false | _ => decide (a.va < va + bs.length) && decide (va < a.va + a.len))
  | _ => false

/-- A write was made by a lane of the thread set, or by one that committed the set's last run with it and before it went its own way
(R116, R117). -/
def ownParty (c : Cur) (ts : TSet) (party : Option (Nat × Nat × Nat)) (time : Nat) : Bool :=
  match party with
  | some x => x.1 == c.1 && x.2.1 == c.2.1 &&
      (ts.lanes.contains x.2.2 || (decide (time ≤ ts.before.time) && ts.before.lanes.contains x.2.2))
  | none => false

/-- Another party than the thread set has written a byte of the place since a time. Of a place on another package, which agents
there may write unseen, it is allowed at any time. (DESIGN CHOICE, log entry 24) -/
def State.wroteSince (s : State) (c : Cur) (ts : TSet) (time : Nat) (loc : Loc) (len : Nat) : Bool :=
  match loc with
  | .mem pa => paPkg pa != s.pkg || s.wlog.any fun e =>
      decide (time ≤ e.time) && decide (pa ≤ e.pa) && decide (e.pa < pa + len) && !ownParty c ts e.party e.time
  | .scr id off =>
    match s.team? id with
    | some u => s.slog.any fun e => decide (time ≤ e.time) && e.team == id && !ownParty c ts e.party e.time &&
        (List.range len).any fun k => e.keys.contains (u.scrKey (off + k))
    | none => false
  | .far .. => true

/-- When a word of a run was first issued. -/
def issuedAt (words : List (Nat × Nat)) (pc : Nat) : Option Nat := ((words.filter fun x => x.1 == pc).map (·.2)).min?

/-- The time from which a load of the open run may have been issued, where it may have been hoisted at all: that of the first
word above which it may stand, in its run or in the run before it (R115, R116). -/
def TSet.hoistedFrom (ts : TSet) (k : Kernel) (kept : List (Nat × Nat)) (pc : Nat) : Option Nat :=
  let lo := k.highest kept pc ts.start pc
  if k.reachesBack kept ts pc then issuedAt ts.before.words (k.highest kept pc ts.before.start ts.before.last)
  else if lo < pc then issuedAt ts.words lo else none

/-- The conflicts that a hoisted load of the open run may have met: its word, and the word of the store or 0xFFFFFFFF for
another party's write (R116 to R118). -/
def State.conflicts (s : State) (c : Cur) (k : Kernel) (ts : TSet) (kept : List (Nat × Nat)) : List (Nat × Nat) :=
  (ts.aliases.filter fun a => decide (ts.start ≤ a.pc)).flatMap fun a =>
    let own := ts.held.filterMap fun h =>
      if h.pc < a.pc ∧ a.meets h.act ∧ k.hoistable kept a.pc h.pc a.pc then some (a.pc, h.pc) else none
    let back := ts.before.stores.filterMap fun x =>
      if a.loc.meets a.len x.2.1 x.2.2 ∧ k.reachesBack kept ts a.pc ∧ k.hoistable kept a.pc x.1 ts.before.last then
        some (a.pc, x.1) else none
    let other := match ts.hoistedFrom k kept a.pc with
      | some time => if s.wroteSince c ts time a.loc a.len then [(a.pc, 0xFFFFFFFF)] else []
      | none => []
    own ++ back ++ other

/-- The profile of an entry after a rollback at a site: a site beyond the fourteenth counts only in ROLLBACKS.
(DESIGN CHOICE, log entry 24) -/
def TEntry.rollback (e : TEntry) (ldw stw : Nat) : TEntry :=
  let hit (x : Site) : Bool := x.ldw == ldw && x.stw == stw
  let sites :=
    if e.sites.any hit then lreplace hit (fun x => { x with count := x.count + 1 }) e.sites
    else if e.sites.length < 14 then e.sites ++ [⟨ldw, stw, 1⟩] else e.sites
  { e with rollbacks := e.rollbacks + 1, sites := sites, state := if e.state = 1 then 2 else e.state }

/-- The recorded sites that the code of a launch was made under: it hoists the load of none of them above its store, whatever later
code of its key does (R118). -/
def State.keptSites (s : State) (t : Team) : List (Nat × Nat) :=
  match s.launch? t.launch with | some l => l.kept | none => []

/-- The set stands inside a run that has begun and is not committed. -/
def TSet.openRun (ts : TSet) : Bool :=
  !ts.committed && !ts.stop && !ts.dying && (match ts.phase with | .ready => !ts.fresh | .parked _ => true | _ => false)

/-- ALIAS_ROLLBACK: a hoisted load of the open run met a conflict; every effect since the last commit point is discarded and the
run begins again, with no load hoisted up to its commit (R116). Which loads the translator hoists is its own choice; of those
that may have met a conflict, one is chosen freely (R115, R117). (DESIGN CHOICE, log entry 24) -/
def execAliasRollback (team group tset : Nat) (s : State) : Res :=
  let c : Cur := (team, group, tset)
  match s.view c with
  | none => .next s
  | some (t, g, ts) =>
    let sites := if ts.openRun && !ts.inOrder then s.conflicts c (s.kernelOf t) ts (s.keptSites t) else []
    match sites with
    | [] => .next s
    | x :: xs =>
      let site := choose (Config.freePick s.free 0) x (x :: xs)
      let s1 := (((s.forget (waiterOf c)).setTeam (t.discard g ts s.clk)).onTset c fun y => { y with inOrder := true }).rejoin c
      .next { s1 with
        tcache := (match s1.launch? t.launch with
          | some l => lreplace (fun e => e.id == l.entry) (fun e => e.rollback site.1 site.2) s1.tcache
          | none => s1.tcache)
        free := s1.free + 1 }

/-! ### Faults of engine work (R73) -/

/-- The set that takes a charge: the one that holds the lowest of the issuing word's lanes that has not exited. -/
def Group.chargedSet (g : Group) (p : Pend) : Option TSet :=
  p.lanes.findSome? fun l => g.tsets.find? fun ts => !ts.dying && ts.lanes.contains l

/-- The set stands where it takes a charge: between runs, parked inside one, or parked after its commit. A `sys` still to be
answered is waited for, unless the context drains and has abandoned it (R65, R73). -/
def TSet.takesCharge (ts : TSet) (draining : Bool) : Bool :=
  match ts.phase with
  | .ready => ts.fresh
  | .parked _ => true
  | .post (.barrier _) => true
  | .post .service => draining
  | .post _ => false
  | .await => true
  | .conv _ => true
  | .inHandler _ => false

/-- The sets of the handler that a waiting parent is served by. -/
def Group.servants (g : Group) (parent : Nat) : List TSet := g.tsets.filter fun y => y.serves parent

/-- The set takes a charge now: so does one that waits for a handler which is parked, or which stands at a boundary and begins no
further run, since its own run is then parked as well (R73). -/
def State.mayCharge (s : State) (t : Team) (g : Group) (ts : TSet) : Bool :=
  let draining := (s.ctx (s.ctxOf t)).state == 5
  match ts.phase with
  | .inHandler _ => (g.servants ts.id).all fun y => y.takesCharge draining && (y.phase != .ready || t.halting)
  | _ => ts.takesCharge draining

/-- A thread set takes the charges reported for it, in the order in which they were reported: an open run is discarded, and with
it that of a handler it waits for. -/
def State.takeCharges (s : State) (c : Cur) (ps : List Pend) : State :=
  match s.view c with
  | none => s
  | some (t, g, ts) =>
    let end_ (s : State) (c : Cur) : State :=
      match s.view c with
      | none => s
      | some (t, g, x) =>
        let s0 := s.forget (waiterOf c)
        let s1 := if x.parkedIn then s0.setTeam (t.discard g x s.clk) else s0
        let unasked (y : TSet) : TSet := { y with held := y.held.filter fun h => match h.act with | .sys .. => false | _ => true }
        (s1.onTset c unasked).dropSet c
    let s1 := (g.servants ts.id).foldl (fun s y => end_ s (c.1, c.2.1, y.id)) s
    let s2 := end_ s1 c
    let s3 := ps.foldl (fun s p => s.recordFault t g.index (s.tcore t g.index) p.pc ts.lanes p.info) s2
    match ps with
    | [] => s3
    | p :: _ => s3.faultLaunch t.launch p.info.code

/-- A charge whose lanes have all exited is recorded against the team at once. -/
def State.chargeTeam (s : State) (t : Team) (p : Pend) : State :=
  (s.recordFault t p.group (s.tcore t p.group) p.pc p.lanes { p.info with lane := p.lanes.headD 0 }).faultLaunch
    t.launch p.info.code

/-- ENGINE_FAULT_DELIVERY: the first charge that can be taken now, with the others of its thread set (R73). -/
def execEngineFaultDelivery (team : Nat) (s : State) : Res :=
  match s.team? team with
  | none => .next s
  | some t =>
    let target (p : Pend) : Option TSet := match t.group? p.group with | some g => g.chargedSet p | none => none
    let now (p : Pend) : Bool :=
      match t.group? p.group, target p with | some g, some ts => s.mayCharge t g ts | _, _ => true
    match t.pend.find? now with
    | none => .next s
    | some p =>
      match target p with
      | none => .next ((s.setTeam { t with pend := t.pend.erase p }).chargeTeam t p)
      | some ts =>
        let mine (q : Pend) : Bool := q.group == p.group && (target q).map (·.id) == some ts.id
        .next ((s.setTeam { t with pend := t.pend.filter fun q => !mine q }).takeCharges (team, p.group, ts.id)
          (t.pend.filter mine))

/-! ### Fault records (R69, R71) -/

/-- The 32 bytes of a record. -/
def FRecord.bytes (r : FRecord) : List Byte :=
  let e := r.info
  let addr := if [3, 4, 5, 6, 7, 8].contains e.code ∨ e.code = 10 then e.addr else 0
  leBytes 8 (e.code % 256 + e.lane * 256 + e.src % 8 * 2 ^ 13 + e.kind % 4 * 2 ^ 16 + r.ctx * 2 ^ 18 + e.detail % 2 ^ 32 * 2 ^ 32) ++
    leBytes 8 (r.pc % 2 ^ 32 + r.grid % 2 ^ 32 * 2 ^ 32) ++ leBytes 8 addr ++
    leBytes 8 (r.core % 256 * 2 ^ 16 + r.group % 256 * 2 ^ 24 + r.team % 2 ^ 32 * 2 ^ 32)

/-- Slots of a fault ring. -/
def Ctx.ringSlots (c : Ctx) : Nat :=
  let n := fieldOf c.fring.toNat 0 5
  if 7 ≤ n ∧ n ≤ 16 then 2 ^ n else 0

/-- Virtual address of record k. -/
def Ctx.recordVa (c : Ctx) (k : Nat) : Nat := fieldOf c.fring.toNat 12 45 * 4096 + 32 * (k % c.ringSlots)

/-- The first waiting record is lost. -/
def State.loseRecord (s : State) (ctx : Nat) : State :=
  let c := s.ctx ctx
  s.setCtx ctx { c with
    fwait := c.fwait.drop 1, fwalk := none, flost := if c.flost = BitVec.allOnes 32 then c.flost else c.flost + 1 }

/-- The trace record of a fault record (R332). -/
def State.faultTrace (s : State) (r : FRecord) : State :=
  s.trace (s.recWord r.ids
    { cls := 11, team := r.team, grid := r.grid, pc := r.pc, lanes := r.lanes, group := r.group, ctx := r.ctx })

/-- FAULT_RECORD_WRITE: the first waiting record goes into the next slot and the fault interrupt is raised; a full ring or
a refused store loses it (R71). -/
def execFaultRecordWrite (ctx : Fin 64) (s : State) : Res :=
  let c := s.ctx ctx.val
  match c.fwait with
  | [] => .next s
  | r :: rest =>
    if c.fwalk.isSome then .next s
    else if c.ringSlots ≤ (c.ftail - c.fhead).toNat then .next (s.loseRecord ctx.val)
    else
      let p := s.devPlace ctx.val (c.recordVa c.ftail.toNat) 1
      match p.2 with
      | .at pa =>
        let s1 := p.1.poke pa r.bytes
        let c1 := s1.ctx ctx.val
        .next (((s1.setCtx ctx.val { c1 with fwait := rest, ftail := c1.ftail + 1 }).irq (.fault ctx.val)).faultTrace r)
      | .fail .. => .next (p.1.loseRecord ctx.val)
      | .req id => .next (p.1.setCtx ctx.val { p.1.ctx ctx.val with fwalk := some id })
      | .busy => .next p.1

/-! ### Stops at words (R327, R329) -/

/-- What a set meets before it stops at a trailer whose DBG bit is set: its run must be able to commit. -/
def State.trailerWait (s : State) (t : Team) (g : Group) (ts : TSet) : Option Park × Option (Nat × FInfo) :=
  let atTrailer := match (s.kernelOf t).text[ts.pc]? with | some w => isTrailerWord w | none => false
  if atTrailer && !ts.committed then (s.commitWait t g ts, s.commitFault t g ts) else (none, none)

/-- DEBUG_STOP: the set stops before a word whose DBG bit is set, or takes at a run boundary, or where it is parked, the stop that
awaits it (R327, R329, R330). -/
def execDebugStop (team group tset : Nat) (s : State) : Res :=
  let c : Cur := (team, group, tset)
  match s.view c with
  | none => .next s
  | some (t, g, ts) =>
    if ts.stopDue then .next (s.stopSet c ts.stopClass)
    else if ts.phase = .ready ∧ s.dbgHit t g ts then
      let unissued (x : TSet) : TSet := { x with issued := ts.issued }
      match s.clearRun c with
      | .wait s0 p => .next (s0.onTset c fun x => unissued (x.park p))
      | .again s0 => .next s0
      | .ok s0 =>
        match s0.view c with
        | none => .next s0
        | some (t0, g0, ts0) =>
          match s0.trailerWait t0 g0 ts0 with
          | (some p, _) => .next (s.onTset c fun x => unissued (x.park p))
          | (none, some e) => .next (s0.takeFault c e.1 e.2)
          | (none, none) => .next (s0.stopHere c 8)
    else .next s

end Sys2Proof.Machine
end

