-- ==== Sys2Proof/Machine/EvPage.lean ====
section
/-!
DEFINITION. Events of paging: roots, walks, page requests resolved, invalidations, access counters, migrations and replica
sets (R195 to R206).
-/
namespace Sys2Proof.Machine

/-! ### Roots and walks (R195 to R197) -/

/-- PG_ROOT_WRITE: the root of a CREATED context (R195, R206); a write in another state keeps its root. -/
def execPgRootWrite (value : BitVec 64) (s : State) : Res :=
  let n := fieldOf value.toNat 44 6
  let c := s.ctx n
  let c1 := if c.state = 1 then { c with root := value.extractLsb' 0 44, rooted := true } else c
  .next { s.setCtx n c1 with pg := { s.pg with root := BitVec.ofNat 64 (n * 2 ^ 44 + c1.root.toNat) } }

/-- A swapped-out team, or one on its way out, waits for the walk (R132). -/
def State.walkWanted (s : State) (id : Nat) : Bool :=
  let names (o : Option Swapped) : Bool := match o with | some x => x.walks.contains id | none => false
  s.teams.any fun t => names t.leaving || names t.out

/-- PAGE_WALK: the walk is performed; a leaf that passes is cached, a failed check raises a request (R196 to R198), and
messages that wait for it are posted. A walk that nobody waits for is dropped. -/
def execPageWalk (walk : Nat) (s : State) : Res :=
  match s.walks.find? fun w => w.id == walk with
  | none => .next s
  | some w =>
    if w.req.isSome then .next s
    else if w.waiters = [] ∧ !s.walkWanted walk then .next { s with walks := s.walks.filter fun x => x.id != walk }
    else if s.walkEnabled w then .next (s.doWalk w).retryMsgs
    else .next s

/-! ### Requests resolved (R198, R85, R90, R91, R71, R110) -/

/-- The request a write of `PG_FRES` names, with its outcome. -/
def State.fres (s : State) (value : BitVec 64) : Option (PReq × Nat) :=
  (s.preqs.find? fun r => r.id == fieldOf value.toNat 8 32).map fun r => (r, fieldOf value.toNat 0 8)

/-- Everything of the device itself that waited for a translation tries again: launches, counters, stores and records. -/
def State.retryDevice (s : State) : State :=
  let s1 := s.launches.foldl (fun s l =>
    match s.launch? l.id with
    | some l => if l.phase = 2 then s.childCounter l else s.prepLaunch l.id
    | none => s) s
  s1.retryAllStores.retryMsgs.flushLate

/-- No one waits on the request any more. -/
def State.unwait (s : State) (id : Nat) : State :=
  let free (o : Option Nat) : Option Nat := if o = some id then none else o
  let walk (w : Walk) : Walk := { w with req := free w.req }
  let pkt (p : Pkt) : Pkt := { p with req := free p.req }
  let queue (x : Queue) : Queue :=
    { x with paused := free x.paused, wake := x.wake || x.paused == some id, pkts := x.pkts.map pkt }
  let launch (l : Launch) : Launch := { l with req := free l.req }
  let ctx (c : Ctx) : Ctx := { c with fwalk := free c.fwalk }
  let late (w : Late) : Late := { w with req := free w.req }
  let ep (e : Ep) : Ep := { e with held := e.held.filter fun h => h.2 != id }
  { s with
    eps := s.eps.map fun e => (e.1, ep e.2)
    preqs := s.preqs.filter fun r => r.id != id
    walks := s.walks.map walk
    queues := s.queues.map fun e => (e.1, queue e.2)
    launches := s.launches.map launch
    ctxs := s.ctxs.map fun e => (e.1, ctx e.2)
    cxq := { s.cxq with late := s.cxq.late.map late, kreq := free s.cxq.kreq } }

/-- PAGE_REPLAY: every waiter of the request tries again (R198). -/
def execPageReplay (value : BitVec 64) (s : State) : Res :=
  match s.fres value with
  | some (r, 0) => .next (s.unwait r.id).retryDevice
  | _ => .next s

/-- The walks that a failed request ends: their waiters will take the fault. -/
def State.failWalks (s : State) (r : PReq) (code : Nat) : State :=
  let mine := s.walks.filter fun w => w.req == some r.id
  let ends := (mine.filter fun w => w.waiters != []).map fun w =>
    (⟨w.core, w.ctx, w.va / 4096, w.kind, { code := code, detail := r.cause }, w.waiters, some r.va⟩ : WalkEnd)
  { s with walks := s.walks.filter (fun w => w.req != some r.id), walkEnds := s.walkEnds ++ ends }

/-- A packet whose translation failed (R85, R90, R91, R93, R96). -/
def State.failPkt (s : State) (q : Nat) (p : Pkt) (code : Nat) : State :=
  if p.state = 3 then (s.setPkt q { p with req := none, state := 2, ccfail := true }).settleQueue q
  else if p.typ = 2 ∧ p.state = 1 then
    s.endSegment q { p with
      req := none, segs := p.segs.filter (· != p.reqSeg), fails := p.fails ++ [(p.reqSeg, p.reqAt, code)] }
  else (s.setPkt q { p with req := none }).completePkt q p.num code 0

/-- A launch whose translation failed: its parameters cannot be read, or a child's counter is not stepped (R90, R91,
R100). -/
def State.failReq (s : State) (l : Launch) (code cause : Nat) : State :=
  let l1 := { l with req := none }
  let s1 := s.setLaunch l1
  if l.phase = 2 then { s1 with launches := s1.launches.filter fun x => x.id != l.id }
  else if l.parent.isSome then s1.failLaunch l1 0x0E 0 5
  else s1.failLaunch l1 code (l.params.headD 0).toNat cause

/-- Received packets that waited for the request are refused (R320). -/
def State.refuseHeld (s : State) (id : Nat) : State :=
  let refusals := s.eps.flatMap fun e => (e.2.held.filter fun h => h.2 == id).map fun h => Wire.refuse e.1 h.1
  { s with wires := s.wires ++ refusals }

/-- PAGE_FAIL: every waiter of the request takes a non-replayable fault of the outcome's code, with ADDR its address and
DETAIL its cause (R198). Work of the device itself fails as its own rule gives: the writes that a queue owes to the page are
lost, and so is a DRAINED queue's read of TAIL there, which then has no further packet (R85). (DEDUCED, log entry 41) -/
def execPageFail (value : BitVec 64) (s : State) : Res :=
  match s.fres value with
  | none => .next s
  | some (r, code) =>
    if ¬ (3 ≤ code ∧ code ≤ 5) then .next s
    else
      let s1 := s.failWalks r code
      let pkts := s1.queues.flatMap fun e => (e.2.pkts.filter fun p => p.req == some r.id).map fun p => (e.1, p)
      let queues := (s1.queues.filter fun e => e.2.paused == some r.id).map (·.1)
      let launches := s1.launches.filter fun l => l.req == some r.id
      let ctxs := (s1.ctxs.filter fun e => e.2.fwalk == some r.id).map (·.1)
      let late := s1.cxq.late.filter fun w => w.req == some r.id
      let s2 := { s1 with cxq := { s1.cxq with
        late := s1.cxq.late.filter (fun w => w.req != some r.id), kfail := s1.cxq.kfail || s1.cxq.kreq == some r.id } }
      let s3 := (s2.refuseHeld r.id).unwait r.id
      let s4 := pkts.foldl (fun s x => s.failPkt x.1 x.2 code) s3
      -- the queue's accesses to this page are lost
      let lost (x : Queue) : Queue := { x with lost := x.lost ++ [r.va / 4096] }
      let s5 := queues.foldl (fun s q => (s.setQueue q (lost (s.queue q))).haltQueue q 2) s4
      let s6 := launches.foldl (fun s l => s.failReq l code r.cause) s5
      let s7 := ctxs.foldl State.loseRecord s6
      let s8 := late.foldl (fun s w => s.profRes w 3) s7
      .next s8.retryDevice

/-- PG_FQH_HEAD_WRITE: HEAD of the request ring; requests held for slots are written (R198, R206). -/
def execPgFqhHeadWrite (value : BitVec 64) (s : State) : Res :=
  .next ({ s with pg := { s.pg with fqh := value.extractLsb' 0 32 } } : State).flushReqs

/-! ### Invalidations (R199) -/

/-- An act holds an access to a page that satisfies a test. -/
def Act.touches (p : Nat → Bool) (a : Act) : Bool :=
  let at_ (l : Loc) : Bool := match l with | .mem pa => p (pa / 4096) | _ => false
  match a with
  | .store l .. => at_ l
  | .qsig l .. => at_ l
  | .atom _ _ _ _ _ parts _ => parts.any fun x => at_ x.loc
  | .qjoin _ parts => parts.any fun x => p (x.2.1 / 4096)
  | _ => false

/-- Discard the open runs of parked sets that hold such an access. (DEDUCED, log entry 45) -/
def State.discardHolders (s : State) (p : Nat → Bool) : State :=
  s.teams.foldl (fun s t => t.groups.foldl (fun s g => g.tsets.foldl (fun s ts =>
    if ts.parkedIn && ts.held.any (fun h => h.act.touches p) then
      (s.forget (.set t.id g.index ts.id)).discardRun (t.id, g.index, ts.id)
    else s) s) s) s

/-- A held access, or one that another package has still to answer, to such a page is neither performed nor discarded. -/
def State.holds (s : State) (p : Nat → Bool) : Bool :=
  s.teams.any (fun t => t.groups.any fun g => g.tsets.any fun ts => ts.held.any fun h => h.act.touches p) ||
  s.accesses.any fun a => match a.loc with | .mem pa => p (pa / 4096) | _ => false

/-- Buffered stores to such pages are performed. (DEDUCED, log entry 45) -/
def State.drainPages (s : State) (p : Nat → Bool) : State :=
  (s.cores.map (·.1)).foldl (fun s c => s.drainWc c fun e => p (e.line / 4096)) s

/-- A former translation is one of a page of a context, or of any page of it (R199). -/
def formerOf (ctx : Nat) (vpn : Option Nat) (x : Nat × Nat × Nat × Nat) : Bool :=
  x.1 == ctx && (match vpn with | none => true | some v => x.2.1 / x.2.2.1 == v / x.2.2.1)

/-- Pages that translations of a context have given: of one page of it, or all. -/
def State.cachedPages (s : State) (ctx : Nat) (vpn : Option Nat) : List Nat :=
  (s.tlbs.filter fun e => e.covers ctx vpn).flatMap s.tlbPages ++
    (s.pg.former.filter fun x => formerOf ctx vpn x).map (·.2.2.2)

/-- Start an invalidation. (DEDUCED, log entry 45) -/
def State.invalidate (s : State) (value : BitVec 64) (vpn : Option Nat) : State :=
  let ctx := fieldOf value.toNat 56 6
  let pages := (s.cachedPages ctx vpn).foldr sinsert s.pg.invalPages
  let s1 := s.dropTlbs ctx vpn
  { s1 with pg := { s1.pg with
      inval := (value &&& 0x7F001FFFFFFFFFFF) ||| 0x8000000000000000
      invalPages := pages, former := s1.pg.former.filter fun x => !formerOf ctx vpn x } }

/-- INVALIDATE_PAGE: a write of `PG_INVAL` with ALL 0 (R199, R206). (DEDUCED, log entry 17) -/
def execInvalidatePage (value : BitVec 64) (s : State) : Res :=
  if value.getLsbD 62 then .next s else .next (s.invalidate value (some (fieldOf value.toNat 0 45)))

/-- INVALIDATE_ALL: a write of `PG_INVAL` with ALL 1 (R199, R206). -/
def execInvalidateAll (value : BitVec 64) (s : State) : Res :=
  if value.getLsbD 62 then .next (s.invalidate value none) else .next s

/-- INVALIDATE_COMPLETE: parked sets that hold an access under a dropped translation discard their runs, buffered stores
are performed, and BUSY clears once nothing else holds one (R199). -/
def execInvalidateComplete (s : State) : Res :=
  if !s.pg.inval.getLsbD 63 then .next s
  else
    let p (page : Nat) : Bool := s.pg.invalPages.contains page
    let s1 := (s.discardHolders p).drainPages p
    if s1.holds p then .next s1
    else .next { s1 with pg := { s1.pg with inval := s1.pg.inval &&& 0x7FFFFFFFFFFFFFFF, invalPages := [] } }

/-! ### Access counters (R202) -/

/-- COUNTER_EPOCH: every EPOCH × 2^20 ac the counters are halved. -/
def execCounterEpoch (s : State) : Res :=
  let e := fieldOf s.pg.cthr.toNat 16 16
  if e = 0 ∨ s.clk < s.pg.epoch + e * 2 ^ 20 then .next s
  else
    .next { s with
      counters := (s.counters.map fun c => (c.1, c.2 / 2)).filter fun c => c.2 != 0
      pg := { s.pg with epoch := s.clk } }

/-! ### Migration (R203) -/

/-- A migration engine. -/
def State.mig (s : State) (quay : Nat) : Mig := aget {} s.pg.migs quay
def State.setMig (s : State) (quay : Nat) (m : Mig) : State :=
  { s with pg := { s.pg with migs := aset {} s.pg.migs quay m } }

/-- The engine with what its registers name, and SIZE, as GO is written. -/
def Mig.latch (m : Mig) : Mig :=
  { m with
    srcPa := fieldOf m.src.toNat 12 44 * 4096, dstPa := fieldOf m.dst.toNat 12 44 * 4096, pteAt := fieldOf m.pte.toNat 3 53 * 8
    code := m.size }
/-- Bytes of the frames. -/
def Mig.bytes (m : Mig) : Nat := pageSize m.code
/-- A page lies in the source frame. -/
def Mig.inSrc (m : Mig) (page : Nat) : Bool :=
  decide (m.srcPa ≤ page * 4096) && decide (page * 4096 < m.srcPa + m.bytes)

/-- PPN of a leaf that maps a frame of a size. -/
def framePpn (size pa : Nat) : Nat := if size = 1 then pa / 4096 / 16 * 16 + 8 else pa / 4096
/-- A leaf with another PPN. -/
def pteWithPpn (p ppn : Nat) : Nat := p - ptePpn p * 1024 + ppn * 1024

/-- The leaf may be migrated (step 1); one that lies in the translation cache, or under no key, may not (R17, R67).
(DEDUCED, log entry 34) -/
def State.leafOk (s : State) (m : Mig) (p : Nat) : Bool :=
  pteBit p 0 && pteBit p 2 && !pteBit p 8 && !pteBit p 9 && pteBit p 63 == (m.code == 1) &&
    ptePpn p == framePpn m.code m.srcPa && m.srcPa % m.bytes == 0 && !s.shut m.pteAt

/-- Drop the translations of the source frame, and the sets and buffered stores that hold accesses to it. -/
def State.invalidateFrame (s : State) (m : Mig) : State :=
  let s1 := (s.discardHolders m.inSrc).drainPages m.inSrc
  { s1 with tlbs := s1.tlbs.filter fun e => !m.inSrc (e.pa / 4096) }

/-- A frame of the migration meets the translation cache or the translator's memory, which no driver may read or write, or lies under
no key (R17, R67). -/
def State.sealedMig (s : State) (m : Mig) : Bool :=
  let n := m.bytes
  let meets (pa : Nat) : Bool := s.shut pa || s.shut (pa + n - 1) ||
    s.fw.sealed.any fun r => decide (r.1 < paOff pa + n) && decide (paOff pa < r.1 + r.2)
  meets m.srcPa || meets m.dstPa

/-- MIGRATION_START: a write of `PG_MCTL`: SIZE is kept, and with GO, unless a migration runs, the leaf is checked and marked, and
its translations are invalidated (R203 steps 1 and 2, R206). A leaf whose bytes are lost ends it with DATA (R348). R203 gives no
STATUS for a DST that is not aligned to SIZE or lies in a hole of the map: it is accepted. (DESIGN CHOICE, log entry 34) -/
def execMigrationStart (quay : Fin 4) (value : BitVec 64) (s : State) : Res :=
  let m0 := s.mig quay.val
  let m1 := { m0 with size := fieldOf value.toNat 3 2 }
  if m0.busy ∨ !value.getLsbD 0 then .next (s.setMig quay.val m1)
  else
    let m := m1.latch
    let p := s.word64 m.pteAt
    if s.locBad (.mem m.pteAt) 8 then .next (s.setMig quay.val { m with status := 3 })
    else if !s.leafOk m p then .next (s.setMig quay.val { m with status := 2 })
    else if paKey m.srcPa ≠ paKey m.dstPa ∨ s.sealedMig m then .next (s.setMig quay.val { m with status := 4 })
    else
      let leaf := p + 256 - 4
      let s1 := s.putNat m.pteAt 8 leaf
      .next ((s1.setMig quay.val { m with status := 0, busy := true, leaf := leaf }).invalidateFrame m)

/-- Memory with a range replaced by a copy of another. -/
def moveRange (mem : Memory) (src dst n : Nat) : Memory :=
  let from_ := mem.filter fun e => decide (src ≤ e.1) && decide (e.1 < src + n)
  from_.foldl (fun m e => writeByte m (dst + (e.1 - src)) e.2)
    (akeep (fun a => !(decide (dst ≤ a) && decide (a < dst + n))) mem)

/-- Memory with each byte of a range its own or that of the source, freely. -/
def mixRange (mem : Memory) (draw src dst n : Nat) : Memory :=
  let keys := (mem.filterMap fun e =>
    if src ≤ e.1 ∧ e.1 < src + n then some (e.1 - src) else if dst ≤ e.1 ∧ e.1 < dst + n then some (e.1 - dst) else none).foldr sinsert []
  keys.foldl (fun m k =>
    writeByte m (dst + k) (choose (Config.freePick draw k) 0 [readByte mem (dst + k), readByte mem (src + k)])) mem

/-- A link in training holds the traffic of a migration to its frames or its leaf (R305, R307). -/
def State.migHeld (s : State) (m : Mig) : Bool :=
  [m.srcPa, m.dstPa].any (fun pa => s.linkHeld 1024 pa m.bytes || s.polderWaits (.mem pa)) ||
    s.linkHeld 1024 m.pteAt 8 || s.polderWaits (.mem m.pteAt)

/-- An error strikes the copy: its source or its leaf has lost bytes, a frame lies on a FAILED channel or in a package that is cut off,
or the frames' key has been destroyed (R67, R203, R308, R348). (DEDUCED, log entry 34) -/
def State.migBad (s : State) (m : Mig) : Bool :=
  s.locBad (.mem m.srcPa) m.bytes || s.hbmFailed m.dstPa m.bytes || s.polderGone (.mem m.srcPa) || s.polderGone (.mem m.dstPa) ||
    s.locBad (.mem m.pteAt) 8 || s.shut m.srcPa || s.shut m.dstPa

/-- MIGRATION_COPY_END: the copy of a frame ends and its leaf swings to DST; an uncorrectable error (`ok` false, or one
that strikes it) ends it with DATA, and a leaf that has changed, or can no longer be written, with BADPTE (R203 steps 3 to 5). It
waits for accesses still held under the old leaf, buffered and unanswered stores among them, and for links in training.
(DEDUCED, log entry 34) -/
def execMigrationCopyEnd (quay : Fin 4) (ok : Bool) (s : State) : Res :=
  let m := s.mig quay.val
  if !m.busy then .next s
  else
    let s0 := (s.discardHolders m.inSrc).drainPages m.inSrc
    if s0.holds m.inSrc ∨ s0.migHeld m then .next s0
    else
      let n := m.bytes
      let leaf := s0.word64 m.pteAt
      let bad := !ok || s0.migBad m
      let kept := leaf = m.leaf ∧ !s0.shut m.pteAt
      let done (s : State) (st : Nat) : State :=
        (((s.setMig quay.val { m with busy := false, status := st }).invalidateFrame m).retryDevice)
      if bad then
        let s1 : State := { s0 with mem := mixRange s0.mem s0.free m.srcPa m.dstPa n, free := s0.free + 1 }
        .next (done (if kept ∧ !s0.locBad (.mem m.pteAt) 8 then s1.putNat m.pteAt 8 (leaf - 256 + 4) else s1) 3)
      else
        let s1 : State := { s0 with
          mem := moveRange s0.mem m.srcPa m.dstPa n
          badBytes := s0.badBytes.filter fun b => !(decide (m.dstPa ≤ b) && decide (b < m.dstPa + n)) }
        if ¬kept then .next (done s1 2)
        else .next (done (s1.putNat m.pteAt 8 (pteWithPpn leaf (framePpn m.code m.dstPa) - 256 + 4)) 1)

/-! ### Replica sets (R204) -/

/-- The descriptor that a write of `PG_REPL` names. -/
def descAt (value : BitVec 64) : Nat := fieldOf value.toNat 6 50 * 64

/-- A replica set as its descriptor gives it; one that lies in the translation cache or under no key, or whose bytes are lost,
gives none (R17, R67, R348). (DESIGN CHOICE, log entry 63) -/
def State.readRepl (s : State) (desc : Nat) : Repl :=
  let w0 := if s.shut desc || s.locBad (.mem desc) 64 then 0 else s.word64 desc
  { desc := desc, ctx := fieldOf w0 8 6, size := fieldOf w0 4 2
    frames := (List.range (fieldOf w0 0 4)).map fun k => s.word64 (desc + 8 * (k + 1)) }

/-- The set is well described: 2 to 7 aligned frames under one key ID, no two on one quay die of a package.
(DEDUCED, log entry 34) -/
def State.replOk (s : State) (r : Repl) : Bool :=
  let place (f : Nat) : Nat := 4 * paPkg f + paQuay f
  decide (2 ≤ r.frames.length) && decide (r.frames.length ≤ 7) &&
    r.frames.all (fun f => f % pageSize r.size == 0 && paKey f == paKey (r.frames.headD 0) && decide (f < 2 ^ 56) && !s.paHole f && !s.sealed f) &&
    ((r.frames.map place).foldr sinsert []).length == r.frames.length

/-- The outcome of a write of `PG_REPL`. -/
def State.replStatus (s : State) (st : Nat) : State := { s with pg := { s.pg with replS := st } }

/-- REPLICA_ADD: a write of `PG_REPL` with OP 1 (R204, R206). -/
def execReplicaAdd (value : BitVec 64) (s : State) : Res :=
  let r := s.readRepl (descAt value)
  if fieldOf value.toNat 4 2 ≠ 1 then .next s
  else if !s.replOk r then .next (s.replStatus 3)
  else if 4096 ≤ s.repls.length then .next (s.replStatus 2)
  else .next (({ s with repls := s.repls ++ [r] } : State).replStatus 1)

/-- REPLICA_REMOVE: a write of `PG_REPL` with OP 2 (R204, R206). Cached translations name the sets that remain.
(DEDUCED, log entry 45) -/
def execReplicaRemove (value : BitVec 64) (s : State) : Res :=
  if fieldOf value.toNat 4 2 ≠ 2 then .next s
  else match s.repls.findIdx? fun r => r.desc == descAt value with
    | none => .next (s.replStatus 4)
    | some i =>
      let tlb (e : Tlb) : Tlb :=
        if e.rep = i + 1 then { e with rep := 8192 } else if i + 1 < e.rep ∧ e.rep ≠ 8192 then { e with rep := e.rep - 1 } else e
      .next (({ s with repls := s.repls.eraseIdx i, tlbs := s.tlbs.map tlb } : State).replStatus 1)

end Sys2Proof.Machine
end

