-- ==== Sys2Proof/Machine/EvLink.lean ====
section
/-!
DEFINITION. Events of the links, the polder fabric and the transport engine (R304 to R326, R376).
-/
namespace Sys2Proof.Machine

/-! ### Link geometry (R304, R309) -/

/-- KIND and INDEX of a link's key. -/
def linkKind (n : Nat) : Nat := n / 512
def linkIndex (n : Nat) : Nat := n % 512
/-- The package holds the link. -/
def hasLink (n : Nat) : Bool := decide (linkIndex n < [512, 64, 16, 8].getD (linkKind n) 0)
/-- Lanes of a kind at full width. -/
def linkFull (kind : Nat) : Nat := match kind with | 0 => Nat.min Config.hbmLanes 128 | 1 => 16 | _ => 8
/-- Spare lanes of a kind. -/
def linkSpares (kind : Nat) : Nat := match kind with | 0 => Nat.min Config.hbmRepair (128 - linkFull 0) | 1 => 2 | _ => 0
/-- Lane numbers of a kind, NLANES. -/
def linkLanes (kind : Nat) : Nat := linkFull kind + linkSpares kind
/-- Permitted widths of a kind, widest first. -/
def linkWidths (kind : Nat) : List Nat := if kind = 2 then [8, 4, 2] else [linkFull kind]
/-- The lanes that carry traffic at a width of a link without spares: as many as the width, and below the full one those that the
device chooses (R304). (DEDUCED, log entry 47) -/
def widthLanes (kind w : Nat) : List Nat :=
  let all := List.range (linkFull kind)
  ((all.filter (Config.narrowLane w) ++ all.filter fun l => !Config.narrowLane w l).take w).foldr sinsert []

/-- Every lane of a width works. -/
def Link.works (x : Link) (kind w : Nat) : Bool :=
  if linkSpares kind ≠ 0 then decide (x.lost.length ≤ linkSpares kind) else (widthLanes kind w).all fun l => !x.lost.contains l

/-- The width a link carries, or may reach in training. -/
def Link.wide (x : Link) (kind : Nat) : Nat := if x.width = 0 then linkFull kind else x.width
/-- The widest permitted width below another whose lanes all work. -/
def Link.narrower (x : Link) (kind w : Nat) : Option Nat := (linkWidths kind).find? fun v => decide (v < w) && x.works kind v

/-- The lanes carrying traffic: of a link with spares, the first that work. -/
def Link.carrying (x : Link) (kind : Nat) : List Nat :=
  if x.state ≠ 2 ∧ x.state ≠ 3 then []
  else if linkSpares kind ≠ 0 then ((List.range (linkLanes kind)).filter fun l => !x.lost.contains l).take (linkFull kind)
  else widthLanes kind (x.wide kind)

/-- The link `LK_SEL` selects (R309). -/
def State.selLink (s : State) : Option Nat :=
  let n := 512 * fieldOf s.nt.lksel.toNat 16 2 + fieldOf s.nt.lksel.toNat 0 9
  if hasLink n then some n else none

/-- `LK_STAT` of a link (R309). -/
def Link.stat (x : Link) (kind : Nat) : Nat :=
  (linkSpares kind - x.lost.length) * 2 ^ 32 + linkLanes kind * 2 ^ 24 + x.lost.length * 2 ^ 16 +
    (x.carrying kind).length * 2 ^ 8 + x.state

/-- `LK_EYE` of a lane of a link (R309). -/
def Link.eye (x : Link) (kind lane : Nat) : Nat :=
  if linkLanes kind ≤ lane then 3 * 2 ^ 16
  else
    (if x.lost.contains lane then 2 else if (x.carrying kind).contains lane then 0 else 1) * 2 ^ 16 + aget 65535 x.eyes lane % 2 ^ 16

/-- A link enters a state. -/
def Link.enter (x : Link) (clk st w : Nat) : Link := { x with state := st, since := clk, width := w }

/-! ### A link in FAILED (R308, R316) -/

/-- The reports a lost team's work owes, one for each item in flight: LINK, DETAIL 1, and for a message NET, DETAIL 2
(R308, R349). (DEDUCED, log entry 48) -/
def State.lostItems (s : State) (id : Nat) : List Pend :=
  let link : FInfo := { code := 15, detail := 1 }
  ((s.frags.filter fun x => x.team == id).map fun x => ⟨x.group, x.lanes, x.pc, { link with lane := x.lane }⟩) ++
  ((s.cmds.filter fun x => x.team == id).map fun x => ⟨x.group, x.lanes, x.pc, { link with lane := x.lane }⟩) ++
  ((s.msgs.filter fun x => x.team == id).map fun x => ⟨x.group, x.lanes, x.pc, { code := 16, lane := x.lane, detail := 2 }⟩) ++
  ((s.accesses.filter fun x => x.team == id && x.kind != 0).map fun x => ⟨x.group, x.lanes, x.pc, { link with lane := x.lane }⟩) ++
  (s.cores.flatMap fun c => c.2.wc.flatMap fun e =>
    (e.by_.filter fun x => x.1.team == id).map fun x => ⟨x.1.group, x.1.lanes, x.1.pc, { link with lane := x.1.lane }⟩)

/-- Forget everything a team has in flight. Of a line that other teams' words share, the whole entry stays for them.
(DEDUCED, log entry 48) -/
def State.dropWork (s : State) (id : Nat) : State :=
  let left (e : WcEntry) : WcEntry := { e with by_ := e.by_.filter fun x => x.1.team != id }
  let core (c : Core) : Core := { c with wc := (c.wc.map left).filter fun e => e.by_ != [] }
  { s.forgetTeam id with
    cmds := s.cmds.filter fun x => x.team != id
    frags := s.frags.filter fun x => x.team != id
    fills := s.fills.filter fun x => x.team != id
    acreds := s.acreds.filter fun x => x.team != id
    msgs := s.msgs.filter fun x => x.team != id
    accesses := s.accesses.filter fun x => x.team != id
    cores := s.cores.map fun e => (e.1, core e.2) }

/-- The failures of a team's work recorded against it, each on its own (R73, R349). -/
def State.recordAll (s : State) (t : Team) (ps : List Pend) : State :=
  ps.foldl (fun s p => s.recordFault t p.group (s.tcore t p.group) p.pc p.lanes p.info) s

/-- A team resident on a die that was cut off is lost: its launch completes with LINK, DETAIL 1, each item of its work is
reported, the records it has pushed complete, and the fragments other teams sent to it fail, their path gone (R232, R308, R349).
(DEDUCED, log entry 48) -/
def State.loseTeam (s : State) (id : Nat) : State :=
  match s.team? id with
  | none => s
  | some t =>
    let l := s.launchOf t
    let s1 := (if l.fault = some 15 then s else s.launchRecord l 15 0 1).recordAll t (t.pend ++ s.lostItems id)
    let s2 := t.children.foldl (fun s ws => s.loseChild t ws) ((s1.faultLaunch t.launch 15).dropWork id)
    let sent (f : Frag) : Bool := match f.dst with | .scr i _ => i == id | _ => false
    ((s2.frags.filter sent).foldl (fun s f => s.failFrag f 1) s2).removeTeam t true

/-- Every team with a core on the die is lost. (DEDUCED, log entry 48) -/
def State.loseDie (s : State) (die : Nat) : State :=
  let on (t : Team) : Bool := t.resident && t.cores.any fun c => c / 16 == die
  ((s.teams.filter on).map (·.id)).foldl State.loseTeam s

/-- Messages of an endpoint under its present generation. -/
def State.epMsgs (s : State) (i : Nat) : List Msg := s.msgs.filter fun m => m.args.ep == i && m.args.gen == (s.ep i).gen.toNat

/-- Send one packet of a message again, its bytes as they were cut (R319, R320). -/
def State.resend (s : State) (m : Msg) (k : Nat) : State := { s with wires := s.wires ++ [m.wire m.data k] }

/-- Packets of a message sent and not acknowledged. -/
def Msg.waiting (m : Msg) : List Nat := if m.posted = 0 then [] else (List.range m.total).filter fun k => !m.acked.contains k

/-- An endpoint's port failed: it moves to the other port of its quay die if that is ACTIVE, and its messages are sent again
there; otherwise it retries (R308, R316). -/
def State.portLost (s : State) (port i : Nat) : State :=
  let e := s.ep i
  let other := if port % 2 = 0 then port + 1 else port - 1
  if (s.link (1536 + other)).state = 2 then
    (s.epMsgs i).foldl (fun s m => m.waiting.foldl (fun s k => s.resend m k) s) (s.setEp i { e with port := other })
  else if e.state = 1 then s.setEp i { e with state := 2, since := s.clk }
  else s

/-- A link enters FAILED. (DEDUCED, log entry 48) -/
def State.failLink (s : State) (n : Nat) : State :=
  let s1 := s.setLink n ((s.link n).enter s.clk 5 0)
  match linkKind n with
  | 1 => if s1.dieCut (linkIndex n / 4) then s1.loseDie (linkIndex n / 4) else s1
  | 3 =>
    let mine := s1.eps.filter fun e => e.2.port == linkIndex n && (e.2.state == 1 || e.2.state == 2)
    (mine.map (·.1)).foldl (fun s i => s.portLost (linkIndex n) i) s1
  | _ => s1

/-! ### Link events (R305 to R307, R309) -/

/-- LINK_IRQ_CLEAR: IRQ of the selected link is written with 1 (R309). -/
def execLinkIrqClear (s : State) : Res :=
  match s.selLink with
  | none => .next s
  | some n => .next (s.setLink n { s.link n with irq := false })

/-- LINK_RESET: a FAILED link goes to DOWN, and a DOWN link is trained; other states ignore it (R305, R309).
(DEDUCED, log entry 47) -/
def execLinkReset (s : State) : Res :=
  match s.selLink with
  | none => .next s
  | some n =>
    let x := s.link n
    if x.state = 5 then .next (s.setLink n { x.enter s.clk 0 0 with lost := [] })
    else if x.state = 0 then .next (s.setLink n (x.enter s.clk 1 0))
    else .next s

/-- A link enters RETRAIN, from ACTIVE or DEGRADED, to reach at most a width. -/
def State.retrainTo (s : State) (n w : Nat) : State :=
  let x := s.link n
  if x.state = 2 ∨ x.state = 3 then s.setLink n (x.enter s.clk 4 w) else s

/-- LINK_REPAIR: a spare replaces the lane of lowest margin; a polder link retrains at the next lower width; otherwise it
acts as RETRAIN (R306). (DEDUCED, log entry 47) -/
def execLinkRepair (s : State) : Res :=
  match s.selLink with
  | none => .next s
  | some n =>
    let x := s.link n
    let kind := linkKind n
    let margin (l : Nat) : List Nat := [Nat.min (aget 65535 x.eyes l / 256 % 256) (aget 65535 x.eyes l % 256), l]
    if x.state ≠ 2 ∧ x.state ≠ 3 then .next s
    else if x.lost.length < linkSpares kind then
      match leastOf margin (x.carrying kind) with
      | some l => .next (s.setLink n { x with lost := sinsert l x.lost })
      | none => .next s
    else if kind = 2 then .next (s.retrainTo n ((x.narrower 2 (x.wide 2)).getD 0))
    else .next (s.retrainTo n 0)

/-- LINK_RETRAIN (R305, R309). -/
def execLinkRetrain (link : Nat) (s : State) : Res := if hasLink link then .next (s.retrainTo link 0) else .next s

/-- TRAINING_SUCCESS: training ends at a permitted width whose lanes work, and held traffic resumes (R305, R307). -/
def execTrainingSuccess (link width : Nat) (s : State) : Res :=
  let x := s.link link
  let kind := linkKind link
  if hasLink link ∧ (x.state = 1 ∨ x.state = 4) ∧ (linkWidths kind).contains width ∧ width ≤ x.wide kind ∧ x.works kind width then
    let y := x.enter s.clk (if width = linkFull kind then 2 else 3) (if width = linkFull kind then 0 else width)
    .next (s.setLink link y).retryDevice
  else .next s

/-- TRAINING_TIMEOUT: no permitted width within 250,000 ac (R305). -/
def execTrainingTimeout (link : Nat) (s : State) : Res :=
  let x := s.link link
  if hasLink link ∧ (x.state = 1 ∨ x.state = 4) ∧ x.since + 250000 ≤ s.clk then .next (s.failLink link).retryDevice
  else .next s

/-- MARGIN_INTERRUPT: a lane's monitor reads an eye; below a threshold it sets IRQ, raises the link interrupt and, with AUTO,
retrains the link (R306). -/
def execMarginInterrupt (link lane hgt wid : Nat) (s : State) : Res :=
  if !hasLink link ∨ linkLanes (linkKind link) ≤ lane ∨ 256 ≤ hgt ∨ 256 ≤ wid then .next s
  else
    let x := s.link link
    let x1 := { x with eyes := aset 65535 x.eyes lane (256 * hgt + wid) }
    if hgt < fieldOf x.thr.toNat 8 8 ∨ wid < fieldOf x.thr.toNat 0 8 then
      let s1 := (s.setLink link { x1 with irq := true }).irq (.link link)
      .next (if x.auto then s1.retrainTo link 0 else s1)
    else .next (s.setLink link x1)

/-- Packets that a forced change of a link sends again whole: a free number, counted in FAIL (R307).
(DEDUCED, log entry 47) -/
def State.sendAgain (s : State) (n : Nat) : State :=
  let x := s.link n
  { s.setLink n { x with fail := BitVec.ofNat 32 (Nat.min (x.fail.toNat + Config.freeNat s.free) (2 ^ 32 - 1)) } with free := s.free + 1 }

/-- LANE_FAILURE: a lane fails; a spare replaces it, the width falls, or the link fails (R305).
(DEDUCED, log entry 47) -/
def execLaneFailure (link lane : Nat) (s : State) : Res :=
  let x := s.link link
  let kind := linkKind link
  if !hasLink link ∨ linkLanes kind ≤ lane ∨ x.lost.contains lane then .next s
  else
    let x1 := { x with lost := sinsert lane x.lost }
    let s1 := s.setLink link x1
    let up : Bool := x.state == 2 || x.state == 3
    if x.state = 5 then .next s1
    else if x1.lost.length = linkLanes kind ∨ (kind ≠ 2 ∧ !x1.works kind (linkFull kind)) then .next (s1.failLink link)
    else if !up ∨ !(x.carrying kind).contains lane then .next s1
    else if kind ≠ 2 then .next (s1.sendAgain link)
    else match x1.narrower 2 (x.wide 2) with
      | some w => .next ((s1.setLink link (x1.enter s.clk 3 w)).sendAgain link)
      | none => .next (s1.failLink link)

/-- A count of 32 bits that stops at its top. -/
def satInc (x : BitVec 32) : BitVec 32 := if x = 0xFFFFFFFF then x else x + 1

/-- A lasting error is counted and reported (R346). (DEDUCED, log entry 51) -/
def State.lasting (s : State) : State := ({ s with fw := { s.fw with last := satInc s.fw.last } } : State).irq .uncorrectable

/-- FLIT_RETRY: a flit that failed its CRC is sent again. Where that mends it, which is a free choice, the link and the package count it as
corrected; where it fails again the error is lasting (R307, R309, R346). -/
def execFlitRetry (link : Nat) (s : State) : Res :=
  let x := s.link link
  if !hasLink link ∨ x.state = 0 ∨ x.state = 1 ∨ x.state = 5 then .next s
  else
    let s1 : State := { s with free := s.free + 1 }
    if Config.freePick s.free link % 2 = 1 then .next s1.lasting
    else
      let y := { x with
        corr := satInc x.corr
        recent := s.clk :: x.recent.filter fun t => decide (s.clk ≤ t + 2 ^ 20) }
      .next { s1.setLink link y with fw := { s.fw with corr := satInc s.fw.corr } }

/-- CORRECTED_ERROR_BURST: the corrected-error count rose by 2^16 within 2^20 ac (R305). (DEDUCED, log entry 47) -/
def execCorrectedErrorBurst (link : Nat) (s : State) : Res :=
  let x := s.link link
  let near := x.recent.filter fun t => decide (s.clk ≤ t + 2 ^ 20)
  if hasLink link ∧ (x.state = 2 ∨ x.state = 3) ∧ 2 ^ 16 ≤ near.length then
    .next ((s.setLink link { x with recent := [] }).retrainTo link 0)
  else .next s

/-! ### The polder fabric (R310, R311, R313) -/

/-- SPILLWAY_TIMER: a request's packet that has waited for the spillway timer moves to the spillway channel; nothing else
changes (R310, R326). -/
def execSpillwayTimer (access : Nat) (s : State) : Res :=
  let t := fieldOf s.nt.fab.toNat 0 12
  let wait := 4 * (if t = 0 then 1024 else t)
  let packet := (s.accesses.find? fun a => a.id == access).map (·.pkt)
  let hit (a : Access) : Bool :=
    packet == some a.pkt && !a.spill && !a.queued && !s.allHold polderLinks && decide (a.sent + wait ≤ s.clk)
  .next { s with accesses := lreplace hit (fun a => { a with spill := true }) s.accesses }

/-- AGE of the write-combining buffers, at least 64 (R326). -/
def Nt.age (n : Nt) : Nat := Nat.max (fieldOf n.fab.toNat 12 12) 64

/-- WC_AGE_DRAIN: an entry that has aged AGE ac drains (R311). -/
def execWcAgeDrain (core : Fin 256) (entry : Nat) (s : State) : Res :=
  match (s.core core.val).wc[entry]? with
  | none => .next s
  | some e => if e.born + s.nt.age ≤ s.clk then .next (s.drainWc core.val fun x => x == e) else .next s

/-- The set parked on a remote load, or on the atomic of a lane. -/
def State.accessSet (s : State) (a : Access) : Option Cur :=
  match s.team? a.team with
  | none => none
  | some t => match t.group? a.group with
    | none => none
    | some g =>
      let mine (ts : TSet) : Bool :=
        if a.kind = 0 then ts.phase == .parked (.remote (a.id - a.part))
        else ts.phase == .post .atomics && ts.lanes.contains a.lane
      (g.tsets.find? mine).map fun ts => (a.team, a.group, ts.id)

/-- The accesses that one packet carries. -/
def State.carried (s : State) (a : Access) : List Access := s.accesses.filter fun x => x.pkt == a.pkt

/-- The wires of a write as it goes out. -/
def State.sendWires (s : State) (b : Access) : List Wire :=
  match b.kind, b.loc with
  | 1, .far p h off => [.scratch p h off b.data]
  | 1, _ => storeWires ((s.carried b).flatMap (·.undo))
  | _, _ => []

/-- The next write or atomic of a core to a line goes out, once none of the core's before it is unacknowledged (R310). -/
def State.sendNext (s : State) (core : Nat) (line : Loc) : State :=
  match s.accesses.find? fun x => x.kind != 0 && x.core == core && x.loc.line == line with
  | some b =>
    if b.queued then
      { s with
        accesses := lreplace (fun x => x.pkt == b.pkt) (fun x => { x with queued := false, sent := s.clk }) s.accesses
        wires := s.wires ++ s.sendWires b }
    else s
  | none => s

/-- The accesses of a packet are over; a `.rel` message that waited for them is posted (R321). -/
def State.endAccess (s : State) (a : Access) : State :=
  let s1 : State := { s with accesses := s.accesses.filter fun x => x.pkt != a.pkt }
  if a.kind = 0 then s1 else (s1.sendNext a.core a.loc.line).retryMsgs

/-- Its bytes have arrived; a load reads what its core's buffer holds (R299). -/
def State.answer (s : State) (a : Access) (given : List Byte) : State :=
  let core := match s.team? a.team with | some t => t.coreNo (s.tcore t a.group) | none => 0
  let bytes := if a.kind = 0 then given.zipIdx.map fun (b : Byte × Nat) => (s.bufByte core a.loc b.2).getD b.1 else given
  let s1 := s.endAccess a
  match s.accessSet a with
  | none => s1
  | some c => s1.onTset c fun x => { x with got2 := (bytes.zipIdx.map fun (b : Byte × Nat) => (farKey a.part b.2, b.1)) ++ x.got2 }

/-- The bytes of a failed store: each aligned 8 bytes keeps what was written or holds again what was there (R313). -/
def State.undoStore (s : State) (undo : List (Nat × Byte × Byte)) : State :=
  let back (s : State) (u : Nat × Byte × Byte) : State :=
    if choose (Config.freePick s.free (u.1 / 8)) false [false, true] ∧ readByte s.mem u.1 = u.2.2 then s.poke u.1 [u.2.1] else s
  { (undo.foldl back s) with free := s.free + 1 }

/-- The part of a failed atomic: performed or not, freely, and reported either way; its lane's DST is not written.
(DEDUCED, log entry 19) -/
def State.dropAtom (s : State) (a : Access) (c : Cur) : State :=
  match s.view c with
  | none => s
  | some (_, _, ts) =>
    let strip (h : Held) : Held := match h.act with
      | .atom r k op typ dst parts rel => { h with act := .atom r k op typ dst (parts.filter fun p => p.lane != a.lane) rel }
      | _ => h
    let run (s : State) (h : Held) : State := match h.act with
      | .atom _ k op typ _ parts _ => (parts.filter fun p => p.lane == a.lane).foldl (fun s p => (s.atomLane c ts k op typ p.lane p).1) s
      | _ => s
    let s1 := if choose (Config.freePick s.free a.id) false [false, true] then ts.held.foldl run s else s
    ({ s1 with free := s.free + 1 } : State).onTset c fun x => { x with held := x.held.map strip }

/-- An access to another package fails LINK (R313): a load faults at its word; a store or atomic is charged to its thread set. -/
def State.failAccess (s : State) (a : Access) (detail : Nat) : State :=
  let e : FInfo := { code := 15, lane := a.lane, detail := detail }
  match a.kind with
  | 0 => match s.accessSet a with
    | none => s.endAccess a
    | some c => match s.view c with
      | none => s.endAccess a
      | some (_, _, ts) =>
        if ts.stop then s
        else
          let same (x : Access) : Bool := x.kind == 0 && x.team == a.team && x.id - x.part == a.id - a.part
          s.faultParked c ts.pc e fun s => { s with accesses := s.accesses.filter fun x => !same x }
  | 1 =>
    let ms := s.carried a
    ms.foldl (fun s x => s.charge x.team x.group x.lanes x.pc { e with lane := x.lane })
      ((s.undoStore (ms.flatMap (·.undo))).endAccess a)
  | _ => match s.accessSet a with
    | none => (s.endAccess a).charge a.team a.group a.lanes a.pc e
    | some c => (((s.endAccess a).dropAtom a c)).charge a.team a.group a.lanes a.pc e

/-- A packet of a peer is placed, and acknowledged. -/
def State.ackPacket (s : State) (i seqNo : Nat) : State :=
  let e := s.ep i
  { s.setEp i { e with
      placed := sinsert seqNo e.placed
      held := e.held.filter fun h => h.1 != seqNo
      sent := e.sent.filter fun h => h.1 != seqNo } with
    wires := s.wires ++ [.ack i seqNo] }

/-- A packet is refused. (DESIGN CHOICE, log entry 49) -/
def State.refusePacket (s : State) (i seqNo : Nat) : State := { s with wires := s.wires ++ [.refuse i seqNo] }

/-- The write that forwards a packet to a tile of another package of the polder is answered: the packet is then placed, and
acknowledged, or cannot be placed there, and is refused (R320). -/
def State.forwarded (s : State) (id : Nat) (ok : Bool) : State :=
  match s.eps.find? fun e => e.2.sent.any fun x => x.2 == id with
  | none => s
  | some (i, e) =>
    if s.allHold polderLinks then s
    else match e.sent.find? fun x => x.2 == id with
      | none => s
      | some x =>
        if ok && !s.polderCut then s.ackPacket i x.1
        else (s.setEp i { e with sent := e.sent.filter fun y => y.2 != id }).refusePacket i x.1

/-- REMOTE_RESPONSE: the response of a remote access arrives, or says that its path failed, as it has when no polder link is
left (R308, R313). A load, and an atomic on a
team's scratch, bring the bytes they read. (DESIGN CHOICE, log entry 15) -/
def execRemoteResponse (access : Nat) (ok : Bool) (bytes : List (BitVec 8)) (s : State) : Res :=
  match s.accesses.find? fun a => a.id == access with
  | none => .next (s.forwarded access ok)
  | some a =>
    let far : Bool := match a.loc with | .far .. => true | _ => false
    if a.queued || s.allHold polderLinks then .next s
    else if !ok || s.polderCut then .next (s.failAccess a 1)
    else if (a.kind = 0 ∨ (a.kind = 2 ∧ far)) ∧ bytes.length ≠ a.len then .next s
    else .next (s.answer a (if a.kind = 1 then [] else bytes))

/-- LINK TMO has passed since a time (R326). -/
def State.linkLate (s : State) (since : Nat) : Bool :=
  !s.allHold polderLinks && decide (since + fieldOf s.nt.fab.toNat 24 24 ≤ s.clk)

/-- The accesses of engines to packages fail with a cause: of commands, fills, message sources and COPY packets that satisfy a test
(R313). -/
def State.engineFails (s : State) (cause : Nat) (hit : Nat → Bool) (work : Nat → Nat → Bool) : State :=
  let s1 := (s.cmds.filter fun c => work c.id c.since).foldl (fun s c =>
    match s.cmds.find? fun d => d.id == c.id with | some d => s.cmdFails d cause hit | none => s) s
  let fills := s1.fills.filter fun f => work f.id f.since && (s1.fillPkg f).any hit
  let s2 := fills.foldl (fun s f => s.failFill f { code := 15, addr := f.va, detail := cause }) s1
  let msgs := s2.msgs.filter fun m => work m.id m.since && (s2.msgPkg m).any hit
  let s3 := msgs.foldl (fun s m => s.failMsg m { code := 15, addr := m.args.src, detail := cause }) s2
  let copies := s3.queues.flatMap fun e => (e.2.pkts.filter fun p => p.typ == 2 && p.state == 1 && work p.launch p.since).map fun p => (e.1, p)
  copies.foldl (fun s x => s.copyFails x.1 x.2 hit) s3

/-- LINK_TIMEOUT: no response within LINK TMO to an access, which the operand names, or to one of the command, fill, message or COPY
packet that it names; what links in training hold is delayed, never failed (R307, R313, R326). (DESIGN CHOICE, log entry 62) -/
def execLinkTimeout (access : Nat) (s : State) : Res :=
  match s.accesses.find? fun a => a.id == access with
  | none => .next (s.engineFails 4 (fun _ => true) fun id since => id == access && s.linkLate since)
  | some a => if !a.queued ∧ s.linkLate a.sent then .next (s.failAccess a 4) else .next s

/-- A set parked in `qjoin` fails as the package that holds one of its counters is reset (R101, R313). -/
def State.joinReset (s : State) (pkg : Nat) (c : Cur) : State :=
  match s.view c with
  | none => s
  | some (_, _, ts) =>
    match ts.joining with
    | none => s
    | some (pc, _, parts) =>
      match parts.find? fun p => paPkg p.2.1 == pkg with
      | some p =>
        if ts.phase = .parked .join ∧ !ts.stop then
          s.faultParked c pc { code := 15, lane := p.1, addr := p.2.2.2, detail := 5 } fun s => s else s
      | none => s

/-- PEER_PACKAGE_RESET: the accesses in flight to the package fail LINK, DETAIL 5 (R313). Of the work of the engines for the
package, and of the reads of counters that sets join, what was in flight is a free choice. (DESIGN CHOICE, log entry 62) -/
def execPeerPackageReset (pkg : Fin 128) (s : State) : Res :=
  let toPkg (a : Access) : Bool :=
    !a.queued && (match a.loc with | .mem pa => paPkg pa == pkg.val | .far p _ _ => p == pkg.val | .scr .. => false)
  if pkg.val = s.pkg then .next s
  else
    let s1 := (s.accesses.filter toPkg).foldl (fun s a => if s.accesses.any (fun x => x.id == a.id) then s.failAccess a 5 else s) s
    let out (id : Nat) : Bool := choose (Config.freePick s.free id) false [false, true]
    let s2 := s1.engineFails 5 (· == pkg.val) fun id _ => out id
    let joins := s2.teams.flatMap fun t => t.groups.flatMap fun g => g.tsets.filterMap fun ts =>
      if ts.phase = .parked .join ∧ out (2 ^ 64 + 65536 * t.id + 64 * g.index + ts.id) then some (t.id, g.index, ts.id) else none
    let s3 := joins.foldl (fun s c => s.joinReset pkg.val c) s2
    .next { s3 with free := s3.free + 1 }

/-! ### Endpoints (R316, R325) -/

/-- The peer's address lies inside the egress allowlist. -/
def State.allows (s : State) (e : Ep) : Bool :=
  s.nt.allow.any fun x =>
    decide ((e.addr1.toNat * 2 ^ 64 + e.addr0.toNat) / 2 ^ (128 - x.2) = x.1 / 2 ^ (128 - x.2)) && decide (x.2 ≤ 128)

/-- CMD of a value written to `NT_EPCTL`. -/
def epCmd (value : BitVec 64) : Nat := fieldOf value.toNat 4 2

/-- The endpoint's port is FAILED (R308). -/
def State.portFailed (s : State) (e : Ep) : Bool := s.links != [] && (s.link (1536 + e.port)).state == 5

/-- ENDPOINT_CREATE: an INVALID endpoint becomes READY, or DENIED outside the allowlist, under its next generation; one bound to a
port that is FAILED moves or retries at once (R308, R316). -/
def execEndpointCreate (value : BitVec 64) (s : State) : Res :=
  let e := s.ep s.nt.epsel
  if epCmd value = 1 ∧ e.state = 0 then
    let s1 := s.setEp s.nt.epsel { e with
      state := if s.allows e then 1 else 4
      gen := e.gen + 1, err := 0, mark := 0, placed := [], held := [], sent := [], trips := [] }
    if s.allows e ∧ s.portFailed e then .next (s1.portLost e.port s.nt.epsel) else .next s1
  else .next s

/-- Every message in flight of an endpoint fails NET. -/
def State.failEp (s : State) (i detail : Nat) : State :=
  let fail (s : State) (m : Msg) : State := s.failMsg m { code := 16, detail := detail }
  let s1 := (s.epMsgs i).foldl fail s
  if s.epMsgs i = [] then s1 else s1.setEp i { s1.ep i with err := detail }

/-- ENDPOINT_DESTROY: messages in flight fail NET, DETAIL 4, each on its own. -/
def execEndpointDestroy (value : BitVec 64) (s : State) : Res :=
  let i := s.nt.epsel
  if epCmd value = 2 ∧ (s.ep i).state ≠ 0 then
    let s1 := s.failEp i 4
    .next (s1.setEp i { s1.ep i with state := 0 }).retryMsgs
  else .next s

/-- MSG TMO (R326). -/
def Nt.msgTmo (n : Nt) : Nat := let t := fieldOf n.pkt.toNat 5 27; if t = 0 then 2 ^ 27 - 1 else t

/-- The port of an endpoint passes no packet: its link is in training, or FAILED (R305, R307, R308). -/
def State.portHolds (s : State) (e : Ep) : Bool :=
  s.links != [] && ((s.link (1536 + e.port)).holds || (s.link (1536 + e.port)).state == 5)

/-- MESSAGE_TIMEOUT: an endpoint RETRYING for MSG TMO without acknowledgement fails, and its messages with NET, DETAIL 2. -/
def execMessageTimeout (ep : Fin 16384) (s : State) : Res :=
  let e := s.ep ep.val
  if e.state = 2 ∧ e.since + s.nt.msgTmo ≤ s.clk then
    let s1 := s.failEp ep.val 2
    .next (s1.setEp ep.val { s1.ep ep.val with state := 3 }).retryMsgs
  else .next s

/-! ### Packets sent (R319, R320, R322) -/

/-- Payload bytes of a packet of a message. -/
def Msg.wireLen (m : Msg) (k : Nat) : Nat := ((m.data.drop (k * m.pay)).take m.pay).length

/-- The bytes acknowledged in each of the last 64 round trips after one more packet. Whether it begins a round trip, and whether its
bytes carried a congestion mark, are the network's matter: free choices (R323). (DESIGN CHOICE, log entry 49) -/
def Ep.trip (e : Ep) (bytes draw : Nat) : List (Nat × Nat) :=
  let marked := if Config.freePick draw 1 % 2 = 1 then bytes else 0
  match e.trips with
  | x :: xs => if Config.freePick draw 0 % 2 = 1 then ((bytes, marked) :: x :: xs).take 64 else (x.1 + bytes, x.2 + marked) :: xs
  | [] => [(bytes, marked)]

/-- MARK: the marked fraction of the bytes acknowledged in those round trips, in units of 1/4,096 (R323). -/
def markOf (trips : List (Nat × Nat)) : Nat :=
  let all := (trips.map (·.1)).sum
  if all = 0 then 0 else Nat.min 4095 ((trips.map (·.2)).sum * 4096 / all)

/-- PACKET_ACK: a packet is acknowledged; after the last, the message is complete and its signal falls. The congestion
control's window and round-trip estimate are free (R323). (DESIGN CHOICE, log entry 49) -/
def execPacketAck (msg pkt : Nat) (s : State) : Res :=
  match s.msgs.find? fun m => m.id == msg with
  | none => .next s
  | some m =>
    if !m.waiting.contains pkt || s.portHolds (s.ep m.args.ep) then .next s
    else
      let e := s.ep m.args.ep
      let e1 := if e.gen.toNat = m.args.gen then
          { e with
            state := if e.state = 2 then 1 else e.state
            cwnd := (Config.freeWord s.free).extractLsb' 0 32
            rtt := (Config.freeWord s.free).extractLsb' 32 20
            trips := e.trip (m.wireLen pkt) s.free
            mark := BitVec.ofNat 12 (markOf (e.trip (m.wireLen pkt) s.free)) }
        else e
      let m1 := { m with acked := sinsert pkt m.acked }
      let s1 : State := { s.setEp m.args.ep e1 with free := s.free + 1 }
      if m1.waiting = [] then
        .next (({ s1 with msgs := s1.msgs.filter fun x => x.id != msg } : State).sigDec m.team m.group m.args.sig).retryMsgs
      else .next { s1 with msgs := lreplace (fun x => x.id == msg) (fun _ => m1) s1.msgs }

/-- PACKET_REFUSAL: the peer refuses a packet; the message fails NET, DETAIL 3. -/
def execPacketRefusal (msg pkt : Nat) (s : State) : Res :=
  match s.msgs.find? fun m => m.id == msg with
  | none => .next s
  | some m =>
    if !m.waiting.contains pkt || s.portHolds (s.ep m.args.ep) then .next s
    else
      let e := s.ep m.args.ep
      let s1 := if e.gen.toNat = m.args.gen then s.setEp m.args.ep { e with err := 3 } else s
      .next (s1.failMsg m { code := 16, detail := 3 }).retryMsgs

/-- RETRANSMIT: an unacknowledged packet is sent again; once RETX retransmissions are used up, its endpoint retries, and one whose
port has FAILED moves to the other port or retries (R308, R316). (DESIGN CHOICE, log entry 49) -/
def execRetransmit (msg pkt : Nat) (s : State) : Res :=
  match s.msgs.find? fun m => m.id == msg with
  | none => .next s
  | some m =>
    let e := s.ep m.args.ep
    if !m.waiting.contains pkt ∨ e.gen.toNat ≠ m.args.gen ∨ ¬ (e.state = 1 ∨ e.state = 2) then .next s
    else if s.portFailed e then .next (s.portLost e.port m.args.ep)
    else if s.portHolds e then .next s
    else
      let n := aget 0 m.retx pkt
      let s1 := { s with msgs := lreplace (fun x => x.id == msg) (fun x => { x with retx := aset 0 x.retx pkt (n + 1) }) s.msgs }
      if e.state = 1 ∧ fieldOf s.nt.pkt.toNat 32 8 ≤ n then .next (s.setEp m.args.ep { e with state := 2, since := s.clk })
      else .next (s1.resend m pkt)

/-! ### Packets received (R320, R376) -/

/-- Places of a packet's bytes under a context's page tables, page by page; none is written unless all translate. -/
def State.placeBytes (s : State) (ctx : Nat) : Nat → Nat → List Byte → State × Except DevRes (List (Nat × List Byte))
  | 0, _, _ => (s, .ok [])
  | n + 1, va, bs =>
    if bs = [] then (s, .ok [])
    else
      let k := 4096 - va % 4096
      let r := s.devPlace ctx (va % 2 ^ 64) 1 (Nat.min k bs.length)
      match r.2 with
      | .at pa =>
        let rest := State.placeBytes r.1 ctx n (va + k) (bs.drop k)
        (rest.1, rest.2.map fun ps => (pa, bs.take k) :: ps)
      | e => (r.1, .error e)

/-- The number that names no endpoint. -/
def noEp : Nat := 16384

/-- The team of this package that a placement names, when it belongs to the context. (DEDUCED, log entry 33) -/
def State.placeTeam (s : State) (ctx handle : Nat) : Option Team := (s.byHandle handle).filter fun t => s.ctxOf t == ctx

/-- The endpoint that a packet matches: the one, READY or RETRYING, whose peer address is the packet's source address and
whose JOB is the packet's (R376). Of several, the first. (DESIGN CHOICE, log entry 49) -/
def State.matchEp (s : State) (src : BitVec 128) (job : BitVec 24) : Option Nat :=
  (s.eps.find? fun e => (e.2.state == 1 || e.2.state == 2) && e.2.addr1 ++ e.2.addr0 == src && e.2.job == job.toNat).map (·.1)

/-- PACKET_PLACEMENT: a packet received is placed in the context of the endpoint it matches, and acknowledged; one already
placed is only acknowledged; one that matches no endpoint or cannot be placed is refused, and one whose page needs service
waits for its retransmission (R320, R376). (DESIGN CHOICE, log entry 49) -/
def execPacketPlacement (sender : Sender) (seqNo : Nat) (kind : Fin 3) (dst : BitVec 64) (body : List (BitVec 8)) (s : State) :
    Res :=
  match s.matchEp sender.src sender.job with
  | none => .next (s.refusePacket noEp seqNo)
  | some i =>
  let e := s.ep i
  let va := dst.toNat
  if s.portHolds e then .next s
  else if e.placed.contains seqNo then .next { s with wires := s.wires ++ [.ack i seqNo] }
  else match kind.val with
    | 0 =>
      let r := s.placeBytes e.ctx (body.length / 4096 + 2) va body
      match r.2 with
      | .ok ps => .next ((ps.foldl (fun s p => s.engineWrite (.mem p.1) p.2) r.1).ackPacket i seqNo)
      | .error (.req id) => .next (r.1.setEp i { e with held := (seqNo, id) :: e.held.filter fun h => h.1 != seqNo })
      | .error .busy => .next s
      | .error _ => .next (r.1.refusePacket i seqNo)
    | 1 =>
      match vaClass va with
      | .aperture pkg handle off =>
        if pkg ≠ s.pkg then
          if e.sent.any fun x => x.1 == seqNo then .next s
          else if s.members.contains pkg ∧ (s.ctx e.ctx).tag ≠ 0 then
            .next { s.setEp i { e with sent := e.sent ++ [(seqNo, s.nextId)] } with
              wires := s.wires ++ [.scratch pkg handle off body], nextId := s.nextId + 1 }
          else .next (s.refusePacket i seqNo)
        else match s.placeTeam e.ctx handle with
          | none => .next (s.refusePacket i seqNo)
          | some t =>
            if (s.kernelOf t).scratch < off + body.length ∨ (body != [] && t.refuses off body.length) then
              .next (s.refusePacket i seqNo)
            else if body != [] && t.waits off body.length then .next s
            else .next (((s.setTeam (t.deposit off body)).noteScr t.id off body.length none).ackPacket i seqNo)
      | _ => .next (s.refusePacket i seqNo)
    | _ =>
      match s.placeTeam e.ctx (fieldOf va 25 16) with
      | none => .next (s.refusePacket i seqNo)
      | some t => .next ((s.arriveBar t.id (fieldOf va 0 4)).ackPacket i seqNo)

end Sys2Proof.Machine
end

