-- ==== Sys2Proof/Machine/EvDebug.lean ====
section
/-!
DEFINITION. Events of the debugger and the profiler (R327 to R335, R338).
-/
namespace Sys2Proof.Machine

/-! ### Attaching and DBG bits (R327, R328) -/

/-- DEBUG_ATTACH: a write of `DBG_CTL` attaches or detaches. (DEDUCED, log entry 38) -/
def execDebugAttach (value : BitVec 64) (s : State) : Res :=
  .next { s with dbg := { s.dbg with ctl := value &&& 0xFF03 } }

/-- A write of `DBG_TXT`: the DBG bit of a word of a kernel's stored text, for the launches of it too, taken, waiting or running
(R109, R328). -/
def State.dbgText (s : State) (value : BitVec 64) (op : Nat) : State :=
  let h := fieldOf value.toNat 32 32
  let word := fieldOf value.toNat 4 28
  let ctx := fieldOf h 26 6
  let note (s : State) (r : Nat) : State := { s with dbg := { s.dbg with txtRes := r } }
  if fieldOf value.toNat 2 2 ≠ op then s
  else match s.handleKernel ctx h with
    | none => note s 1
    | some (slot, k) =>
      if k.text.length ≤ word then note s 2
      else
        let k1 := { k with dbg := if op = 1 then sinsert word k.dbg else k.dbg.filter (· != word) }
        let gen := (s.kslot ctx slot).gen
        let put (m : Kernel) : Kernel := { m with dbg := k1.dbg }
        let launch (l : Launch) : Launch :=
          if l.ctx == ctx && l.slot == slot && l.gen == gen then { l with kernel := put l.kernel } else l
        let pkt (p : Pkt) : Pkt := if p.slot == slot && p.gen == gen then { p with kernel := p.kernel.map put } else p
        let queue (x : Queue) : Queue := if x.ctx = ctx then { x with pkts := x.pkts.map pkt } else x
        let s1 := s.setKslot ctx slot { s.kslot ctx slot with kernel := some k1 }
        note { s1 with launches := s1.launches.map launch, queues := s1.queues.map fun e => (e.1, queue e.2) } 0

/-- DBG_SET: OP 1 of `DBG_TXT`. -/
def execDbgSet (value : BitVec 64) (s : State) : Res := .next (s.dbgText value 1)
/-- DBG_CLEAR: OP 2 of `DBG_TXT`. -/
def execDbgClear (value : BitVec 64) (s : State) : Res := .next (s.dbgText value 2)

/-! ### Registers of a stopped group (R331) -/

/-- DEBUG_REGISTER_READ: `DBG_VAL` takes the selected register's value; 0 when the group is not stopped. -/
def execDebugRegisterRead (s : State) : Res := .next { s with dbg := { s.dbg with val := s.selValue } }

/-- DEBUG_REGISTER_WRITE: a write of `DBG_VAL` waits for the group's next resumption; it is ignored when the group is not
stopped. -/
def execDebugRegisterWrite (value : BitVec 64) (s : State) : Res :=
  match s.selGroup with
  | none => .next s
  | some (t, g) =>
    if !g.stopped then .next s
    else
      .next { s with dbg := { s.dbg with
        val := value
        edits := s.dbg.edits ++ [((s.launchOf t).editKey, t.index, g.index, fieldOf s.dbg.sel.toNat 19 5,
          BitVec.ofNat 20 (fieldOf s.dbg.selg.toNat 32 20), value)] } }

/-- `DBG_UEV`: user event counter K of the selected group (R81, R331). -/
def State.selUev (s : State) : Reg :=
  match s.selGroup with
  | some (_, g) => aget 0 g.uev (fieldOf s.dbg.sel.toNat 16 3)
  | none => 0

/-! ### Commands (R330) -/

/-- Resume sets; a resume restores a swapped-out team first (R329). -/
def State.resumeAll (s : State) (step : Bool) (cs : List Cur) : State :=
  let wake (s : State) (c : Cur) : State := s.onTeam c.1 fun t =>
    let want (o : Swapped) : Swapped := { o with parked := false }
    { t with out := t.out.map want }
  cs.foldl (fun s c => (s.resumeSet step c)) (cs.foldl wake s)

/-- CONTINUE: every stopped set of the context resumes. -/
def execContinueAll (s : State) : Res := .next (s.resumeAll false (s.setsOf s.dbg.ctx))
/-- STEP: the selected group's stopped sets commit one run, or complete their stopping word's, and stop with STOP_STEP. -/
def execStepRun (s : State) : Res := .next (s.resumeAll true s.selSets)
/-- STOP: every set of the context stops at its next run boundary, or where it is parked, with STOP_STEP. -/
def execStopAll (s : State) : Res := .next ((s.setsOf s.dbg.ctx).foldl (fun s c => s.stopSoon false 10 c) s)
/-- CONTINUE_GROUP: the selected group's sets resume. -/
def execContinueGroup (s : State) : Res := .next (s.resumeAll false s.selSets)

/-! ### Samples (R333, R334) -/

/-- The class of a set that issued nothing in the sampled cycle. (DEDUCED, log entry 38) -/
def TSet.sampleClass (ts : TSet) : Nat :=
  match ts.phase with
  | .ready | .inHandler _ => 1
  | .parked .tile => 3
  | .parked (.lsync _) => 4
  | .parked .walk | .parked .migrating | .parked (.remote _) => 5
  | .parked _ => 2
  | .post (.barrier _) => 4
  | .post _ => 5
  | .await => 2
  | .conv _ => 4

/-- The core's last issue cycle is the one sampled: it issued in the ac just past, or has had a thread set to issue since.
(DEDUCED, log entry 38) -/
def State.cycleOpen (s : State) (core : Nat) : Bool :=
  let mine := s.groupsOn.filter fun x => x.1 == core
  let last := mine.foldl (fun m x => Nat.max m x.2.2.slotAt) 0
  last == s.clk || (!s.coreIdle core && mine.any fun x =>
    match s.candidate x.2.1 x.2.2 with | some ts => decide (ts.readyAt < last) | none => false)

/-- The sampled set of a group and its class: the one that issued in the cycle, else the group's candidate, else its set of the
lowest PC (R334). -/
def State.sampleOf (s : State) (t : Team) (core : Nat) (g : Group) : Option (TSet × Nat) :=
  let issued := if s.slotTaken core g && s.cycleOpen core then g.tsets.find? fun ts => ts.slotAt == g.slotAt else none
  match issued, s.candidate t g with
  | some ts, _ => some (ts, 0)
  | none, some ts => some (ts, 1)
  | none, none =>
    let lowest := leastOf (fun (ts : TSet) => [ts.pc, ts.id]) (g.tsets.filter fun ts => match ts.phase with | .inHandler _ => false | _ => true)
    lowest.map fun ts => (ts, ts.sampleClass)

/-- One core's sample, from its next group. -/
def State.sampleCore (s : State) (core : Nat) : State :=
  let gs := s.groupsOn.filter fun x => x.1 == core && s.ctxOf x.2.1 == s.dbg.ctx
  let k := aget 0 s.dbg.rrGroup core
  match gs[k % (Nat.max gs.length 1)]? with
  | none => s
  | some (_, t, g) =>
    let s1 := { s with dbg := { s.dbg with rrGroup := aset 0 s.dbg.rrGroup core ((k + 1) % gs.length) } }
    match s.sampleOf t core g with
    | none => s1
    | some (ts, cls) => s1.dbgPut (s1.setRec t g ts cls)

/-- The record of one non-resident team, or one launch in TRANSLATING. -/
def State.sampleOut (s : State) : State :=
  let teams := s.teams.filter fun t => !t.resident && s.ctxOf t == s.dbg.ctx
  let launches := s.launches.filter fun l => l.phase == 0 && l.ctx == s.dbg.ctx
  let recs := teams.map (fun t => s.teamRec t 7) ++ launches.map fun l => s.launchRec l 6
  match recs[s.dbg.rrSwap % (Nat.max recs.length 1)]? with
  | none => s
  | some r => ({ s with dbg := { s.dbg with rrSwap := (s.dbg.rrSwap + 1) % recs.length } } : State).dbgPut r

/-- The period of samples. -/
def Dbg.period (d : Dbg) : Nat := Nat.max (fieldOf d.smp.toNat 8 24) 256

/-- SAMPLE_PERIOD: every PERIOD ac each core that holds a team of the attached context takes a sample. -/
def execSamplePeriod (s : State) : Res :=
  if s.dbg.smp.getLsbD 0 ∧ s.dbg.last + s.dbg.period ≤ s.clk then
    let s1 := { s with dbg := { s.dbg with last := s.clk } }
    if s.dbg.att then
      let cores := (s1.groupsOn.filter fun x => s.ctxOf x.2.1 == s.dbg.ctx).foldl (fun r x => sinsert x.1 r) []
      .next (cores.foldl State.sampleCore s1).sampleOut
    else .next s1
  else .next s

/-- DBG_SPTR_HEAD_WRITE: HEAD advances, and stop records that wait are written (R335). -/
def execDbgSptrHeadWrite (value : BitVec 64) (s : State) : Res :=
  .next ({ s with dbg := { s.dbg with head := ringHead s.dbg.head s.dbg.tail (value.extractLsb' 32 32) } } : State).flushStops

end Sys2Proof.Machine
end

