-- ==== Sys2Proof/Machine/EvKernel.lean ====
section
/-!
DEFINITION. Events of kernels: loading and its checks, translation and the translation cache, profiles, and child launches
(R20, R57, R97, R100, R103 to R113, R117, R123, R349).
-/
namespace Sys2Proof.Machine

/-! ### The text check (R57, R110) -/

/-- A run's number at each word: trailers before it. -/
def runNumbers : Nat → List Word → List Nat
  | _, [] => []
  | n, w :: ws => n :: runNumbers (if isTrailerWord w then n + 1 else n) ws

/-- A word is a legal closing instruction. -/
def isClosing (w : Word) : Bool :=
  closingOp (Word.cls w) (Word.opc w) && (match decode w with | .ok _ => true | .error _ => false)

/-- Index of a field that names a temporary; a field of bank 0 whose index is no temporary's names none (R57).
(DESIGN CHOICE, log entry 43) -/
def tempOf (f : BitVec 20) : Option Nat := match Opd.ofBits f with | some (.t i) => some i.val | _ => none

/-- Temporaries that a word reads, and those it writes (R51, R57): a multi-register load or store counts each register,
and the upper half of `movi` its destination. -/
def wordTemps (w : Word) : List Nat × List Nat :=
  let sa := w.extractLsb' 58 20
  let sb := w.extractLsb' 38 20
  let sc := w.extractLsb' 18 20
  let dst := w.extractLsb' 78 20
  let one (f : BitVec 20) : List Nat := (tempOf f).toList
  match decode w with
  | .error _ => (one sa ++ one sb ++ one sc, one dst)
  | .ok _ =>
    let cls := Word.cls w
    let opc := Word.opc w
    let n := 2 * 2 ^ fieldOf w.toNat 2 2
    let many (k : Nat) (f : BitVec 20) : List Nat := match tempOf f with | some i => (List.range k).map (i + ·) | none => []
    let isI := match formOf cls opc with | .ok (.i _) => true | _ => false
    let reads := one sa ++ (if cls = 2 ∧ opc = 3 then many n sb else one sb) ++ (if isI then [] else one sc)
    let hi := if cls = 0 ∧ opc = 1 ∧ (w.extractLsb' 102 6).getLsbD 0 then one dst else []
    (reads ++ hi, if cls = 2 ∧ opc = 2 then many n dst else one dst)

/-- Where a check of the text stands: words of the run so far, its first closing word, the temporaries it has written, and
the offences found: CAUSE and word. -/
structure TextScan where
  count   : Nat := 0
  closing : Option Nat := none
  written : List Nat := []
  bad     : List (Nat × Nat) := []
  deriving DecidableEq, Repr

/-- Check one word (R57 conditions 1 to 5). -/
def TextScan.word (c : TextScan) (k : Kernel) (pc : Nat) (w : Word) : TextScan :=
  let off (b : Bool) (cause at_ : Nat) : List (Nat × Nat) := if b then [(cause, at_)] else []
  if isTrailerWord w then
    let target : Bool := match decode w with
      | .error _ => true
      | .ok _ =>
        let tk := fieldOf w.toNat 120 4
        !(tk == 1 || tk == 2 || tk == 4) || k.runStart ((((pc : Int) + (w.extractLsb' 0 32).toInt) % 2 ^ 64).toNat)
    let formed : Bool := match decode w with | .ok _ => true | .error _ => false
    { bad := c.bad ++ off (c.count == 0) 5 pc ++ off (!formed) 6 pc ++ off (!target) 7 pc }
  else
    let ts := wordTemps w
    { count := c.count + 1
      closing := match c.closing with | some p => some p | none => if isClosing w then some pc else none
      written := ts.2 ++ c.written
      bad := c.bad ++ off (c.count == 24) 5 pc ++ (match c.closing with | some p => [(8, p)] | none => []) ++
        off (ts.1.any fun t => !c.written.contains t) 9 pc }

/-- The scan of a text. -/
def Kernel.scan (k : Kernel) : TextScan := k.text.zipIdx.foldl (fun c x => c.word k x.2 x.1) {}

/-- The offence that is reported: the lowest CAUSE, and within it the lowest word (R110). -/
def Kernel.textFault (k : Kernel) : Option (Nat × Nat) :=
  let n := k.text.length
  let tail := match k.text.getLast? with | some w => if isTrailerWord w then [] else [(5, n - 1)] | none => [(5, 0)]
  let emu := match k.emu with
    | some e => if k.runStart e then [] else [(10, if e < n then e else 0)]
    | none => []
  leastOf (fun x => [x.1, x.2]) (k.scan.bad ++ tail ++ emu)

/-! ### The container (R106) -/

/-- The image being loaded: its length and the physical place of each of its pages. -/
structure Img where
  len   : Nat
  pages : List Nat
  deriving DecidableEq, Repr

/-- A little-endian field of the image; bytes beyond it read as zero. -/
def State.imgBytes (s : State) (m : Img) (off n : Nat) : List Byte :=
  (List.range n).map fun k =>
    let a := off + k
    if a < m.len then readByte s.mem (m.pages.getD (a / 4096) 0 + a % 4096) else 0
def State.imgNat (s : State) (m : Img) (off n : Nat) : Nat := leNat (s.imgBytes m off n)

/-- The header breaks R106, or its section table lies outside the image. -/
def State.elfBad (s : State) (m : Img) : Bool :=
  decide (m.len < 64) || s.imgNat m 0 4 != 0x464C457F || s.imgNat m 4 1 != 2 || s.imgNat m 5 1 != 1 || s.imgNat m 16 2 != 2 ||
    s.imgNat m 18 2 != 0x4E58 || s.imgNat m 48 4 != 1 ||
    decide (m.len < s.imgNat m 40 8 + s.imgNat m 58 2 * s.imgNat m 60 2)

/-- A section: its place, size and alignment. -/
structure Sect where
  off  : Nat
  size : Nat
  addr : Nat
  deriving DecidableEq, Repr

/-- Bytes of a section's name. -/
def nameBytes (n : String) : List Byte := n.toList.map (fun c => BitVec.ofNat 8 c.toNat) ++ [0]

/-- The first section of a name. (DEDUCED, log entry 43) -/
def State.sectOf (s : State) (m : Img) (name : String) : Option Sect :=
  let base := s.imgNat m 40 8
  let esz := s.imgNat m 58 2
  let hdr (i : Nat) : Nat := base + esz * i
  let strs := s.imgNat m (hdr (s.imgNat m 62 2) + 24) 8
  let bs := nameBytes name
  ((List.range (s.imgNat m 60 2)).find? fun i => s.imgBytes m (strs + s.imgNat m (hdr i) 4) bs.length == bs).map
    fun i => ⟨s.imgNat m (hdr i + 24) 8, s.imgNat m (hdr i + 32) 8, s.imgNat m (hdr i + 16) 8⟩

/-- Bytes of a section. -/
def State.sectBytes (s : State) (m : Img) (x : Option Sect) : List Byte :=
  match x with | some x => s.imgBytes m x.off x.size | none => []

/-- Records of a section. -/
def records (n : Nat) (bs : List Byte) : List (List Byte) := (List.range (bs.length / n)).map fun k => (bs.drop (n * k)).take n

/-- A field of a record. -/
def recField (r : List Byte) (off n : Nat) : Nat := leNat ((r.drop off).take n)

/-! ### The load's checks (R107, R108, R110, R123) -/

/-- Sizes and alignment break R107 (CAUSE 0x02): `.nx.text` is aligned where its file offset is a multiple of 16.
(DESIGN CHOICE, log entry 43) -/
def sizesBad (m : Img) (text res role param emu plan : Option Sect) : Bool :=
  let inside (x : Option Sect) : Bool := match x with | some x => decide (x.off + x.size ≤ m.len) | none => true
  let size (x : Option Sect) : Nat := match x with | some x => x.size | none => 0
  let align : Bool := match text with | some x => x.off % 16 == 0 | none => false
  text.isNone || res.isNone || role.isNone || !([text, res, role, param, emu, plan].all inside) ||
    size text == 0 || size text % 16 != 0 || !align || size res != 64 ||
    !([16, 32, 48, 64].contains (size role)) || size param % 8 != 0 || decide (512 < size param) ||
    (emu.isSome && size emu != 8) || size plan % 32 != 0

/-- A kernel read from its sections' bytes. -/
def kernelOfBytes (text res role param emu plan : List Byte) (hasEmu planned : Bool) (diag : Nat) : Kernel :=
  let words := (records 16 text).map fun r => (BitVec.ofNat 128 (leNat r) : Word)
  { text := words.map fun w => w &&& 0x7FFFFFFFFFFFFFFFFFFFFFFFFFFFFFFF
    dbg := words.zipIdx.filterMap fun x => if x.1.getLsbD 127 then some x.2 else none
    raw := [res, role, param, emu, plan]
    threads := recField res 0 4
    cores := recField res 4 1
    gang := recField res 5 1
    lat := recField res 6 1
    fifos := recField res 7 1
    scratch := recField res 8 4
    probe := recField res 12 2
    priv := recField res 16 4
    roles := (records 16 role).map fun r => ⟨recField r 0 1, recField r 2 2, recField r 4 2⟩
    params := (records 8 param).map fun r => recField r 0 1
    emu := if hasEmu then some (recField emu 0 8) else none
    plan := (records 32 plan).map fun r =>
      ⟨recField r 10 1 - 1, recField r 8 1, recField r 9 1, recField r 12 4, recField r 0 4, recField r 4 4,
        recField r 16 4, recField r 20 4⟩
    planned := planned
    rejected := false
    diag := diag }

/-- Fields of `.nx.res` are out of range. -/
def Kernel.resBad (k : Kernel) : Bool :=
  k.threads % 32 != 0 || decide (k.threads < 32) || decide (8192 < k.threads) || decide (k.cores < 1) || decide (4 < k.cores) ||
    (k.gang != 0 && (decide (k.gang < 2) || decide (16 < k.gang) || k.gang % k.cores != 0)) || decide (1 < k.lat) ||
    k.scratch % 512 != 0 || decide (25165824 < k.scratch) || decide (1024 < k.probe) || k.priv % 16 != 0 ||
    ((k.roles.map (·.groups)).sum * 32 != k.threads)

/-- The lowest entry that is out of range (CAUSE 0x03); of two role entries of one KIND, the later. (DESIGN CHOICE, log entry 43) -/
def Kernel.rangeFault (k : Kernel) : Option Nat :=
  let role (x : Role × Nat) : Bool :=
    decide (3 < x.1.kind) || decide (x.1.groups < 1) || decide (256 < x.1.groups) || decide (x.1.budget < 16) ||
      decide (1024 < x.1.budget) || (k.roles.take x.2).any fun y => y.kind == x.1.kind
  let bad := (if k.resBad then [0] else []) ++ ((k.roles.zipIdx.filter role).map (·.2)) ++
    ((k.params.zipIdx.filter fun x => (Typ.ofCode x.1).isNone).map (·.2))
  bad.foldl (fun m i => match m with | none => some i | some j => some (Nat.min i j)) none

/-- A plan entry's own fields are invalid; `mode` is as stored. -/
def PlanEnt.bad (e : PlanEnt) (mode cores : Nat) : Bool :=
  !(mode == 1 || mode == 2) || e.soff % 512 != 0 || (mode == 2 && e.soff != 0) || e.size % 512 != 0 || decide (e.size < 512) ||
    decide (262144 < e.size) || e.boff % 512 != 0 || decide (262144 < e.boff + e.size) || decide (cores ≤ e.core) ||
    decide (31 < e.bank) || decide (e.last < e.first)

/-- Two entries conflict: one bank in two modes, or shared bank bytes with live ranges that meet. -/
def PlanEnt.clash (a b : PlanEnt) : Bool :=
  a.core == b.core && a.bank == b.bank &&
    (a.kind != b.kind ||
      (decide (a.boff < b.boff + b.size) && decide (b.boff < a.boff + a.size) && decide (a.first ≤ b.last) && decide (b.first ≤ a.last)))

/-- Every scratch offset from `at_` is covered by entries, within `n` of them. -/
def coverFrom (es : List PlanEnt) (upTo : Nat) : Nat → Nat → Bool
  | 0, at_ => decide (upTo ≤ at_)
  | n + 1, at_ =>
    if upTo ≤ at_ then true
    else match es.find? fun e => decide (e.soff ≤ at_) && decide (at_ < e.soff + e.size) with
      | none => false
      | some e => coverFrom es upTo n (e.soff + e.size)

/-- The lowest entry that makes the plan invalid (CAUSE 0x04), of two that clash the later; `modes` are the entries' modes as
stored. (DESIGN CHOICE, log entry 43) -/
def Kernel.planFault (k : Kernel) (modes : List Nat) : Option Nat :=
  let bad := k.plan.zipIdx.filter fun x =>
    x.1.bad (modes.getD x.2 0) k.cores || (k.plan.take x.2).any fun y => y.clash x.1
  let scr := k.plan.filter fun e => e.kind == 0
  match bad.head? with
  | some x => if !coverFrom scr k.scratch (k.plan.length + 1) 0 then some 0 else some x.2
  | none => if k.planned && !coverFrom scr k.scratch (k.plan.length + 1) 0 then some 0 else none

/-- A kernel and the offence its load reports: CAUSE and entry. (DEDUCED, log entry 43) -/
def State.checkImage (s : State) (m : Img) (diag : Nat) : Kernel × Option (Nat × Nat) :=
  if s.elfBad m then ({ diag := diag }, some (1, 0))
  else
    let sec (n : String) : Option Sect := s.sectOf m n
    let text := sec ".nx.text"
    let res := sec ".nx.res"
    let role := sec ".nx.role"
    let param := sec ".nx.param"
    let emu := sec ".nx.emu"
    let plan := sec ".nx.plan"
    if sizesBad m text res role param emu plan then ({ diag := diag }, some (2, 0))
    else
      let planBytes := s.sectBytes m plan
      let k := kernelOfBytes (s.sectBytes m text) (s.sectBytes m res) (s.sectBytes m role) (s.sectBytes m param)
        (s.sectBytes m emu) planBytes emu.isSome plan.isSome diag
      match k.rangeFault with
      | some e => (k, some (3, e))
      | none => (k, (k.planFault ((records 32 planBytes).map fun r => recField r 10 1)).map fun e => (4, e))

/-! ### Loading (R103 to R105, R109, R110) -/

/-- Bytes of the image that a load reads are lost: those of `.data` and `.rodata` it does not read (R105, R348). -/
def State.imgLost (s : State) (m : Img) : Bool :=
  let idle := (s.sectOf m ".data").toList ++ (s.sectOf m ".rodata").toList
  m.pages.zipIdx.any fun p =>
    s.locBad (.mem p.1) (Nat.min 4096 (m.len - 4096 * p.2)) && (List.range (Nat.min 4096 (m.len - 4096 * p.2))).any fun k =>
      s.locBad (.mem (p.1 + k)) 1 && !(idle.any fun x => decide (x.off ≤ 4096 * p.2 + k) && decide (4096 * p.2 + k < x.off + x.size))

/-- The context and addresses of the load registers. -/
def Cxq.kctx (c : Cxq) : Nat := fieldOf c.kimg.toNat 6 6
def Cxq.imgVa (c : Cxq) : Nat := fieldOf c.kimg.toNat 12 45 * 4096
def Cxq.diagVa (c : Cxq) : Nat := fieldOf c.kdiag.toNat 5 52 * 32

/-- KERNEL_LOAD: a write of GO starts a load; it is busy until it ends (R103). -/
def execKernelLoad (s : State) : Res :=
  if s.cxq.kimg.getLsbD 0 then .next s
  else .next { s with cxq := { s.cxq with kimg := s.cxq.kimg ||| 1, kres := 0, kreq := none, kfail := false } }

/-- The lowest free kernel slot of a context (R104). -/
def State.freeSlot (s : State) (ctx : Nat) : Option Nat := (List.range 4096).find? fun i => (s.kslot ctx i).kernel.isNone

/-- The next generation of a slot (R104). -/
def nextGen (g : Nat) : Nat := if g = 16383 then 1 else g + 1

/-- Write a diagnostic record (R110). -/
def State.diagnose (s : State) (ctx handle diag cause word run entry : Nat) : State :=
  s.writeLate ⟨ctx, diag, leBytes 32 (word * 2 ^ 224 + run * 2 ^ 192 + entry * 2 ^ 160 + handle * 2 ^ 32 + cause), false, none⟩

/-- A load ends with a kernel, and with an offence if it is rejected. -/
def State.storeKernel (s : State) (ctx slot : Nat) (k : Kernel) (bad : Option (Nat × Nat)) : State :=
  let gen := nextGen (s.kslot ctx slot).gen
  let handle := ctx * 2 ^ 26 + gen * 2 ^ 12 + slot
  let s1 := s.setKslot ctx slot ⟨gen, some { k with rejected := bad.isSome }⟩
  let s2 : State := { s1 with cxq := { s1.cxq with
    kimg := s1.cxq.kimg &&& ~~~1, khandle := BitVec.ofNat 32 handle, kres := if bad.isSome then 2 else 1, kfail := false } }
  match bad with
  | some e => s2.diagnose ctx handle k.diag e.1 0 0 e.2
  | none => s2

/-- Places of the image's pages, or what the first of them that has none waits for or fails with. (DEDUCED, log entry 43) -/
def State.imgPages (s : State) (ctx va : Nat) : Nat → State × Except DevRes (List Nat)
  | 0 => (s, .ok [])
  | n + 1 =>
    let r := State.imgPages s ctx va n
    match r.2 with
    | .error e => (r.1, .error e)
    | .ok ps =>
      let p := r.1.cxPlace 0 ctx (va + 4096 * n) 0
      match p.2 with
      | .at pa => (p.1, .ok (ps ++ [pa]))
      | e => (p.1, .error e)

/-- KERNEL_LOAD_DONE: the load ends LOADED, REJECTED or NOSLOT (R103, R104, R109). An image that cannot be read breaks
R106, and so does one of which a byte that the load reads is lost (R348). (DEDUCED, log entry 43) -/
def execKernelLoadDone (ctx : Fin 64) (slot : Fin 4096) (s : State) : Res :=
  if !s.cxq.kimg.getLsbD 0 ∨ s.cxq.kctx ≠ ctx.val ∨ s.cxq.kreq.isSome ∨ s.cx0Frozen then .next s
  else match s.freeSlot ctx.val with
    | none => .next { s with cxq := { s.cxq with kimg := s.cxq.kimg &&& ~~~1, kres := 3, kfail := false } }
    | some i =>
      if i ≠ slot.val then .next s
      else
        let len := fieldOf s.cxq.klen.toNat 0 32
        let diag := s.cxq.diagVa
        if s.cxq.kfail then .next (s.storeKernel ctx.val i { diag := diag } (some (1, 0)))
        else
          let r := s.imgPages ctx.val s.cxq.imgVa ((len + 4095) / 4096)
          match r.2 with
          | .error (.req id) => .next { r.1 with cxq := { r.1.cxq with kreq := some id } }
          | .error .busy => .next r.1
          | .error _ => .next (r.1.storeKernel ctx.val i { diag := diag } (some (1, 0)))
          | .ok ps =>
            if r.1.imgLost ⟨len, ps⟩ then .next (r.1.storeKernel ctx.val i { diag := diag } (some (1, 0)))
            else
              let k := r.1.checkImage ⟨len, ps⟩ diag
              .next (r.1.storeKernel ctx.val i k.1 k.2)

/-- KERNEL_UNLOAD: the named kernel's slot is freed and keeps its generation; its handle is stale (R104, R109). -/
def execKernelUnload (handle : BitVec 32) (s : State) : Res :=
  let h := handle.toNat
  let ctx := fieldOf h 26 6
  match s.handleKernel ctx h with
  | none => .next s
  | some (slot, _) => .next (s.setKslot ctx slot { s.kslot ctx slot with kernel := none })

/-! ### Translation (R20, R57, R109 to R112) -/

/-- Launches that wait for a kernel's key, in take order. -/
def State.keyWaiters (s : State) (k : Kernel) : List Launch := s.launches.filter fun l => l.phase == 0 && l.kernel.sameKey k

/-- An entry is stored: the waiting launches proceed with it in take order (R20, R109). -/
def State.storeEntry (s : State) (k : Kernel) : State :=
  let e : TEntry := { id := s.nextId, text := k.text, raw := k.raw, state := 1, last := s.nextId, stored := 0, launches := 0
                      runs := 0, rollbacks := 0, sites := [], rev := revision }
  let s1 : State := { s with
    tcache := s.tcache ++ [e], nextId := s.nextId + 1, xlates := s.xlates.filter fun x => !x.kernel.sameKey k }
  (s.keyWaiters k).foldl (fun s l => match s.launch? l.id with | some l => s.useEntry l e | none => s) s1

/-- A text breaks R57: the kernels that are TRANSLATING under its key are REJECTED, also as launches taken and not yet handed over
keep them, the diagnostic record is that of the first
launch still waiting, and every waiting launch completes with LAUNCH (R57, R109, R110). (DEDUCED, log entry 43) -/
def State.rejectText (s : State) (x : Xlate) (cause word : Nat) : State :=
  let run := (runNumbers 0 x.kernel.text).getD word 0
  let waiters := s.keyWaiters x.kernel
  let named : Nat × Nat × Nat := match waiters.head? with
    | some l => (l.ctx, l.handle, l.kernel.diag)
    | none => (x.ctx, x.handle, x.kernel.diag)
  let mark (k : KSlot) : KSlot :=
    match k.kernel with
    | some m => if m.sameKey x.kernel then { k with kernel := some { m with rejected := true } } else k
    | none => k
  let pkt (p : Pkt) : Pkt :=
    match p.kernel with
    | some m => if p.state = 0 ∧ m.sameKey x.kernel ∧ x.names.contains (p.word 2) then { p with kernel := some { m with rejected := true } } else p
    | none => p
  let s1 : State := { s with
    xlates := s.xlates.filter fun y => !y.kernel.sameKey x.kernel
    kslots := s.kslots.map fun e => (e.1, if x.names.contains (e.1 / 4096 * 2 ^ 26 + e.2.gen * 2 ^ 12 + e.1 % 4096) then mark e.2 else e.2)
    queues := s.queues.map fun e => (e.1, { e.2 with pkts := e.2.pkts.map pkt }) }
  let s3 := s1.diagnose named.1 named.2.1 named.2.2 cause word run 0
  waiters.foldl (fun s l => match s.launch? l.id with | some l => s.failLaunch l 0x0E 0 1 | none => s) s3

/-- A translation under way. -/
def State.xlate? (s : State) (ctx slot : Nat) : Option Xlate := s.xlates.find? fun x => x.ctx == ctx && x.slot == slot

/-- TRANSLATION_COMPLETE: a translation core stores the entry, or the kernel is rejected (R57, R109). -/
def execTranslationComplete (ctx : Fin 64) (slot : Fin 4096) (s : State) : Res :=
  match s.xlate? ctx.val slot.val with
  | none => .next s
  | some x =>
    if !x.looked then .next s
    else match x.kernel.textFault with
      | some e => .next (s.rejectText x e.1 e.2)
      | none => .next (s.storeEntry x.kernel)

/-- POLDER_KEY_LOOKUP: the other packages answer for a missed key. A hit is copied into the local cache and the kernel is
READY without translating; a miss leaves it to a translation core (R112). No package holds an entry for a text that breaks
R57. -/
def execPolderKeyLookup (ctx : Fin 64) (slot : Fin 4096) (hit : Bool) (s : State) : Res :=
  match s.xlate? ctx.val slot.val with
  | none => .next s
  | some x =>
    if x.looked then .next s
    else if hit && x.kernel.textFault.isNone then .next (s.storeEntry x.kernel)
    else
      .next { s with
        xlates := lreplace (fun y => y.ctx == ctx.val && y.slot == slot.val) (fun y => { y with looked := true }) s.xlates }

/-- TRANSLATION_CORE_FAILURE: the core is restarted and the key is translated again; the launches keep waiting (R349). -/
def execTranslationCoreFailure (ctx : Fin 64) (slot : Fin 4096) (s : State) : Res :=
  match s.xlate? ctx.val slot.val with
  | none => .next s
  | some _ => .next s

/-! ### The life of an entry (R109, R113, R117) -/

/-- Apply a function to an entry. -/
def State.onEntry (s : State) (id : Nat) (f : TEntry → TEntry) : State :=
  { s with tcache := lreplace (fun e => e.id == id) f s.tcache }

/-- An entry by identifier. -/
def State.entry? (s : State) (id : Nat) : Option TEntry := s.tcache.find? fun e => e.id == id

/-- HOT_RUN_COUNT: 2^24 runs have committed since the entry was stored (R109). (DEDUCED, log entry 44) -/
def execHotRunCount (entry : Nat) (s : State) : Res :=
  match s.entry? entry with
  | none => .next s
  | some e => if e.state = 1 ∧ 2 ^ 24 ≤ e.stored then .next (s.onEntry entry fun x => { x with state := 2 }) else .next s

/-- REOPTIMISATION_START: a translation core takes the queued work (R109). -/
def execReoptimisationStart (entry : Nat) (s : State) : Res :=
  match s.entry? entry with
  | none => .next s
  | some e => if e.state = 2 then .next (s.onEntry entry fun x => { x with state := 3 }) else .next s

/-- REOPTIMISATION_COMPLETE: a new entry is stored and the profile counters restart at zero, or no better schedule was
found and the entry and its counters stay (R109). The code of a new entry keeps no load of a recorded site above its store
(R118). (DEDUCED, log entry 44) -/
def execReoptimisationComplete (entry : Nat) (replaced : Bool) (s : State) : Res :=
  match s.entry? entry with
  | none => .next s
  | some e =>
    if e.state ≠ 3 then .next s
    else if replaced then
      .next { s.onEntry entry fun x => x.renewed s.nextId with nextId := s.nextId + 1 }
    else .next (s.onEntry entry fun x => { x with state := 1 })

/-- The entry may be evicted (R113). -/
def State.evictable (s : State) (e : TEntry) : Bool :=
  e.state != 3 && !(s.launches.any fun l => l.phase == 1 && (l.entry == e.id || (l.nextTeam == 0 && e.serves l.kernel)))

/-- EVICTION: the least recently launched entry that may be evicted leaves the cache (R113). -/
def execEviction (s : State) : Res :=
  match leastOf (fun e => [e.last]) (s.tcache.filter s.evictable) with
  | none => .next s
  | some e => .next { s with tcache := s.tcache.filter fun x => x.id != e.id }

/-- The 256 bytes of a profile record (R117). -/
def TEntry.profile (e : TEntry) : List Byte :=
  let sites := e.sites.flatMap fun x => leBytes 4 x.ldw ++ leBytes 4 x.stw ++ leBytes 8 x.count
  let all := leBytes 8 e.launches ++ leBytes 8 e.runs ++ leBytes 8 e.rollbacks ++ leBytes 8 0 ++ sites
  all ++ List.replicate (256 - all.length) 0

/-- PROFILE_REQUEST: a write of `CXQ_KPROF`, of which RES tells the outcome from now on; a record still to be written for an earlier
request is written, and tells nothing (R117). -/
def execProfileRequest (handle : BitVec 32) (s : State) : Res :=
  let h := handle.toNat
  let ctx := fieldOf h 26 6
  let late := s.cxq.late.map fun w => { w with prof := false }
  let none_ : State := { s with cxq := { s.cxq with kpres := 2, late := late } }
  match s.handleKernel ctx h with
  | none => .next none_
  | some (_, k) =>
    match s.entryFor k with
    | none => .next none_
    | some e =>
      let s1 : State := { s with cxq := { s.cxq with kpres := 0, late := late } }
      .next (s1.writeLate ⟨ctx, fieldOf s.cxq.kpbuf.toNat 8 49 * 256, e.profile, true, none⟩)

/-! ### Child launches (R97, R100) -/

/-- CHILD_LAUNCH: in its turn the oldest pushed record of a team leaves its queue and enters scheduling as a child launch
(R94, R97). Failures reach only the child (R100). -/
def execChildLaunch (team : Nat) (s : State) : Res :=
  match s.team? team with
  | none => .next s
  | some t =>
    match (if s.nextHandOver ≠ some (.child team) then [] else t.children) with
    | [] => .next s
    | ws :: rest =>
      let word (i : Nat) : Nat := (ws.getD i 0).toNat
      let ctx := s.ctxOf t
      let parent := s.launchOf t
      let f := ((s.setTeam { t with children := rest, kids := t.kids + 1 }).served parent.pri (parent.origin.getD 0)).fresh
      let put (slot : Nat) (k : Kernel) : Launch := { launchOfWords f.1 (BitVec.ofNat 32 (word 7)) ctx slot k word with
        gen := (s.kslot ctx slot).gen, pri := parent.pri, parent := some team, origin := parent.origin }
      let enter (l : Launch) : State := { f.2 with launches := f.2.launches ++ [l] }
      let dead (detail : Nat) : State := (enter (put 0 {})).failLaunch (put 0 {}) 0x0E 0 detail
      if (s.ctx ctx).state = 5 then .next ((enter (put 0 {})).finishLaunch (put 0 {}) 0x0E)
      else match s.handleKernel ctx (word 2) with
        | none => .next (dead 2)
        | some (slot, k) =>
          if k.priv ≠ 0 ∧ word 5 % 16 ≠ 0 then .next (dead 6) else .next (f.2.beginLaunch (put slot k))

end Sys2Proof.Machine
end

