-- ==== Sys2Proof/Machine/EvPackage.lean ====
section
/-!
DEFINITION. Events of the package as a whole: boot and firmware, freezes, keys, errors, clocks and power, register writes and
accesses of the system cores (R6, R303, R339 to R351, R371 to R373).
-/
namespace Sys2Proof.Machine

/-! ### Marker copies (R342) -/

/-- One bit of the CRC-32 of IEEE 802.3, in its reflected form. -/
def crcBit (c : BitVec 32) : BitVec 32 := if c.getLsbD 0 then (c >>> 1) ^^^ 0xEDB88320 else c >>> 1
/-- CRC-32 of bytes. -/
def crc32 (bs : List Byte) : BitVec 32 :=
  ~~~(bs.foldl (fun c b => (List.range 8).foldl (fun c _ => crcBit c) (c ^^^ b.setWidth 32)) 0xFFFFFFFF)

/-- A marker copy is valid. -/
def markerOk (m : List Byte) : Bool :=
  m.length == 16 && leNat (m.drop 12) == (crc32 (m.take 12)).toNat && decide ((m.getD 4 0).toNat < 2)
def markerSeq (m : List Byte) : BitVec 32 := BitVec.ofNat 32 (leNat (m.take 4))
def markerSlot (m : List Byte) : Nat := (m.getD 4 0).toNat

/-- The slot that the markers choose: of the valid copy with the higher SEQ by serial-number arithmetic, else slot A. Two SEQ
of which neither is higher choose freely. (DEDUCED, log entry 50) -/
def Fw.chosen (f : Fw) (draw : Nat) : Nat :=
  match markerOk f.marker0, markerOk f.marker1 with
  | false, false => 0
  | true, false => markerSlot f.marker0
  | false, true => markerSlot f.marker1
  | true, true =>
    let d := (markerSeq f.marker0 - markerSeq f.marker1).toNat
    if d = 0 ∨ d = 2 ^ 31 then choose (Config.freePick draw 0) 0 [markerSlot f.marker0, markerSlot f.marker1]
    else if d < 2 ^ 31 then markerSlot f.marker0
    else markerSlot f.marker1

/-! ### Boot (R340, R341) -/

/-- A little-endian number of eight bytes that a reader gives. -/
def numAt (rd : Nat → Byte) (off : Nat) : Nat := leNat ((List.range 8).map fun k => rd (off + k))
/-- A byte string, after its length. -/
def textAt (rd : Nat → Byte) (off : Nat) : List Byte :=
  (List.range (numAt rd off % 2 ^ 24)).map fun k => rd (off + 8 + k)

/-- An image as it is stored, with its length in store: VER, and then with their lengths the two public keys, the two signatures and
the image bytes. (DESIGN CHOICE, log entry 7) -/
def imageAt (rd : Nat → Byte) : Image × Nat :=
  let end_ (off : Nat) : Nat := off + 8 + numAt rd off % 2 ^ 24
  let o1 := 8
  let o2 := end_ o1
  let o3 := end_ o2
  let o4 := end_ o3
  let o5 := end_ o4
  ({ ver := numAt rd 0, len := numAt rd o5, rsaKey := textAt rd o1, slhKey := textAt rd o2, rsaSig := textAt rd o3
     slhSig := textAt rd o4, bytes := textAt rd o5 }, end_ o5)

/-- Images that follow one another in store. -/
def imagesAt (rd : Nat → Byte) : Nat → Nat → List Image
  | 0, _ => []
  | n + 1, off => let x := imageAt fun k => rd (off + k); x.1 :: imagesAt rd n (off + x.2)

/-- What the signatures of an image are over: the header's fields and the image bytes (R341). -/
def Image.message (i : Image) : List Byte := leBytes 8 i.ver ++ leBytes 8 i.len ++ i.bytes

/-- The SHA-384 digest of a key, where the tables give one. -/
def Verifier.digest (v : Verifier) (key : List Byte) : Option (List Byte) := (v.sha.find? fun x => x.1 == key).map (·.2)

/-- An image passes: it has the length of its header, both signatures verify, both keys match their fused digests, and its version is
at least the floor (R341). -/
def Fw.passes (f : Fw) (i : Image) : Bool :=
  i.bytes.length == i.len && f.verifier.rsa.contains (i.rsaKey, i.message, i.rsaSig) &&
    f.verifier.slh.contains (i.slhKey, i.message, i.slhSig) && f.verifier.digest i.rsaKey == some f.rsaFuse &&
    f.verifier.digest i.slhKey == some f.slhFuse && decide (f.floor ≤ i.ver)
/-- A slot's images. -/
def Fw.images (f : Fw) (slot : Nat) : List Image :=
  (if slot = 0 then f.slotA else f.slotB).map fun m => (imageAt (aget 0 m)).1
/-- A slot passes: all four of its images do. -/
def Fw.slotOk (f : Fw) (slot : Nat) : Bool := (f.images slot).length == 4 && (f.images slot).all f.passes

/-- The boot ROM's choice: the chosen slot, else the other, else RECOVERY. (DESIGN CHOICE, log entry 7) -/
def Fw.boot (f : Fw) (draw : Nat) : Fw :=
  let c := f.chosen draw
  let g : Fw := { floor := f.floor, marker0 := f.marker0, marker1 := f.marker1, slotA := f.slotA, slotB := f.slotB
                  rsaFuse := f.rsaFuse, slhFuse := f.slhFuse, verifier := f.verifier, accepts := f.accepts }
  if f.slotOk c then { g with slot := c, state := 1, running := f.images c }
  else if f.slotOk (1 - c) then { g with slot := 1 - c, fallback := true, state := 1, running := f.images (1 - c) }
  else { g with slot := c, state := 2 }

/-- Every link of the package. -/
def allLinks : List Nat :=
  List.range 512 ++ (List.range 64).map (512 + ·) ++ (List.range 16).map (1024 + ·) ++ (List.range 8).map (1536 + ·)

/-- The package after a reset and before its boot: every register has its reset value, the links train, and memory of this
package under any key is lost; other packages, and what has been sent to them, are not touched (R6, R305, R340).
(DESIGN CHOICE, log entry 2) -/
def State.cleared (s : State) : State :=
  { State.reset with
    pkg := s.pkg
    members := s.members
    mem := akeep (fun a => paPkg a != s.pkg) s.mem
    links := allLinks.map fun n => (n, { state := 1 })
    fw := { s.fw with state := 0 }
    wires := s.wires
    nextId := s.nextId
    inputs := s.inputs
    picks := s.picks
    free := s.free }

/-- A window as its register holds it: a size of 12 to 50 or none, a base aligned to the size, and WR (R351). -/
def windowOf (w : BitVec 64) : BitVec 64 :=
  let n := fieldOf w.toNat 56 8
  if 12 ≤ n ∧ n ≤ 50 then BitVec.ofNat 64 (n * 2 ^ 56 + fieldOf w.toNat 12 44 * 4096 / 2 ^ n * 2 ^ n + w.toNat % 2) else 0

/-- A range of memory with the pages it lies in: the monitor keeps whole pages, in which no context maps a byte (R17, R344).
(DESIGN CHOICE, log entry 7) -/
def wholePages (r : Nat × Nat) : Nat × Nat :=
  (r.1 / 4096 * 4096, if r.2 = 0 then 0 else (r.1 + r.2 + 4095) / 4096 * 4096 - r.1 / 4096 * 4096)

/-- What the monitor fixes at boot: the windows, the places it keeps to itself and to the translator, the update area's length, the
egress allowlist and each port's rate (R325, R340, R344). (DESIGN CHOICE, log entry 7) -/
def Fw.bounded (f : Fw) : Fw :=
  { f with
    win := (List.range 8).foldl (fun m k => aset 0 m k (windowOf (Config.window k))) []
    monitor := Config.monitorMemory.map wholePages, sealed := Config.translatorMemory.map wholePages
    areaLen := (Config.areaBytes + 4095) / 4096 * 4096 }
def bootNt : Nt :=
  { allow := Config.allowlist, rates := (List.range 8).foldl (fun m p => aset 0 m p (Config.portRate p)) [] }

/-- PACKAGE_RESET: every register returns to its reset value and the package boots from a verified slot; its monitor fixes the
bounds of its masters, unless no slot passes (R340 to R342, R344). -/
def execPackageReset (s : State) : Res :=
  let f := s.fw.boot s.free
  let s1 : State := { s.cleared with free := s.free + 1 }
  .next (if f.state = 1 then { s1 with fw := f.bounded, nt := bootNt } else { s1 with fw := f })

/-! ### Updates (R341, R343) -/

/-- The preserved-state table (R343 step 4). -/
def State.preserved (s : State) : Preserved where
  roots := s.ctxs.map fun c => (c.1, c.2.root)
  queues := (s.queues.filter fun q => q.2.state != 0).map fun q => (q.1, q.2.head, q.2.done)
  kernels := (s.kslots.filter fun k => k.2.kernel.isSome).map fun k => (k.1, k.2.gen)
  eps := s.eps.map fun e => (e.1, e.2.gen)
  repls := s.repls

/-- Packets and child launches that have ended and await their writes, in the order in which they ended: a packet by its queue and
number, a child by its identity (R91, R343). -/
def State.endedWork (s : State) : List (Sum (Nat × Nat) Nat) :=
  let pkts : List (Nat × Sum (Nat × Nat) Nat) := s.queues.flatMap fun q =>
    (q.2.pkts.filter fun p => p.state == 2 || p.state == 3).map fun p => (p.ended, .inl (q.1, p.num))
  ksort (pkts ++ (s.launches.filter fun l => l.phase == 2).map fun l => (l.endedAt, .inr l.id))

/-- The completion writes of one of them. -/
def State.completeHeld (s : State) : Sum (Nat × Nat) Nat → State
  | .inl p => if s.unserved p.1 then s else s.pktAdvance p.1 p.2
  | .inr id => match s.launch? id with | some l => s.childCounter l | none => s

/-- Service resumes: the completion writes that were held are performed in retirement order (R343). -/
def State.resumeService (s : State) : State :=
  let s1 := (s.endedWork.foldl State.completeHeld s).retryDevice
  (s1.queues.map (·.1)).foldl State.settleQueue s1

/-- Where images that follow one another in store end. -/
def imagesEnd (rd : Nat → Byte) : Nat → Nat → Nat
  | 0, off => off
  | n + 1, off => imagesEnd rd n (off + (imageAt fun k => rd (off + k)).2)

/-- A byte that the verification of the update area would read is lost: it reads no image there (R348). -/
def State.areaLost (s : State) : Bool :=
  let base := fieldOf s.fw.upd.toNat 12 38 * 4096
  s.locBad (.mem base) (imagesEnd (fun k => readByte s.mem (base + k)) 4 0)

/-- The images in the update area, four that follow one another from AREA on. They are read under the device key, which no key ID
selects (R343, R350). -/
def State.areaImages (s : State) : List Image :=
  imagesAt (fun k => readByte s.mem (fieldOf s.fw.upd.toNat 12 38 * 4096 + k)) 4 0

/-- The successor, or the outgoing firmware, resumes service: what was held is performed, completion writes in retirement order and
then `CXQ_` writes (R343). -/
def State.endUpdate (s : State) (status : Nat) : State :=
  let f := s.fw
  let held := f.heldWrites.map fun i => (⟨0, i⟩ : Input)
  ({ s with fw := { f with updS := status, phase := 0, staged := [], heldWrites := [] }, inputs := held ++ s.inputs } : State).resumeService

/-- LIVE_UPDATE: a step of what a write of `FW_UPD` with kind 1 began. First the update area is verified, and taking stops; then the
table is written; then the area's firmware takes over, with every frozen master restarted, or refuses (R343, R345).
(DEDUCED, log entry 50) -/
def execLiveUpdate (s : State) : Res :=
  let f := s.fw
  if f.state ≠ 1 ∨ f.updS ≠ 1 then .next s
  else if f.phase = 0 then
    .next (if !s.areaLost && s.areaImages.all f.passes then { s with fw := { f with phase := 1, staged := s.areaImages } } else { s with fw := { f with updS := 3 } })
  else if f.phase = 1 then .next { s with fw := { f with phase := 2, kept := some s.preserved } }
  else if !f.accepts then .next (s.endUpdate 4)
  else .next (({ s with fw := { f with frozen := [], running := f.staged } } : State).endUpdate 2)

/-- RAISE_FLOOR: kind 3 of `FW_UPD`: the floor rises to the VER of the running slot, the least of its images' (R341).
(DEDUCED, log entry 50) -/
def execRaiseFloor (s : State) : Res :=
  let f := s.fw
  if f.state ≠ 1 then .next s
  else match (f.images f.slot).map (·.ver) with
    | [] => .next s
    | v :: vs => .next { s with fw := { f with floor := Nat.max f.floor (vs.foldl Nat.min v) } }

/-! ### Keys (R67, R350) -/

def keyCmd (value : BitVec 64) : Nat := fieldOf value.toNat 0 2
def keyId (value : BitVec 64) : Nat := fieldOf value.toNat 8 6
/-- STATUS of `FW_KEY`. -/
def State.keyStatus (s : State) (n : Nat) : State := { s with fw := { s.fw with keyS := n } }

/-- KEY_CREATE: a key in a free slot; BAD for a slot that holds one. -/
def execKeyCreate (value : BitVec 64) (s : State) : Res :=
  let k := keyId value
  if keyCmd value ≠ 1 then .next s
  else if s.fw.keySlots.getLsbD k then .next (s.keyStatus 2)
  else .next (({ s with fw := { s.fw with keySlots := s.fw.keySlots ||| (1 <<< k : BitVec 64) } } : State).keyStatus 1)

/-- KEY_DESTROY: the key's dirty lines are discarded and its slot is cleared; BAD for a free slot. -/
def execKeyDestroy (value : BitVec 64) (s : State) : Res :=
  let k := keyId value
  if keyCmd value ≠ 2 then .next s
  else if s.fw.keySlots.getLsbD k then .next ((s.destroyKey k).keyStatus 1)
  else .next (s.keyStatus 2)

/-! ### Freezes (R344, R345) -/

/-- A master's access breaks a bound: 1 outside the windows of a core of the command complex, 2 a key slot, 3 the translation
cache, 4 egress. (DEDUCED, log entry 51) -/
def State.breaks (s : State) (m cause pa : Nat) : Bool :=
  match cause with
  | 1 => decide (m < 7) && !s.cxReach pa 1
  | 2 => true
  | 3 => s.sealed pa
  | 4 => true
  | _ => false

/-- FREEZE: an access that breaks a bound is not performed, its master issues nothing further, and the monitor records it. The
spec does not say how many harts the system cores have: every number that `FW_FRZ` can hold, 0 to 239, names one.
(DESIGN CHOICE, log entry 51) -/
def execFreezeMaster (m : Nat) (cause : Fin 5) (addr : BitVec 64) (s : State) : Res :=
  let pa := fieldOf addr.toNat 0 56
  if !(decide (m < 7) || (decide (16 ≤ m) && decide (m < 256))) || !s.breaks m cause.val pa then .next s
  else .next (s.freeze m cause.val pa)

/-! ### Errors (R225, R346 to R348) -/

/-- ECC_FREEZE_END: 12 ac after the last detection (R347). -/
def execEccFreezeEnd (core : Fin 256) (s : State) : Res :=
  let c := s.core core.val
  if c.frozen ≠ 0 ∧ c.frozen ≤ s.clk then .next (s.setCore core.val { c with frozen := 0 }) else .next s

/-- A core's bank is OFFLINE, or will be once no team holds it (R225, R346). -/
def State.retireBank (s : State) (core bank : Nat) : State :=
  s.setCore core { s.core core with offline := sinsert bank (s.core core).offline }

/-- CORRECTABLE_ERROR of SRAM in a core (kind 0) or of a memory read (1), which its retry mends; or the same, lasting (2, 3). The
core of an SRAM error stands still, with its copy engine, nest and FIFOs, for 12 ac from the last detection. A transient
error is counted in CORR; a lasting one in LAST, and its bank is marked for retirement, or its frame is reported to the driver
(R346, R347).
(DEDUCED, log entry 51) -/
def execCorrectableError (error : CoreError) (s : State) : Res :=
  let core := error.core.val
  let stand (s : State) : State := s.setCore core { s.core core with frozen := s.clk + 12 }
  let count (s : State) : State := { s with fw := { s.fw with corr := satInc s.fw.corr } }
  .next <| match error.kind.val with
  | 0 => count (stand s)
  | 1 => count s
  | 2 => ((stand s).lasting).retireBank core error.bank.val
  | _ => if s.paHole (fieldOf error.addr.toNat 0 56) then s else s.lasting.irq (.frame (fieldOf error.addr.toNat 12 44))

/-- UNCORRECTABLE_ERROR: a byte is lost until it is written; whoever consumes it is told, and the frame of a memory byte is reported
to the driver, which may retire it (R346, R348). With bit 63 clear `addr` is
physical. With it set, bits 40:25 hold a team handle; with bit 62 clear bits 24:0 hold a scratch offset, and with it set bits
24:22 a team core and 21:19 a FIFO of it. (DEDUCED, log entry 51) -/
def execUncorrectableError (addr : BitVec 64) (s : State) : Res :=
  let a := addr.toNat
  if !addr.getLsbD 63 then
    let pa := fieldOf a 0 56
    if s.paHole pa then .next s
    else .next (({ s with badBytes := sinsert pa s.badBytes } : State).lasting.irq (.frame (pa / 4096)))
  else match s.byHandle (fieldOf a 25 16) with
    | none => .next s
    | some t =>
      if !addr.getLsbD 62 then
        let off := fieldOf a 0 25
        if (s.kernelOf t).scratch ≤ off then .next s
        else .next (s.setTeam { t with bad := sinsert (t.scrKey off) t.bad }).lasting
      else
        let x := t.fifo (fieldOf a 22 3) (fieldOf a 19 3)
        let lost := (List.range (x.wr - x.rl)).map (x.rl + ·)
        if x.conf then .next (s.setTeam (t.setFifo (fieldOf a 22 3) (fieldOf a 19 3) { x with bad := lost })).lasting
        else .next s

/-- The bytes of a line as they stood before one of its recorded writes, chosen freely. (DEDUCED, log entry 51) -/
def State.earlierLine (s : State) (pa : Nat) : List (Nat × Byte) :=
  let mine := s.wlog.filter fun e => e.pa / 128 == pa / 128
  let upTo : Nat := choose (Config.freePick s.free pa) 0 (mine.map (·.order))
  (List.range 128).filterMap fun k =>
    (mine.filter fun e => e.pa == pa / 128 * 128 + k && decide (upTo ≤ e.order)).getLast?.map fun e => (e.pa, e.old)

/-- WRITEBACK_DATA_ERROR: a dirty line is lost on its way back: memory keeps an earlier value, and a DATA record with the line's
address goes to its key's context (R348). (DEDUCED, log entry 51) -/
def execWritebackDataError (ctx : Fin 64) (addr : BitVec 64) (s : State) : Res :=
  let pa := fieldOf addr.toNat 0 56 / 128 * 128
  if s.keyOwner (paKey pa) ≠ some ctx.val ∨ s.paHole pa then .next s
  else
    let s1 := (s.earlierLine pa).foldl (fun s e => if readByte s.mem e.1 = e.2 then s else s.poke e.1 [e.2]) s
    .next (({ s1 with free := s1.free + 1 } : State).lineLost pa).lasting

/-- BANK_RETIRE: firmware moves a bank to OFFLINE: at once if no team holds it, else once none does (R225, R346). -/
def execBankRetire (core : Fin 256) (bank : Fin 32) (s : State) : Res := .next (s.retireBank core.val bank.val)

/-! ### Clocks and power (R371 to R373) -/

/-- Ac of 2 ms. -/
def thermalPeriod : Nat := 1200000
/-- Junction temperature of a die in °C. -/
def State.temp (s : State) (die : Nat) : Nat := aget 25 s.pwr.temps die

/-- The time after which a condition came to hold: kept while it holds, and 0 while it does not. -/
def heldSince (held now : Bool) (old clk : Nat) : Nat := if !now then 0 else if held then old else clk + 1

/-- Power of the module in W. -/
def Pwr.watts (p : Pwr) : Nat := p.rails.sum

/-- The sensors' values as they now are: the power of five rails, the junction temperatures of twenty dies, and the coolant's inlet
temperature and flow (R371, R373). (DESIGN CHOICE, log entry 8) -/
def State.sense (s : State) (vs : List Nat) : State :=
  if vs.length ≠ 27 then s
  else
    let p := s.pwr
    let dies := List.range 20
    let new (d : Nat) : Nat := vs.getD (5 + d) 0
    let watts := (vs.take 5).sum
    { s with pwr := { p with
        rails := vs.take 5
        temps := dies.foldl (fun m d => aset 25 m d (new d)) p.temps
        hotAt := dies.foldl (fun m d => aset 0 m d (heldSince (decide (95 < s.temp d)) (decide (95 < new d)) (aget 0 p.hotAt d) s.clk)) p.hotAt
        coolAt := dies.foldl (fun m d => aset 0 m d (heldSince (decide (s.temp d < 90)) (decide (new d < 90)) (aget 0 p.coolAt d) s.clk)) p.coolAt
        overAt := heldSince (decide (p.cap < p.watts)) (decide (p.cap < watts)) p.overAt s.clk
        coolant := (vs.getD 25 0, vs.getD 26 0) } }

/-- A step of a die that its temperature demands is due: 2 ms have passed since it came to demand one, and since the die's last step.
(DEDUCED, log entry 52) -/
def State.thermalDue (s : State) (at_ : Nat) (die : Nat) : Bool :=
  decide (Nat.max at_ (aget 0 s.pwr.since die) + thermalPeriod ≤ s.clk + 1)
/-- Set the clock step of a die. -/
def State.setStep (s : State) (die mhz : Nat) : State :=
  { s with pwr := { s.pwr with step := aset 600 s.pwr.step die mhz, since := aset 0 s.pwr.since die (s.clk + 1) } }

/-- THERMAL_STEP_DOWN: after 2 ms above 95 °C a die's clock falls by one step, to 300 MHz at least (R371). -/
def execThermalStepDown (die : Fin 20) (s : State) : Res :=
  let f := aget 600 s.pwr.step die.val
  if 95 < s.temp die.val ∧ s.thermalDue (aget 0 s.pwr.hotAt die.val) die.val ∧ 300 < f then .next (s.setStep die.val (f - 100))
  else .next s

/-- THERMAL_STEP_UP: after 2 ms below 90 °C it rises by one step, to 600 MHz at most (R371). -/
def execThermalStepUp (die : Fin 20) (s : State) : Res :=
  let f := aget 600 s.pwr.step die.val
  if s.temp die.val < 90 ∧ s.thermalDue (aget 0 s.pwr.coolAt die.val) die.val ∧ f < 600 then .next (s.setStep die.val (f + 100))
  else .next s

/-- CLOCK_STOP: at 105 °C the arithmetic clock of a compute die stops, once the issue cycle in progress is over; the quay dies are not
stopped (R371, R372). -/
def execClockStop (die : Fin 20) (s : State) : Res :=
  if s.temp die.val < 105 ∨ 16 ≤ die.val ∨ s.pwr.stopped.contains die.val then .next s
  else
    .next { s with pwr := { s.pwr with
      stopped := sinsert die.val s.pwr.stopped, stopAt := aset 0 s.pwr.stopAt die.val (s.clk + 1) } }

/-- CLOCK_RESUME: below 95 °C it runs again (R371). -/
def execClockResume (die : Fin 20) (s : State) : Res :=
  if 95 ≤ s.temp die.val ∨ !s.pwr.stopped.contains die.val then .next s
  else
    .next { s with pwr := { s.pwr with
      stopped := s.pwr.stopped.filter (· != die.val), stopAt := aset 0 s.pwr.stopAt die.val 0 } }

/-- THERMAL_SHUTDOWN: where a die's junction is at 110 °C the module shuts down, as a package reset without saved state (R371). -/
def execThermalShutdown (s : State) : Res :=
  if !((List.range 20).any fun d => decide (110 ≤ s.temp d)) then .next s
  else
    let s1 := s.cleared
    .next { s1 with links := [], pwr := { s1.pwr with off := true } }

/-- POWER_CAP_SET: the board controller sets a cap of 1,500 W to 3,600 W; the steps that the old cap took end.
(DEDUCED, log entry 52) -/
def execPowerCapSet (watts : Nat) (s : State) : Res :=
  if 1500 ≤ watts ∧ watts ≤ 3600 then
    .next { s with pwr := { s.pwr with cap := watts, capClock := 600, overAt := if watts < s.pwr.watts then s.clk + 1 else 0 } }
  else .next s

/-- Ac from one step of a cap to the next: the three steps lie within 10 ms. (DESIGN CHOICE, log entry 52) -/
def capPeriod : Nat := 1200000

/-- POWER_CAP_CLOCK_STEP: while the module's power exceeds its cap, the clock that the cap sets falls by one step, to 300 MHz at
least; the next is due 2 ms later (R373). (DESIGN CHOICE, log entry 52) -/
def execPowerCapClockStep (s : State) : Res :=
  if s.pwr.cap < s.pwr.watts ∧ s.pwr.overAt ≤ s.clk + 1 ∧ 300 < s.pwr.capClock then
    .next { s with pwr := { s.pwr with capClock := s.pwr.capClock - 100, overAt := s.clk + 1 + capPeriod } }
  else .next s

/-- The clock of a die in MHz: the lower of what its temperature and the cap demand; 0 while it is stopped.
(DEDUCED, log entry 52) -/
def State.dieClock (s : State) (die : Nat) : Nat :=
  if s.clockStopped die then 0 else Nat.min (aget 600 s.pwr.step die) s.pwr.capClock

/-- PLDM_MONITOR_READ: the board controller reads the power of each rail, the junction temperatures, the dies' clocks, and the
coolant's temperature and flow; `values` gives the sensors' values as they now are (R373). (DESIGN CHOICE, log entry 8) -/
def execPldmMonitorRead (values : List Nat) (s : State) : Res :=
  let s1 := s.sense values
  let p := s1.pwr
  .next { s1 with pwr := { p with
    reading := (List.range 5).map (fun k => p.rails.getD k 0) ++ (List.range 20).map s1.temp ++ (List.range 20).map s1.dieClock ++
      [p.coolant.1, p.coolant.2] } }

/-! ### Registers (R6) -/

/-- Bits of a register that a write replaces. (DEDUCED, log entry 54) -/
def regPut (old value mask : BitVec 64) : BitVec 64 := (old &&& ~~~mask) ||| (value &&& mask)

/-- The writable fields of a context's registers take effect while it is FREE (R70 to R72, R374). -/
def State.freeCtx (s : State) (f : Ctx → Ctx) : State :=
  let c := s.ctx s.cxq.csel
  if c.state = 0 then s.setCtx s.cxq.csel (f c) else s

/-- A queue's registers (R85, R338). -/
def State.selQueue (s : State) (f : Queue → Queue) : State := s.setQueue s.cxq.qsel (f (s.queue s.cxq.qsel))

/-- The endpoint registers take effect while the selected endpoint is INVALID (R316). -/
def State.freeEp (s : State) (f : Ep → Ep) : State :=
  let e := s.ep s.nt.epsel
  if e.state = 0 then s.setEp s.nt.epsel (f e) else s

/-- A register of the selected link (R309). -/
def State.onLink (s : State) (f : Link → Link) : State :=
  match s.selLink with | some n => s.setLink n (f (s.link n)) | none => s

/-- An image may be written into a slot: in RUN into the one that does not run, in RECOVERY into either (R340, R342). -/
def Fw.slotFree (f : Fw) (slot : Nat) : Bool := f.state == 2 || (f.state == 1 && f.slot != slot)

/-- A marker copy may be written: it is invalid, or both are valid and its SEQ is not the higher one; in RECOVERY either is
(R342). -/
def Fw.markerFree (f : Fw) (copy : Nat) : Bool :=
  let (a, b) := if copy = 0 then (f.marker0, f.marker1) else (f.marker1, f.marker0)
  f.state == 2 || (f.state == 1 && (!markerOk a || (markerOk b && decide ((markerSeq b - markerSeq a).toNat < 2 ^ 31))))

/-- Eight bytes of a marker copy replaced. -/
def putHalf (m : List Byte) (half : Nat) (v : BitVec 64) : List Byte :=
  let old := (List.range 16).map fun k => m.getD k 0
  if half = 0 then leBytes 8 v.toNat ++ old.drop 8 else old.take 8 ++ leBytes 8 v.toNat

/-- Program eight bytes of an image of a slot. (DESIGN CHOICE, log entry 7) -/
def Fw.putImage (f : Fw) (slot i word : Nat) (v : BitVec 64) : Fw :=
  let put (m : AMap Byte) : AMap Byte := (leBytes 8 v.toNat).zipIdx.foldl (fun m x => aset 0 m (8 * word + x.2) x.1) m
  if !f.slotFree slot then f
  else if slot = 0 then { f with slotA := f.slotA.set i (put (f.slotA.getD i [])) }
  else { f with slotB := f.slotB.set i (put (f.slotB.getD i [])) }

/-- Write half of a marker copy. -/
def Fw.putMarker (f : Fw) (copy half : Nat) (v : BitVec 64) : Fw :=
  if !f.markerFree copy then f
  else if copy = 0 then { f with marker0 := putHalf f.marker0 half v } else { f with marker1 := putHalf f.marker1 half v }

/-- REGISTER_WRITE: the passive fields of a register take the value's bits; its other bits stay (R6). Slots that a
write of a ring register frees take what waits for them; kind 1 of `FW_UPD` begins a live update, and the flash takes images and
marker copies (R335, R340, R342, R343). (DEDUCED, log entry 54) -/
def execRegisterWrite (reg : RegId) (value : BitVec 64) (s : State) : Res :=
  let v := value.toNat
  .next <| match reg with
  | .cxqCsel => { s with cxq := { s.cxq with csel := fieldOf v 0 6 } }
  | .cxqCkeys => s.freeCtx fun c => { c with keys := value }
  | .cxqCtag => s.freeCtx fun c => { c with tag := value.extractLsb' 0 16 }
  | .cxqCfring => s.freeCtx fun c => { c with fring := value &&& 0x01FFFFFFFFFFF01F }
  | .cxqCswap => s.freeCtx fun c => { c with swap := value &&& 0x01FFFFFFFFE00000 }
  | .cxqCswlen => s.freeCtx fun c => { c with swlen := value &&& 0xFFFFFFFF }
  | .cxqQsel => { s with cxq := { s.cxq with qsel := fieldOf v 0 10 } }
  | .cxqQring => s.selQueue fun x => if x.state = 0 then { x with ring := value &&& 0x01FFFFFFFFFFF01F } else x
  | .cxqQwake => s.selQueue fun x => if x.state = 0 then { x with wakePage := value &&& 0x01FFFFFFFFFFF000 } else x
  | .taQrec => s.selQueue fun x => { x with qrec := value &&& 0x01FFFFFFFFFFFFC1 }
  | .taQid => s.selQueue fun x => { x with qid := value }
  | .cxqKimg => { s with cxq := { s.cxq with kimg := regPut s.cxq.kimg value 0x01FFFFFFFFFFFFC0 } }
  | .cxqKlen => { s with cxq := { s.cxq with klen := value &&& 0xFFFFFFFF } }
  | .cxqKdiag => { s with cxq := { s.cxq with kdiag := value &&& 0x01FFFFFFFFFFFFE0 } }
  | .cxqKpbuf => { s with cxq := { s.cxq with kpbuf := value &&& 0x01FFFFFFFFFFFF00 } }
  | .cxqQuant => { s with cxq := { s.cxq with quant := value &&& 0xFFFFFFFF } }
  | .pgFq => ({ s with pg := { s.pg with fq := value &&& 0x00FFFFFFFFFFF01F } } : State).flushReqs
  | .pgCthr => { s with pg := { s.pg with cthr := value &&& 0xFFFFFFFF } }
  | .pgHotq => { s with pg := { s.pg with hotq := regPut s.pg.hotq value 0x00FFFFFFFFFFF000, hotFull := false } }
  | .pgMsrc q => s.setMig q.val { s.mig q.val with src := value &&& 0x00FFFFFFFFFFF000 }
  | .pgMdst q => s.setMig q.val { s.mig q.val with dst := value &&& 0x00FFFFFFFFFFF000 }
  | .pgMpte q => s.setMig q.val { s.mig q.val with pte := value &&& 0x00FFFFFFFFFFFFF8 }
  | .lkSel => { s with nt := { s.nt with lksel := value &&& 0x3FFFF } }
  | .lkThr => s.onLink fun x => { x with thr := value.extractLsb' 0 16 }
  | .lkCtl => s.onLink fun x => { x with auto := value.getLsbD 3 }
  | .ntEpsel => { s with nt := { s.nt with epsel := fieldOf v 0 14 } }
  | .ntEpcfg => s.freeEp fun e => { e with ctx := fieldOf v 51 6, port := fieldOf v 48 3, job := fieldOf v 0 24 }
  | .ntEpaddr0 => s.freeEp fun e => { e with addr0 := value }
  | .ntEpaddr1 => s.freeEp fun e => { e with addr1 := value }
  | .ntPkt => { s with nt := { s.nt with pkt := value &&& 0xFFFFFFFFFF } }
  | .ntFab => { s with nt := { s.nt with fab := value &&& 0xFFFFFFFFFFFF } }
  | .dbgSel => { s with dbg := { s.dbg with sel := value &&& 0xFFFFFFFFFFFF0000 } }
  | .dbgSelg => { s with dbg := { s.dbg with selg := value &&& 0xFFFFFFFFFFFFF } }
  | .dbgSmp => { s with dbg := { s.dbg with smp := regPut s.dbg.smp value 0xFFFFFF01 } }
  | .dbgSring => ({ s with dbg := { s.dbg with sring := value &&& 0x00FFFFFFFFFFF01F } } : State).flushStops
  | .fwUpd => { s with fw := { s.fw with
      upd := value &&& 0x00FFFFFFFFFFF000, updS := if fieldOf v 0 2 = 1 then 1 else s.fw.updS } }
  | .flashImage slot i word => { s with fw := s.fw.putImage slot.val i.val word.val value }
  | .flashMarker copy half => { s with fw := s.fw.putMarker copy.val half.val value }
  | .successor => { s with fw := { s.fw with accepts := value.getLsbD 0 } }

/-! ### The system cores (R301 to R303, R344) -/

/-- The value that an AMO of RISC-V stores: 2 swap, 3 add, 4 xor, 5 and, 6 or, 7 min, 8 max, 9 minu, 10 maxu; a compare-and-swap
is the hart's own pair of accesses. (DEDUCED, log entry 53) -/
def amoValue (op size old v : Nat) : Nat :=
  let w := 8 * size
  let x := v % 2 ^ w
  let less : Bool := decide (signedOf w old < signedOf w x)
  match op with
  | 2 => x
  | 3 => (old + x) % 2 ^ w
  | 4 => old ^^^ x
  | 5 => old &&& x
  | 6 => old ||| x
  | 7 => if less then old else x
  | 8 => if less then x else old
  | 9 => Nat.min old x
  | _ => Nat.max old x

/-- May a hart use a leaf: U as its mode and SUM have it, A set, and D for a store or AMO, which the hart does not set, and the
permission asked for (R16, R195, R203). (PRESUMED, log entry 30) -/
def hartMay (w : HartWalk) (p : Nat) (store : Bool) : Bool :=
  (if w.user then pteBit p 4 else !pteBit p 4 || w.sum) && pteBit p 6 &&
    (if store then pteBit p 2 && pteBit p 7 else pteBit p 1 || (w.mxr && pteBit p 3))

/-- The leaf of an address by the Sv57 walk of a hart, from a table at `base` with `n` levels left, with its level; none where an
entry cannot be read, or where the hart takes its own page fault (R16, R195). (PRESUMED, log entry 30) -/
def hartLeaf (read : Nat → Option Nat) (w : HartWalk) (va : Nat) (store : Bool) : Nat → Nat → Nat → Option (Nat × Nat)
  | 0, _, _ => none
  | n + 1, base, level =>
    match read (base + 8 * fieldOf va (12 + 9 * level) 9) with
    | none => none
    | some p =>
      if !pteBit p 0 then none
      else if pteBit p 1 || pteBit p 2 || pteBit p 3 then
        if pteMalformed p level || !hartMay w p store then none else some (p, level)
      else if level = 0 || pteReserved p || pteBit p 63 then none
      else hartLeaf read w va store n (pteBase p) (level - 1)

/-- A table entry as a hart's walk reads it: none where its key is gone, a link holds it or has lost it, or its bytes are lost
(R67, R305, R308, R348). -/
def State.hartEntry (s : State) (a : Nat) : Option Nat := if (s.entryStop 1024 a).isSome then none else some (s.entryAt a)

/-- The place that a hart's own walk gives a virtual address, which is canonical (R195). -/
def State.hartTranslate (s : State) (w : HartWalk) (va : Nat) (store : Bool) : Option Nat :=
  if va / 2 ^ 56 ≠ 0 ∧ va / 2 ^ 56 ≠ 255 then none
  else (hartLeaf s.hartEntry w va store 5 (w.root.toNat * 4096) 4).map fun p => leafPage p.1 p.2 va + va % 4096

/-- The places that a hart's access reaches, each with its length: the physical address given, or the translation of each page
that the access touches. -/
def State.hartPlace (s : State) (x : HartAddr) (store : Bool) (size : Nat) : Option (List (Nat × Nat)) :=
  match x.walk with
  | none => some [(fieldOf x.addr.toNat 0 56, size)]
  | some w =>
    let va := x.addr.toNat
    let n := 4096 - va % 4096
    if size ≤ n then (s.hartTranslate w va store).map fun p => [(p, size)]
    else match s.hartTranslate w va store, s.hartTranslate w ((va + n) % 2 ^ 64) store with
      | some p, some q => some [(p, n), (q, size - n)]
      | _, _ => none

/-- The place in memory of an address: the update area, under the device key that no key ID selects, is one place for all of them
(R350). -/
def State.unkeyed (s : State) (pa : Nat) : Nat := if s.inArea pa then pa % 2 ^ 50 else pa

/-- Bytes of a hart's places, in the order of its addresses. -/
def State.hartBytes (s : State) (ps : List (Nat × Nat)) : List Byte := ps.flatMap fun p => readBytes s.mem p.1 p.2

/-- What a hart's load or AMO returns. -/
def State.hartReads (s : State) (hart : Nat) (ps : List (Nat × Nat)) : State :=
  { s with harts := aset 0 s.harts hart (BitVec.ofNat 64 (leNat (s.hartBytes ps))) }

/-- Write bytes at a hart's places. -/
def State.hartWrite (s : State) : List (Nat × Nat) → List Byte → State
  | [], _ => s
  | p :: ps, bs => (s.putLines p.1 (bs.take p.2)).hartWrite ps (bs.drop p.2)

/-- SYSTEM_CORE_ACCESS: a hart's load (op 0), store (1) or AMO (2 to 10) on package memory, by physical address or through the hart's
own Sv57 walk of each page it touches. One that the page tables do not permit, or to a hole, or under a key slot that holds no key,
is not performed, nor is one over a link in training; one to the translation cache or the translator's memory freezes the hart, and
a frozen hart issues none. A load or AMO of lost bytes returns nothing, and the AMO does not write (R16, R17, R196, R200, R301,
R305, R344, R345, R348). (DEDUCED, log entry 53) -/
def execSystemCoreAccess (place : HartAddr) (size : Nat) (op : Nat) (value : BitVec 64) (s : State) : Res :=
  let h := place.hart.val
  if !([1, 2, 4, 8].contains size) || decide (10 < op) || s.fw.frozen.contains (16 + h) then .next s
  else match s.hartPlace place (op != 0) size with
  | none => .next s
  | some at_ =>
    let ps := at_.map fun p => (s.unkeyed p.1, p.2)
    if decide (2 ≤ op) && (decide (size < 4) || place.addr.toNat % size != 0) then .next s
    else if ps.any fun p => s.paHole p.1 || s.paHole (p.1 + p.2 - 1) then .next s
    else match ps.find? fun p => s.sealed p.1 || s.sealed (p.1 + p.2 - 1) with
    | some p => .next (s.freeze (16 + h) 3 p.1)
    | none =>
      if at_.any fun p => !s.inArea p.1 && !s.fw.keySlots.getLsbD (paKey p.1) then .next s
      else if ps.any fun p => s.linkHeld 1024 p.1 p.2 || s.polderWaits (.mem p.1) || s.polderGone (.mem p.1) then .next s
      else if op = 1 then .next (s.hartWrite ps (leBytes size value.toNat))
      else if ps.any fun p => s.locBad (.mem p.1) p.2 then .next s
      else if op = 0 then .next (s.hartReads h ps)
      else .next ((s.hartReads h ps).hartWrite ps (leBytes size (amoValue op size (leNat (s.hartBytes ps)) value.toNat)))

end Sys2Proof.Machine
end

