-- ==== Sys2Proof/Machine/FloatBody.lean ====
section
/-!
DEFINITION. Bodies of class 0b001: the effect of each floating, special-function and quantising word on its window
(R173 to R193).
-/
namespace Sys2Proof.Machine

/-- `.ftz` of MOD 4 (R47). -/
def ftzOf (m : BitVec 6) : Bool := m.getLsbD 4

/-- The rounding of an element of the word (R29, R30). -/
def W.mode (w : W) (m : BitVec 6) (lane e : Nat) : RMode := modeOf m w.seed w.ts.pc lane e

/-- Sources of R37 for words of one, two and three sources. -/
def srcs1 (x : RWord) : List (Nat × Opd) := [(2, x.sa)]
def srcs2 (x : RWord) : List (Nat × Opd) := [(2, x.sa), (3, x.sb)]
def srcs3 (x : RWord) : List (Nat × Opd) := [(2, x.sa), (3, x.sb), (4, x.sc)]

/-- A word that computes each element of its type from element bits of its sources. -/
def elemBody (srcs : List (Nat × Opd)) (x : RWord) (f : Nat → RMode → Nat → Nat → Nat → FRes) : Body :=
  markedBody srcs fun w =>
    w.floatDst x.dst fun l => packRes x.typ <| (List.range (tyElems x.typ)).map fun e =>
      f e (w.mode x.mod l e) (w.srcF x.typ x.sa l e) (w.srcF x.typ x.sb l e) (w.srcF x.typ x.sc l e)

/-- An arithmetic word: operands read under `.ftz`, one exact operation, one rounding (R177). -/
def floatBody (srcs : List (Nat × Opd)) (x : RWord) (op : RMode → FVal → FVal → FVal → FVal × Flags) : Body :=
  elemBody srcs x fun _ mode a b c =>
    let f := fmtOf x.typ
    let z := ftzOf x.mod
    let r := op mode (readF f z a) (readF f z b) (readF f z c)
    (roundF f mode z r.1).with r.2

def faddOp (m : RMode) (x y _ : FVal) : FVal × Flags := (sumF m [x, y], 0)
def fsubOp (m : RMode) (x y _ : FVal) : FVal × Flags := (sumF m [x, y.negate], 0)
def fmulOp (_ : RMode) (x y _ : FVal) : FVal × Flags := (mulF x y, 0)
def fmaOp (m : RMode) (x y c : FVal) : FVal × Flags := (sumF m [mulF x y, c], 0)
def fdivOp (_ : RMode) (x y _ : FVal) : FVal × Flags := divF x y

/-- `fsqrt` (R177). -/
def fsqrtBody (x : RWord) : Body :=
  floatBody (srcs1 x) x fun _ a _ _ => (sqrtF (fmtOf x.typ) a, 0)

/-- `frcp` (R181): the nearest value of 1/x. -/
def frcpBody (x : RWord) : Body :=
  floatBody (srcs1 x) x fun _ a _ _ => divF (.fin false 1 1) a

/-- `frsq` (R181). -/
def frsqBody (x : RWord) : Body :=
  floatBody (srcs1 x) x fun _ a _ _ => rsqrtF (fmtOf x.typ) a

/-- A special function that needs an enclosure (R181). -/
def specBody (x : RWord) (fn : SpecFn) : Body :=
  elemBody (srcs1 x) x fun _ _ a _ _ => specF (fmtOf x.typ) (ftzOf x.mod) fn (readF (fmtOf x.typ) (ftzOf x.mod) a)

/-- `fmin` and `fmax` (R178). -/
def fminmaxBody (x : RWord) (isMax : Bool) : Body :=
  elemBody (srcs2 x) x fun _ _ a b _ => minmaxF (fmtOf x.typ) isMax (ftzOf x.mod) a b

/-- `fabs` and `fneg` (R179). -/
def fsignBody (x : RWord) (f : Nat → Nat → Nat) : Body :=
  elemBody (srcs1 x) x fun _ _ a _ _ => ⟨f (fmtOf x.typ).signBit a, 0⟩

/-- `frnd` (R180). -/
def frndBody (x : RWord) : Body :=
  elemBody (srcs1 x) x fun _ mode a _ _ => frndF (fmtOf x.typ) mode (ftzOf x.mod) a

/-- `fcmp` (R182). -/
def fcmpBody (x : RWord) : Body := markedBody (srcs2 x) fun w =>
  let f := fmtOf x.typ
  let a (l : Nat) := readF f false (w.srcF x.typ x.sa l 0)
  let b (l : Nat) := readF f false (w.srcF x.typ x.sb l 0)
  let nv := w.act.any fun l => a l == .nan true || b l == .nan true
  let cc := modField x.mod 0 4
  (w.dstPred x.dst fun l =>
    match modField x.mod 4 2 with
    | 1 => floatCompare cc (a l) (b l) && w.predSrc x.sc l
    | 2 => floatCompare cc (a l) (b l) || w.predSrc x.sc l
    | _ => floatCompare cc (a l) (b l)).raise (flagIf nv fNV)

/-- `fclass` (R183). -/
def fclassBody (x : RWord) : Body := markedBody (srcs1 x) fun w =>
  w.dst x.dst fun l => BitVec.ofNat 64 (2 ^ classBit (fmtOf x.typ) (w.srcF x.typ x.sa l 0))

/-- `flg` (R184): without `.scl` the exponent as i64, with it a scaling by 2^n. -/
def flgBody (x : RWord) : Body :=
  if x.mod.getLsbD 5 then
    markedBody (srcs2 x) fun w =>
      w.floatDst x.dst fun l =>
        let f := fmtOf x.typ
        let k := signedOf 32 ((w.src x.sb l).toNat % 2 ^ 32)
        let r := roundF f (w.mode x.mod l 0) (ftzOf x.mod)
          (scaleF (readF f (ftzOf x.mod) (w.srcF x.typ x.sa l 0)) k)
        (scalarReg x.typ r.bits, r.fl)
  else
    markedBody (srcs1 x) fun w =>
      w.floatDst x.dst fun l =>
        let r := exponentOf (fmtOf x.typ) (w.srcF x.typ x.sa l 0)
        (BitVec.ofInt 64 r.1, r.2)

/-- A conversion source: floating types read immediates as values, others as bits (R174, R185). -/
def W.convSrc (w : W) (t : Typ) (ftz : Bool) (o : Opd) (lane : Nat) : FVal :=
  if tF t then readF (fmtOf t) ftz (w.srcF t o lane 0)
  else convSource t ftz (elemBits (tyWidth t) 0 (w.src o lane))

/-- The source type of a conversion in AUX 7:2. -/
def srcTyp (x : RWord) : Typ := (auxTyp x.aux).getD .f32

/-- `fcvt` (R186). -/
def fcvtBody (x : RWord) : Body := markedBody (srcs1 x) fun w =>
  w.floatDst x.dst fun l =>
    let r := convertTo x.typ (w.mode x.mod l 0) (ftzOf x.mod) (w.convSrc (srcTyp x) (ftzOf x.mod) x.sa l)
    (scalarReg x.typ r.bits, r.fl)

/-- `f2i` (R187). -/
def f2iBody (x : RWord) : Body := markedBody (srcs1 x) fun w =>
  w.floatDst x.dst fun l =>
    let r := toInt x.typ (w.mode x.mod l 0) (w.convSrc (srcTyp x) (ftzOf x.mod) x.sa l)
    (scalarReg x.typ r.bits, r.fl)

/-- `i2f` (R188). -/
def i2fBody (x : RWord) : Body := markedBody (srcs1 x) fun w =>
  w.floatDst x.dst fun l =>
    let r := roundF (fmtOf x.typ) (w.mode x.mod l 0) false (ofIntF (elemInt (srcTyp x) 0 (w.src x.sa l)))
    (scalarReg x.typ r.bits, r.fl)

/-! ### The quantiser (R189 to R193) -/

/-- Bits of element `k` of a lane's part of a block: from a, and from b for f32x2 (R189). -/
def W.blockElem (w : W) (t : Typ) (a b : Opd) (lane k : Nat) : Nat :=
  if k < tyElems t then w.srcF t a lane k else w.srcF t b lane (k - tyElems t)

/-- The larger magnitude so far and whether a NaN was met. -/
def magMax (acc : FVal × Bool) (x : FVal) : FVal × Bool :=
  match x with
  | .nan _ => (acc.1, true)
  | .inf _ => (.inf false, acc.2)
  | .fin _ n d => (if orderF false acc.1 (.fin false n d) == 0 then .fin false n d else acc.1, acc.2)

/-- `qmax` (R189). -/
def qmaxBody (x : RWord) : Body :=
  markedBody (if x.typ == .f32x2 then srcs2 x else srcs1 x) fun w =>
    let n := match x.sc with | .ls i => w.lsRead i.val | _ => 32
    let vals (l : Nat) : List FVal :=
      (w.segment n l).flatMap fun j => [0, 1, 2, 3].map fun k =>
        readF (fmtOf x.typ) (ftzOf x.mod) (w.blockElem x.typ x.sa x.sb j k)
    w.floatDst x.dst fun l =>
      let m := (vals l).foldl magMax (.fin false 0 1, false)
      let nv := (vals l).any (· == .nan true)
      (scalarReg .f32 (if m.2 then fmtF32.nan else (roundF fmtF32 .rne false m.1).bits), flagIf nv fNV)

/-- `qscl` (R190): m is read as f32. -/
def qsclBody (x : RWord) : Body := markedBody (srcs1 x) fun w =>
  w.floatDst x.dst fun l =>
    let r := quantScale (x.typ == .md8) (w.srcF .f32 x.sa l 0)
    (scalarReg .s16 r.bits, r.fl)

/-- `qcvt` (R191). -/
def qcvtBody (x : RWord) : Body :=
  let u := srcTyp x
  markedBody (if u == .f32x2 then srcs3 x else [(2, x.sa), (4, x.sc)]) fun w =>
    w.floatDst x.dst fun l =>
      let s := decodeS16 ((w.src x.sc l).toNat % 65536)
      let rs := [0, 1, 2, 3].map fun k =>
        quantElem (x.typ == .md8) (w.mode x.mod l k) s
          (readF (fmtOf u) (ftzOf x.mod) (w.blockElem u x.sa x.sb l k))
      (packElems 8 (rs.map (·.bits)), flagsOf (·.fl) rs)

/-- `dqcvt` (R192). -/
def dqcvtBody (x : RWord) : Body := markedBody (srcs2 x) fun w =>
  w.floatDst x.dst fun l =>
    let s := decodeS16 ((w.src x.sb l).toNat % 65536)
    let base := if x.mod.getLsbD 5 then 2 else 0
    packRes x.typ <| (List.range (tyElems x.typ)).map fun e =>
      dequantElem (fmtOf x.typ) (srcTyp x == .md8) (w.mode x.mod l e) (ftzOf x.mod) s
        (elemBits 8 (base + e) (w.src x.sa l))

/-- `fdot2` (R193): a and b are read as U, c as f32. -/
def fdot2Body (x : RWord) : Body := markedBody (srcs3 x) fun w =>
  w.floatDst x.dst fun l =>
    let u := srcTyp x
    let z := ftzOf x.mod
    let h := if x.mod.getLsbD 5 then 2 else 0
    let mode := w.mode x.mod l 0
    let el (o : Opd) (k : Nat) : FVal := readF (fmtOf u) z (w.srcF u o l (h + k))
    let r := roundF fmtF32 mode z <| sumF mode
      [readF fmtF32 z (w.srcF .f32 x.sc l 0), mulF (el x.sa 0) (el x.sb 0), mulF (el x.sa 1) (el x.sb 1)]
    (scalarReg .f32 r.bits, r.fl)

end Sys2Proof.Machine
end

