-- ==== Sys2Proof/Machine/Float.lean ====
section
/-!
DEFINITION. The meanings of the floating, special-function and quantising words, class 0b001 (R173 to R193).
-/
namespace Sys2Proof.Machine

/-! ### Arithmetic (R177 to R180) -/

/-- `fadd` (R177). Adds floating elements with one rounding. -/
def execFadd (x : RWord) (s : State) : Res := regWord x.grd (floatBody (srcs2 x) x faddOp) s

/-- `fsub` (R177). Subtracts floating elements with one rounding. -/
def execFsub (x : RWord) (s : State) : Res := regWord x.grd (floatBody (srcs2 x) x fsubOp) s

/-- `fmul` (R177). Multiplies floating elements with one rounding. -/
def execFmul (x : RWord) (s : State) : Res := regWord x.grd (floatBody (srcs2 x) x fmulOp) s

/-- `fma` (R177). Computes a fused multiply-add with one rounding. -/
def execFma (x : RWord) (s : State) : Res := regWord x.grd (floatBody (srcs3 x) x fmaOp) s

/-- `fmin` (R178). Returns the smaller floating operand. -/
def execFmin (x : RWord) (s : State) : Res := regWord x.grd (fminmaxBody x false) s

/-- `fmax` (R178). Returns the larger floating operand. -/
def execFmax (x : RWord) (s : State) : Res := regWord x.grd (fminmaxBody x true) s

/-- `fabs` (R179). Clears the sign bit of each element. -/
def execFabs (x : RWord) (s : State) : Res := regWord x.grd (fsignBody x fun s a => a % s) s

/-- `fneg` (R179). Inverts the sign bit of each element. -/
def execFneg (x : RWord) (s : State) : Res := regWord x.grd (fsignBody x fun s a => a ^^^ s) s

/-- `fdiv` (R177). Divides floating elements with one rounding. -/
def execFdiv (x : RWord) (s : State) : Res := regWord x.grd (floatBody (srcs2 x) x fdivOp) s

/-- `fsqrt` (R177). Takes the square root with one rounding. -/
def execFsqrt (x : RWord) (s : State) : Res := regWord x.grd (fsqrtBody x) s

/-- `frnd` (R180). Rounds to an integral floating value. -/
def execFrnd (x : RWord) (s : State) : Res := regWord x.grd (frndBody x) s

/-! ### Special functions (R181) -/

/-- `frcp` (R181). Computes a correctly rounded reciprocal. -/
def execFrcp (x : RWord) (s : State) : Res := regWord x.grd (frcpBody x) s

/-- `frsq` (R181). Computes a correctly rounded reciprocal square root. -/
def execFrsq (x : RWord) (s : State) : Res := regWord x.grd (frsqBody x) s

/-- `ex2` (R181). Computes 2 to the power x. -/
def execEx2 (x : RWord) (s : State) : Res := regWord x.grd (specBody x .ex2) s

/-- `lg2` (R181). Computes log base 2. -/
def execLg2 (x : RWord) (s : State) : Res := regWord x.grd (specBody x .lg2) s

/-- `fexp` (R181). Computes e to the power x. -/
def execFexp (x : RWord) (s : State) : Res := regWord x.grd (specBody x .fexp) s

/-- `flog` (R181). Computes the natural logarithm. -/
def execFlog (x : RWord) (s : State) : Res := regWord x.grd (specBody x .flog) s

/-- `fsin` (R181). Computes the sine. -/
def execFsin (x : RWord) (s : State) : Res := regWord x.grd (specBody x .fsin) s

/-- `fcos` (R181). Computes the cosine. -/
def execFcos (x : RWord) (s : State) : Res := regWord x.grd (specBody x .fcos) s

/-- `ftanh` (R181). Computes the hyperbolic tangent. -/
def execFtanh (x : RWord) (s : State) : Res := regWord x.grd (specBody x .ftanh) s

/-- `fsigm` (R181). Computes the logistic sigmoid. -/
def execFsigm (x : RWord) (s : State) : Res := regWord x.grd (specBody x .fsigm) s

/-! ### Comparison, classification and scaling (R182 to R184) -/

/-- `fcmp` (R182). Compares floating scalars into a predicate. -/
def execFcmp (x : RWord) (s : State) : Res := regWord x.grd (fcmpBody x) s

/-- `fclass` (R183). Writes a one-hot class of a floating scalar. -/
def execFclass (x : RWord) (s : State) : Res := regWord x.grd (fclassBody x) s

/-- `flg` (R184). Extracts an exponent, or scales by a power of two with .scl. -/
def execFlg (x : RWord) (s : State) : Res := regWord x.grd (flgBody x) s

/-! ### Conversions (R185 to R188) -/

/-- `fcvt` (R186). Converts between floating, MD8 and S16 types. -/
def execFcvt (x : RWord) (s : State) : Res := regWord x.grd (fcvtBody x) s

/-- `f2i` (R187). Converts a floating, MD8 or S16 value to an integer. -/
def execF2i (x : RWord) (s : State) : Res := regWord x.grd (f2iBody x) s

/-- `i2f` (R188). Converts an integer to a floating type. -/
def execI2f (x : RWord) (s : State) : Res := regWord x.grd (i2fBody x) s

/-! ### The quantiser and the dot product (R189 to R193) -/

/-- `qmax` (R189). Finds the largest magnitude across a block of a segment. -/
def execQmax (x : RWord) (s : State) : Res := regWord x.grd (qmaxBody x) s

/-- `qscl` (R190). Chooses an S16 block scale from a magnitude. -/
def execQscl (x : RWord) (s : State) : Res := regWord x.grd (qsclBody x) s

/-- `qcvt` (R191). Quantises four elements to MD8 or I8 codes under a scale. -/
def execQcvt (x : RWord) (s : State) : Res := regWord x.grd (qcvtBody x) s

/-- `dqcvt` (R192). Decodes MD8 or I8 codes to floating elements under a scale. -/
def execDqcvt (x : RWord) (s : State) : Res := regWord x.grd (dqcvtBody x) s

/-- `fdot2` (R193). Computes a two-term dot product plus addend with one rounding. -/
def execFdot2 (x : RWord) (s : State) : Res := regWord x.grd (fdot2Body x) s

end Sys2Proof.Machine
end

