-- ==== Sys2Proof/Machine/IntBody.lean ====
section
/-!
DEFINITION. Bodies of class 0b000: the effect of each integer, address and predicate word on its window (R154 to R172).
-/
namespace Sys2Proof.Machine

/-- `.sat` of MOD 3 (R47). -/
def satOf (m : BitVec 6) : Bool := m.getLsbD 3

/-- An element-by-element arithmetic word (R152). -/
def arithBody (x : RWord) (op : Int → Int → Int → Int) : Body := pureBody fun w =>
  w.intDst x.dst fun l => elementwise x.typ (satOf x.mod) op
    (w.srcT x.typ x.sa l) (w.srcT x.typ x.sb l) (w.srcT x.typ x.sc l)

/-- A word that maps up to three source registers to one result. An immediate of a packed type repeats in every element here too
(R45, R160). (DEDUCED, log entry 26) -/
def regBody (x : RWord) (f : Reg → Reg → Reg → Reg) : Body := pureBody fun w =>
  w.dst x.dst fun l => f (w.srcT x.typ x.sa l) (w.srcT x.typ x.sb l) (w.srcT x.typ x.sc l)

/-- A word whose sources are all read as 64-bit registers. -/
def rawBody (x : RWord) (f : Reg → Reg → Reg → Reg) : Body := pureBody fun w =>
  w.dst x.dst fun l => f (w.src x.sa l) (w.src x.sb l) (w.src x.sc l)

/-- A word that maps its sources to a result that may saturate. -/
def satBody (x : RWord) (f : Reg → Reg → Reg → IntRes) : Body := pureBody fun w =>
  w.intDst x.dst fun l => f (w.src x.sa l) (w.src x.sb l) (w.src x.sc l)

/-- `mov` (R154): an immediate of a packed floating or MD8 type is its sign-extended 64 bits. -/
def movBody (x : RWord) : Body := regBody x fun a _ _ => moveReg x.typ a

/-- `movi` (R155). -/
def moviBody (x : IWord) : Body := pureBody fun w =>
  w.dst x.dst fun l =>
    if x.mod == 0 then
      scalarReg x.typ (if tI x.typ then (x.imm.signExtend 64).toNat else x.imm.toNat)
    else x.imm ++ ((w.src x.dst l).extractLsb' 0 32)

/-- `sel` (R156). -/
def selBody (x : RWord) : Body := pureBody fun w =>
  w.dst x.dst fun l => moveReg x.typ (if w.predSrc x.sc l then w.srcT x.typ x.sa l else w.srcT x.typ x.sb l)

/-- `sad` (R158): the addend of a packed type is read as n64. -/
def sadBody (x : RWord) : Body := pureBody fun w =>
  w.dst x.dst fun l => sad x.typ (w.srcT x.typ x.sa l) (w.srcT x.typ x.sb l) (w.src x.sc l)

/-- `swz` (R165): the pattern is the whole register. -/
def swzBody (x : RWord) : Body := pureBody fun w =>
  w.dst x.dst fun l => swz x.typ (w.srcT x.typ x.sa l) (w.src x.sb l)

/-- An immediate of `pack` in every element of width 2w (R45, R166). -/
def W.srcWide (w : W) (t : Typ) (o : Opd) (lane : Nat) : Reg :=
  match o with
  | .imm x => packElems (2 * tyWidth t) (List.replicate (tyElems t / 2) (x.signExtend 64).toNat)
  | o => w.src o lane

/-- `pack` (R166). -/
def packBody (x : RWord) : Body := pureBody fun w =>
  w.intDst x.dst fun l => packNarrow x.typ (satOf x.mod) (w.srcWide x.typ x.sa l) (w.srcWide x.typ x.sb l)

/-- `lea` (R167). -/
def leaBody (x : IWord) : Body := pureBody fun w =>
  w.dst x.dst fun l =>
    lea x.typ (x.mod.getLsbD 0) (fieldOf x.aux6.toNat 0 3) (w.src x.sa l) (w.src x.sb l) x.imm

/-- The combine of a compare with a predicate (R168, R182). -/
def combine (w : W) (m : BitVec 6) (q : Opd) (lane : Nat) (c : Bool) : Bool :=
  match modField m 4 2 with
  | 1 => c && w.predSrc q lane
  | 2 => c || w.predSrc q lane
  | _ => c

/-- `cmp` (R168). -/
def cmpBody (x : RWord) : Body := pureBody fun w =>
  w.dstPred x.dst fun l => combine w x.mod x.sc l <|
    intCompare (modField x.mod 0 3) (elemInt x.typ 0 (w.srcT x.typ x.sa l)) (elemInt x.typ 0 (w.srcT x.typ x.sb l))

/-- `cvt` (R170). -/
def cvtBody (x : RWord) : Body :=
  satBody x fun a _ _ => cvtInt x.typ ((auxTyp x.aux).getD .i8) (satOf x.mod) a

/-- `pand`, `por` and `pxor` (R171). -/
def plogicBody (x : RWord) (op : Bool → Bool → Bool) : Body := pureBody fun w =>
  w.dstPred x.dst fun l => op (w.predSrc x.sa l != x.mod.getLsbD 0) (w.predSrc x.sb l != x.mod.getLsbD 1)

/-- `pnot` (R171). -/
def pnotBody (x : RWord) : Body := pureBody fun w => w.dstPred x.dst fun l => !w.predSrc x.sa l

/-- `pmov` (R172). -/
def pmovBody (x : RWord) : Body := pureBody fun w =>
  if x.mod == 0 then
    match x.sa with
    | .p i =>
      if oPz x.dst && !oD x.dst then w.dstPred x.dst fun l => w.grp.pred l i.val
      else w.dst x.dst fun l => if w.grp.pred l i.val then 1 else 0
    | sa => w.dstPred x.dst fun l => (w.src sa l).getLsbD 0
  else
    match x.sa with
    | .p _ => w.dst x.dst fun l => (w.grp.predBits l).zeroExtend 64
    | sa =>
      let vals := w.act.map fun l => (l, w.src sa l)
      vals.foldl (fun w' e => w'.predBitsWrite e.1 (e.2.extractLsb' 0 8)) w

end Sys2Proof.Machine
end

