-- ==== Sys2Proof/Machine/Int.lean ====
section
/-!
DEFINITION. The meanings of the integer, address and predicate words, class 0b000 (R150 to R172).
-/
namespace Sys2Proof.Machine

/-! ### Moves and selection (R154 to R156) -/

/-- `mov` (R154). Copies a source into a destination at the width of the type. -/
def execMov (x : RWord) (s : State) : Res := regWord x.grd (movBody x) s

/-- `movi` (R155). Writes a 32-bit immediate into a register, or into its upper half with .hi. -/
def execMovi (x : IWord) (s : State) : Res := regWord x.grd (moviBody x) s

/-- `sel` (R156). Chooses one of two sources by a predicate. -/
def execSel (x : RWord) (s : State) : Res := regWord x.grd (selBody x) s

/-! ### Arithmetic (R157 to R159) -/

/-- `add` (R157). Adds integer elements, wrapping or saturating. -/
def execAdd (x : RWord) (s : State) : Res := regWord x.grd (arithBody x opAdd) s

/-- `sub` (R157). Subtracts integer elements, wrapping or saturating. -/
def execSub (x : RWord) (s : State) : Res := regWord x.grd (arithBody x opSub) s

/-- `neg` (R157). Negates integer elements. -/
def execNeg (x : RWord) (s : State) : Res := regWord x.grd (arithBody x opNeg) s

/-- `abs` (R157). Takes the absolute value of integer elements. -/
def execAbs (x : RWord) (s : State) : Res := regWord x.grd (arithBody x opAbs) s

/-- `min` (R157). Takes the smaller of two integer elements. -/
def execMin (x : RWord) (s : State) : Res := regWord x.grd (arithBody x opMin) s

/-- `max` (R157). Takes the larger of two integer elements. -/
def execMax (x : RWord) (s : State) : Res := regWord x.grd (arithBody x opMax) s

/-- `mul` (R157). Multiplies integer elements and keeps the low bits or saturates. -/
def execMul (x : RWord) (s : State) : Res := regWord x.grd (arithBody x opMul) s

/-- `mulhi` (R157). Writes the high half of an integer product. -/
def execMulhi (x : RWord) (s : State) : Res := regWord x.grd (arithBody x (opMulhi (tyWidth x.typ))) s

/-- `mad` (R157). Computes a product plus an addend with one fit. -/
def execMad (x : RWord) (s : State) : Res := regWord x.grd (arithBody x opMad) s

/-- `madw` (R158). Computes a widening multiply-add. -/
def execMadw (x : RWord) (s : State) : Res := regWord x.grd (satBody x fun a b c => madw x.typ (satOf x.mod) a b c) s

/-- `div` (R159). Computes a truncating integer quotient with defined division-by-zero results. -/
def execDiv (x : RWord) (s : State) : Res := regWord x.grd (rawBody x fun a b _ => scalarReg x.typ (divRem x.typ a b).1) s

/-- `rem` (R159). Computes an integer remainder with defined edge cases. -/
def execRem (x : RWord) (s : State) : Res := regWord x.grd (rawBody x fun a b _ => scalarReg x.typ (divRem x.typ a b).2) s

/-- `sad` (R158). Adds absolute differences to an accumulator. -/
def execSad (x : RWord) (s : State) : Res := regWord x.grd (sadBody x) s

/-- `dot4` (R158). Adds a four-byte dot product to an accumulator. -/
def execDot4 (x : RWord) (s : State) : Res := regWord x.grd (satBody x fun a b c => dot4 x.typ (satOf x.mod) a b c) s

/-! ### Bitwise logic and shifts (R160, R161) -/

/-- `and` (R160). Computes a bitwise and. -/
def execAnd (x : RWord) (s : State) : Res := regWord x.grd (regBody x fun a b _ => logicReg x.typ (a &&& b)) s

/-- `or` (R160). Computes a bitwise or. -/
def execOr (x : RWord) (s : State) : Res := regWord x.grd (regBody x fun a b _ => logicReg x.typ (a ||| b)) s

/-- `xor` (R160). Computes a bitwise exclusive or. -/
def execXor (x : RWord) (s : State) : Res := regWord x.grd (regBody x fun a b _ => logicReg x.typ (a ^^^ b)) s

/-- `not` (R160). Computes a bitwise complement. -/
def execNot (x : RWord) (s : State) : Res := regWord x.grd (regBody x fun a _ _ => logicReg x.typ (~~~a)) s

/-- `andn` (R160). Computes a and not b. -/
def execAndn (x : RWord) (s : State) : Res := regWord x.grd (regBody x fun a b _ => logicReg x.typ (a &&& ~~~b)) s

/-- `shl` (R161). Shifts left by an unsigned amount. -/
def execShl (x : RWord) (s : State) : Res := regWord x.grd (regBody x fun a b _ => shiftReg 0 x.typ a b) s

/-- `shr` (R161). Shifts right logically by an unsigned amount. -/
def execShr (x : RWord) (s : State) : Res := regWord x.grd (regBody x fun a b _ => shiftReg 1 x.typ a b) s

/-- `sar` (R161). Shifts right arithmetically by an unsigned amount. -/
def execSar (x : RWord) (s : State) : Res := regWord x.grd (regBody x fun a b _ => shiftReg 2 x.typ a b) s

/-- `rot` (R161). Rotates left by the amount modulo the width. -/
def execRot (x : RWord) (s : State) : Res := regWord x.grd (regBody x fun a b _ => shiftReg 3 x.typ a b) s

/-! ### Bit fields and counts (R162, R163) -/

/-- `bfx` (R162). Extracts a bit field. -/
def execBfx (x : RWord) (s : State) : Res := regWord x.grd (rawBody x fun a b _ => bfx x.typ a b) s

/-- `bfi` (R162). Inserts a bit field. -/
def execBfi (x : RWord) (s : State) : Res := regWord x.grd (rawBody x fun a b c => bfi x.typ a b c) s

/-- `popc` (R163). Counts the one bits of each element. -/
def execPopc (x : RWord) (s : State) : Res := regWord x.grd (regBody x fun a _ _ => mapElems popcount x.typ a) s

/-- `clz` (R163). Counts leading zero bits of each element. -/
def execClz (x : RWord) (s : State) : Res := regWord x.grd (regBody x fun a _ _ => mapElems countLeading x.typ a) s

/-- `ctz` (R163). Counts trailing zero bits of each element. -/
def execCtz (x : RWord) (s : State) : Res := regWord x.grd (regBody x fun a _ _ => mapElems countTrailing x.typ a) s

/-- `brev` (R163). Reverses the bits of each element. -/
def execBrev (x : RWord) (s : State) : Res := regWord x.grd (regBody x fun a _ _ => mapElems reverseBits x.typ a) s

/-! ### Rearranging bytes and elements (R164 to R166) -/

/-- `perm` (R164). Selects eight bytes out of sixteen by a selector. -/
def execPerm (x : RWord) (s : State) : Res := regWord x.grd (rawBody x perm) s

/-- `swz` (R165). Rearranges the elements of a packed value by a pattern. -/
def execSwz (x : RWord) (s : State) : Res := regWord x.grd (swzBody x) s

/-- `pack` (R166). Narrows two packed values into one. -/
def execPack (x : RWord) (s : State) : Res := regWord x.grd (packBody x) s

/-- `unpk` (R166). Widens half of a packed value. -/
def execUnpk (x : RWord) (s : State) : Res := regWord x.grd (regBody x fun a _ _ => unpackWiden x.typ (x.mod.getLsbD 0) a) s

/-! ### Addresses, comparisons and conversion (R167 to R170) -/

/-- `lea` (R167). Computes base plus scaled index plus displacement. -/
def execLea (x : IWord) (s : State) : Res := regWord x.grd (leaBody x) s

/-- `cmp` (R168). Compares integers into a predicate, optionally combined. -/
def execCmp (x : RWord) (s : State) : Res := regWord x.grd (cmpBody x) s

/-- `cmpv` (R169). Compares elements into an all-ones or zero mask. -/
def execCmpv (x : RWord) (s : State) : Res := regWord x.grd (regBody x fun a b _ => cmpv x.typ (modField x.mod 0 3) a b) s

/-- `cvt` (R170). Converts between integer types, wrapping or saturating. -/
def execCvt (x : RWord) (s : State) : Res := regWord x.grd (cvtBody x) s

/-! ### Predicate logic (R171, R172) -/

/-- `pand` (R171). Computes the and of two predicates. -/
def execPand (x : RWord) (s : State) : Res := regWord x.grd (plogicBody x (· && ·)) s

/-- `por` (R171). Computes the or of two predicates. -/
def execPor (x : RWord) (s : State) : Res := regWord x.grd (plogicBody x (· || ·)) s

/-- `pxor` (R171). Computes the exclusive or of two predicates. -/
def execPxor (x : RWord) (s : State) : Res := regWord x.grd (plogicBody x (· != ·)) s

/-- `pnot` (R171). Inverts a predicate. -/
def execPnot (x : RWord) (s : State) : Res := regWord x.grd (pnotBody x) s

/-- `pmov` (R172). Moves between predicates and registers. -/
def execPmov (x : RWord) (s : State) : Res := regWord x.grd (pmovBody x) s

end Sys2Proof.Machine
end

