-- ==== Sys2Proof/Machine/GroupBody.lean ====
section
/-!
DEFINITION. Bodies of class 0b011: the words that act among the active lanes of a segment (R141 to R148).
-/
namespace Sys2Proof.Machine

/-- The segment size a lane-set operand names (R141). -/
def W.seg (w : W) (o : Opd) : Nat := match o with | .ls i => w.lsRead i.val | _ => 32

/-- Write a lane-set register: at once for the thread set, for others at the commit (R141). -/
def W.lsWrite (w : W) (o : Opd) (n : Nat) : W :=
  match o with
  | .ls i => { w with ts := { w.ts with lsOv := (i.val, n) :: w.ts.lsOv } }
  | _ => w

/-- `lsplit` (R144). -/
def lsplitBody (x : RWord) : Body := pureBody fun w =>
  w.lsWrite x.dst (min (w.seg x.sa) (match x.sb with | .imm k => k.toNat | _ => 32))

/-- `lsjoin` (R144). -/
def lsjoinBody (x : RWord) : Body := pureBody fun w => w.lsWrite x.dst (max (w.seg x.sa) (w.seg x.sb))

/-- A mask as a register (R145). -/
def maskReg (ls : List Nat) : Reg := BitVec.ofNat 64 (laneMask ls)

/-- `vote` (R145). -/
def voteBody (x : RWord) : Body := pureBody fun w =>
  w.dstPred x.dst fun l =>
    let ps := (w.segment (w.seg x.sb) l).map fun j => w.predSrc x.sa j
    match modField x.mod 0 2 with
    | 0 => ps.all id
    | 1 => ps.any id
    | _ => ps.all id || ps.all (!·)

/-- `ballot` (R145). -/
def ballotBody (x : RWord) : Body := pureBody fun w =>
  w.dst x.dst fun l => maskReg ((w.segment (w.seg x.sb) l).filter fun j => w.predSrc x.sa j)

/-- `match` (R145). -/
def matchBody (x : RWord) : Body := pureBody fun w =>
  let key (l : Nat) := elemBits (tyWidth x.typ) 0 (w.src x.sa l)
  w.dst x.dst fun l => maskReg ((w.segment (w.seg x.sb) l).filter fun j => key j == key l)

/-- `elect` (R145). -/
def electBody (x : RWord) : Body := pureBody fun w =>
  w.dstPred x.dst fun l => (w.segment (w.seg x.sa) l).head? == some l

/-- `lmask` (R145). -/
def lmaskBody (x : RWord) : Body := pureBody fun w =>
  let n := w.seg x.sa
  w.dst x.dst fun l =>
    match modField x.mod 0 2 with
    | 0 => maskReg (w.segment n l)
    | 1 => maskReg (w.ts.lanes.filter fun j => j / n == l / n)
    | _ => maskReg (lanes32.filter fun j => j / n == l / n && !w.grp.exited.contains j)

/-- The source position of element `P` moved by `d` (R146). -/
def shflPos (mode n e P d : Nat) : Int :=
  match mode with
  | 0 => ((d % (n * e) : Nat) : Int)
  | 1 => (P : Int) - d
  | 2 => ((P + d : Nat) : Int)
  | _ => ((P ^^^ d : Nat) : Int)

/-- `shfl` (R146). -/
def shflBody (x : RWord) : Body := pureBody fun w =>
  let wd := tyWidth x.typ
  let ne := 64 / wd
  let n := w.seg x.sc
  w.dst x.dst fun l => packElems wd <| (List.range ne).map fun e =>
    let base := l - l % n
    let d := match x.sb with
      | .imm k => wrapBits wd (immVal k)
      | o => elemBits wd e (w.src o l)
    let q := shflPos (modField x.mod 0 2) n ne ((l - base) * ne + e) d
    let j := base + (q / ne).toNat
    if q < 0 ∨ (n * ne : Nat) ≤ q ∨ !w.active j then elemBits wd e (w.src x.sa l)
    else elemBits wd (q % ne).toNat (w.src x.sa j)

/-- `bcast` (R147): k is a uniform register or an immediate. -/
def bcastBody (x : RWord) : Body := pureBody fun w =>
  let n := w.seg x.sc
  w.dst x.dst fun l =>
    let j := l - l % n + (w.src x.sb l).toNat % n
    if w.active j then w.src x.sa j else w.src x.sa ((w.segment n l).headD l)

/-- `rdfl` (R147). -/
def rdflBody (x : RWord) : Body := pureBody fun w =>
  w.dst x.dst fun l => w.src x.sa ((w.segment (w.seg x.sb) l).headD l)

/-- Identity of an operation on a type, as element bits (R148). -/
def redIdentity (op : Nat) (t : Typ) : Nat :=
  let f := fmtOf t
  if tF t then (match op with | 0 => f.signBit | 1 => f.infBits | _ => f.signBit + f.infBits)
  else match op with
    | 0 => 0
    | 1 => wrapBits (tyWidth t) (tyHi t)
    | 2 => wrapBits (tyWidth t) (tyLo t)
    | 3 => 2 ^ tyWidth t - 1
    | _ => 0

/-- One step of `gred` and `gscan` on element bits (R148). -/
def redStep (op : Nat) (t : Typ) (sat : Bool) (acc b : Nat) : FRes :=
  let w := tyWidth t
  if tF t then
    let f := fmtOf t
    match op with
    | 0 => roundF f .rne false (sumF .rne [readF f false acc, readF f false b])
    | 1 => minmaxF f false false acc b
    | _ => minmaxF f true false acc b
  else
    let x := intOf (tySigned t) w acc
    let y := intOf (tySigned t) w b
    match op with
    | 0 => let r := fit t sat (x + y); ⟨r.1, flagIf r.2 fSAT⟩
    | 1 => ⟨if x ≤ y then acc else b, 0⟩
    | 2 => ⟨if x ≤ y then b else acc, 0⟩
    | 3 => ⟨acc &&& b, 0⟩
    | 4 => ⟨acc ||| b, 0⟩
    | _ => ⟨acc ^^^ b, 0⟩

/-- The running values of a segment: for each lane the value before and after its step, and the flags raised. -/
def scanSeg (op : Nat) (t : Typ) (sat : Bool) : List (Nat × Nat) → Nat → List (Nat × Nat × Nat × Flags)
  | [], _ => []
  | (l, b) :: rest, acc =>
    let r := redStep op t sat acc b
    (l, acc, r.bits, r.fl) :: scanSeg op t sat rest r.bits

/-- The running values of the segment that holds a lane. -/
def W.scanOf (w : W) (x : RWord) (lane : Nat) : List (Nat × Nat × Nat × Flags) :=
  let op := modField x.mod 0 3
  scanSeg op x.typ (x.mod.getLsbD 3)
    ((w.segment (w.seg x.sb) lane).map fun j => (j, elemBits (tyWidth x.typ) 0 (w.src x.sa j)))
    (redIdentity op x.typ)

/-- `gred` (R148). -/
def gredBody (x : RWord) : Body := pureBody fun w =>
  w.floatDst x.dst fun l =>
    let rs := w.scanOf x l
    (scalarReg x.typ ((rs.getLast?.map fun r => r.2.2.1).getD (redIdentity (modField x.mod 0 3) x.typ)),
      flagsOf (fun r => r.2.2.2) rs)

/-- `gscan` (R148). -/
def gscanBody (x : RWord) : Body := pureBody fun w =>
  w.floatDst x.dst fun l =>
    let rs := w.scanOf x l
    (scalarReg x.typ (((rs.find? fun r => r.1 == l).map fun r =>
        if x.mod.getLsbD 5 then r.2.1 else r.2.2.1).getD 0),
      flagsOf (fun r => r.2.2.2) rs)

end Sys2Proof.Machine
end

