-- ==== Sys2Proof/Machine/LaneSets.lean ====
section
/-!
DEFINITION. The meanings of the lane-set words, class 0b011 (R141 to R149).
-/
namespace Sys2Proof.Machine

/-- `lsplit` (R144). Narrows a lane-set segment size. -/
def execLsplit (x : RWord) (s : State) : Res := regWord x.grd (lsplitBody x) s

/-- `lsjoin` (R144). Widens a lane-set segment size. -/
def execLsjoin (x : RWord) (s : State) : Res := regWord x.grd (lsjoinBody x) s

/-- `vote` (R145). Combines predicates across the active lanes of a segment. -/
def execVote (x : RWord) (s : State) : Res := regWord x.grd (voteBody x) s

/-- `ballot` (R145). Gathers a predicate mask across a segment. -/
def execBallot (x : RWord) (s : State) : Res := regWord x.grd (ballotBody x) s

/-- `shfl` (R146). Moves elements between lanes of a segment. -/
def execShfl (x : RWord) (s : State) : Res := regWord x.grd (shflBody x) s

/-- `bcast` (R147). Broadcasts one lane's value within a segment. -/
def execBcast (x : RWord) (s : State) : Res := regWord x.grd (bcastBody x) s

/-- `gred` (R148). Reduces a segment's values in lane order. -/
def execGred (x : RWord) (s : State) : Res := regWord x.grd (gredBody x) s

/-- `gscan` (R148). Scans a segment's values in lane order. -/
def execGscan (x : RWord) (s : State) : Res := regWord x.grd (gscanBody x) s

/-- `match` (R145). Masks the lanes holding an equal value. -/
def execMatchEq (x : RWord) (s : State) : Res := regWord x.grd (matchBody x) s

/-- `elect` (R145). Selects the lowest active lane of each segment. -/
def execElect (x : RWord) (s : State) : Res := regWord x.grd (electBody x) s

/-- `lmask` (R145). Reads the active, issuing or live lane mask. -/
def execLmask (x : RWord) (s : State) : Res := regWord x.grd (lmaskBody x) s

/-- `rdfl` (R147). Reads the value of the lowest active lane of each segment. -/
def execRdfl (x : RWord) (s : State) : Res := regWord x.grd (rdflBody x) s

/-! ### Meeting at `lsync` (R149) -/

/-- Lane-set register of an operand. -/
def lsNo (o : Opd) : Nat := match o with | .ls i => i.val | _ => 0

/-- Lanes of a set that its word at the PC is active for. -/
def State.wordLanes (s : State) (t : Team) (g : Group) (ts : TSet) : List Nat :=
  match (s.kernelOf t).text[ts.pc]? with
  | some w => activeLanes g ts (w.extractLsb' 98 4)
  | none => []

/-- The lanes of a set that its word, an `lsync`, has not released in this run: a release outlasts the discard of the run, as by a
swap (R149). -/
def TSet.unmet (ts : TSet) (lanes : List Nat) : List Nat := lanes.filter fun l => !ts.freed.contains (ts.pc, l)

/-- The sets of a group that wait at an `lsync` on a register, each with its active lanes; lanes that the word has released once
in this run wait no more (R149). (DEDUCED, log entry 32) -/
def State.meeting (s : State) (t : Team) (g : Group) (ls : Nat) : List (TSet × List Nat) :=
  (g.tsets.filter fun ts => ts.phase == .parked (.lsync ls)).map fun ts => (ts, ts.unmet (s.wordLanes t g ts))

/-- Every non-exited lane of the segments that hold a waiting set's active lanes has reached the `lsync`: it waits there now, or has
met the set at this word and gone on, or is a lane of the set that the word has released. (DEDUCED, log entry 32) -/
def State.met (s : State) (t : Team) (g : Group) (ls : Nat) (x : TSet × List Nat) : Bool :=
  let n := (s.window t g x.1 x.2).lsRead ls
  let here := ((s.meeting t g ls).flatMap (·.2)) ++ (x.1.met ++ x.1.freed).filterMap fun e => if e.1 = x.1.pc then some e.2 else none
  lanes32.all fun l => g.exited.contains l || here.contains l || !(x.2.any fun j => j / n == l / n)

/-- Release every set of a group whose wait at an `lsync` on a register has ended; from then on it reads the flags
committed so far, and the sets that wait on remember the lanes that went. (DEDUCED, log entry 32) -/
def State.lsyncGo (s : State) (team group ls : Nat) : State :=
  match s.team? team with
  | none => s
  | some t =>
    match t.group? group with
    | none => s
    | some g =>
      let go := (s.meeting t g ls).filter fun x => !x.1.stop && s.met t g ls x
      let gone := go.flatMap (·.2)
      let step (ts : TSet) : TSet :=
        if go.any fun x => x.1.id == ts.id then
          { ts.advance s.clk with fl0 := g.fflg, freed := (s.wordLanes t g ts).map (fun l => (ts.pc, l)) ++ ts.freed }
        else if ts.phase = .parked (.lsync ls) then { ts with met := gone.map (fun l => (ts.pc, l)) ++ ts.met } else ts
      if go = [] then s else s.onGroup team group fun y => { y with tsets := y.tsets.map step }

/-- `lsync` (R149): the set parks, and goes on with the others once all have met. -/
def execLsync (x : RWord) (s : State) : Res :=
  match liftWord x.grd (fun s _ w => .wait s w (.lsync (lsNo x.sa))) s with
  | .next s1 => .next (match s.cur with | some c => s1.lsyncGo c.1 c.2.1 (lsNo x.sa) | none => s1)
  | r => r

/-- LSYNC_RELEASE: the last lane that others waited for has reached the `lsync` or exited (R149).
(DEDUCED, log entry 32) -/
def execLsyncRelease (team group : Nat) (ls : Fin 8) (s : State) : Res := .next (s.lsyncGo team group ls.val)

end Sys2Proof.Machine
end

