-- ==== Sys2Proof/Machine/NestWords.lean ====
section
/-!
DEFINITION. The meanings of the nest and accumulator words, class 0b100 OPC 0x200 to 0x209 (R263 to R277).
-/
namespace Sys2Proof.Machine

/-- Field id of an nx operand. -/
def nxNo (o : Opd) : Nat := match o with | .nx i => i.val | _ => 0
/-- Tile number of an accumulator operand. -/
def accNo (o : Opd) : Nat := match o with | .a i => i.val | _ => 0

/-! ### The nest table (R272 to R274) -/

/-- `mxset` (R272): at the commit, bits 31:0 of the lowest lane's value. -/
def execMxset (x : RWord) (s : State) : Res := liftWord x.grd (fun s _ w =>
  .go s (w.hold (.mxset (nxNo x.sb) ((w.srcLow x.sa).extractLsb' 0 32)))) s

/-- `mxseti` (R272). -/
def execMxseti (x : IWord) (s : State) : Res := liftWord x.grd (fun s _ w =>
  .go s (w.hold (.mxset (nxNo x.sb) x.imm))) s

/-- `mxgo` (R266, R272): checked at the word, and again when the run commits. -/
def execMxgo (x : RWord) (s : State) : Res := liftWord x.grd (fun s t w =>
  let tc := s.tcore t w.grp.index
  match s.mxCheck t tc (shadowAfter (t.nest tc).shadow w.ts.held) with
  | some d => .err { code := 11, lane := w.low, detail := d }
  | none => .go s (w.hold .mxgo)) s

/-- `mxab` (R273): at the commit. -/
def execMxab (x : RWord) (s : State) : Res := liftWord x.grd (fun s _ w => .go s (w.hold .mxab)) s

/-- The status word of a core's nest engine (R274). -/
def State.nestWord (s : State) (t : Team) (tc : Nat) : Nat :=
  let n := t.nest tc
  let run := match n.active with | none => 0 | some _ => if s.operandsReady (t.id, tc) then 1 else 2
  let gang := match n.active with | some a => a.gang | none => false
  n.kb % 2 ^ 32 * 2 ^ 32 + bitOf n.abt * 16 + bitOf n.armed.isSome * 8 + bitOf gang * 4 + run

/-- `mxst` (R274). -/
def execMxst (x : RWord) (s : State) : Res := liftWord x.grd (fun s t w =>
  let tc := s.tcore t w.grp.index
  let v := if x.mod.getLsbD 0 then nx (t.nest tc).shadow (nxNo x.sb) else s.nestWord t tc
  .go s (w.dst x.dst fun _ => BitVec.ofNat 64 v)) s

/-! ### Accumulator tiles (R275 to R277) -/

/-- Fault of an accumulator index: out of the tile ADDR, odd for a pair ALIGN (R275). -/
def accIndexFault (typ : Typ) (idx : Nat) : Option FInfo :=
  let pair := typ == .f32x2
  if (if pair then 16383 else 16384) ≤ idx then some { code := 3, addr := idx }
  else if pair ∧ idx % 2 = 1 then some { code := 6, addr := idx } else none

/-- The lowest lane's fault among the indices of a word. -/
def W.accFault (w : W) (typ : Typ) (o : Opd) : Option FInfo :=
  w.act.findSome? fun l => (accIndexFault typ (w.src o l).toNat).map fun e => { e with lane := l }

/-- An element as a lane reads it: the thread set's own held writes first; in a tile of the running or the armed nest, a free
choice for the lane among the values the element held since that nest's `mxgo` commit (R3, R275). -/
def Nest.read (n : Nest) (held : List Held) (draw lane tile idx : Nat) : BitVec 32 :=
  let own := held.findSome? fun h =>
    match h.act with
    | .acst t i b => if t = tile ∧ i = idx then some b else none
    | .acclr t => if t = tile then some 0 else none
    | _ => none
  match own with
  | some b => b
  | none =>
    let now := n.elem tile idx
    let k := 16384 * tile + idx
    if n.busyTile tile then
      let olds := aget [] (if inTiles n.active tile then n.hist else n.histA) k
      choose (Config.freePick draw (32 * k + lane)) now (now :: olds)
    else now

/-- `acld` (R275). -/
def execAcld (x : RWord) (s : State) : Res := liftWord x.grd (fun s t w =>
  match w.accFault x.typ x.sb with
  | some e => .err e
  | none =>
    let n := t.nest (s.tcore t w.grp.index)
    let el (l i : Nat) : Nat := (n.read w.ts.held s.free l (accNo x.sa) i).toNat
    .go { s with free := s.free + 1 } (w.dst x.dst fun l =>
      let i := (w.src x.sb l).toNat
      if x.typ == .f32x2 then packElems 32 [el l i, el l (i + 1)] else scalarReg .f32 (el l i))) s

/-- `acst` (R275): one act for each lane and element, performed at the commit. -/
def execAcst (x : RWord) (s : State) : Res := liftWord x.grd (fun s t w =>
  match w.accFault x.typ x.sb with
  | some e => .err e
  | none =>
    let tile := accNo x.sa
    if (t.nest (s.tcore t w.grp.index)).busyTile tile then .err { code := 11, lane := w.low, detail := 12 }
    else
      .go s (w.act.foldl (fun v l =>
        let i := (w.src x.sb l).toNat
        let d := w.src x.sc l
        let hold1 := v.hold (.acst tile i (d.extractLsb' 0 32))
        if x.typ == .f32x2 then hold1.hold (.acst tile (i + 1) (d.extractLsb' 32 32)) else hold1) w)) s

/-- `acclr` (R275): at the commit. -/
def execAcclr (x : RWord) (s : State) : Res := liftWord x.grd (fun s t w =>
  if (t.nest (s.tcore t w.grp.index)).busyTile (accNo x.sa) then .err { code := 11, lane := w.low, detail := 12 }
  else .go s (w.hold (.acclr (accNo x.sa)))) s

/-- `acflg` (R276): reads the flags, and at the commit clears those it read. -/
def execAcflg (x : RWord) (s : State) : Res := liftWord x.grd (fun s t w =>
  let fl := aget 0 (t.nest (s.tcore t w.grp.index)).flags (accNo x.sa)
  .go s ((w.dst x.dst fun _ => BitVec.ofNat 64 fl).hold (.acflg (accNo x.sa) fl))) s

/-- `acred` (R277): from the commit. -/
def execAcred (x : RWord) (s : State) : Res := liftWord x.grd (fun s t w =>
  if (s.kernelOf t).gang = 0 then .err { code := 11, lane := w.low, detail := 10 }
  else if (t.nest (s.tcore t w.grp.index)).busyTile (accNo x.sa) then .err { code := 11, lane := w.low, detail := 12 }
  else .go s (w.hold (.acred (sigOpd x.dst) (accNo x.sa) (accNo x.sb)))) s

end Sys2Proof.Machine
end

