-- ==== Sys2Proof/Machine/Net.lean ====
section
/-!
DEFINITION. The meanings of the transport words, class 0b100 OPC 0x300 to 0x302 (R316 to R324).
-/
namespace Sys2Proof.Machine

/-- The endpoint a handle names, when the handle is valid for a context (R316). -/
def State.endpoint? (s : State) (ctx h : Nat) : Option Nat :=
  let i := fieldOf h 0 16
  let e := s.ep i
  if h < 2 ^ 32 ∧ i < 16384 ∧ e.gen.toNat = fieldOf h 16 16 ∧ e.ctx = ctx ∧ (e.state = 1 ∨ e.state = 2) then some i else none

/-- A message's operands, from the lowest active lane (R319). -/
def W.msgArgs (w : W) (x : RWord) (ep : Nat) : MsgArgs :=
  let kind := nsKind x.aux
  { kind := kind
    sig := sigOpd x.dst
    ep := ep
    gen := fieldOf (w.srcLow x.sa).toNat 16 16
    dst := (w.srcLow x.sb).toNat
    srcS := fieldOf x.aux.toNat 0 2 == 1
    src := if kind = 2 then 0 else (w.srcLow x.sc).toNat
    len := if kind = 2 then 0 else (w.srcLow (opdPlus x.sc 1)).toNat
    rel := x.mod.getLsbD 4
    ord := x.mod.getLsbD 5 }

/-- Step 2 of R319: the length, or the bits of a barrier destination. -/
def MsgArgs.shapeOk (a : MsgArgs) : Bool :=
  match a.kind with
  | 0 => decide (1 ≤ a.len) && decide (a.len ≤ 2 ^ 30)
  | 1 => decide (512 ≤ a.len) && decide (a.len ≤ 2 ^ 30) && a.len % 512 == 0
  | _ => a.dst == fieldOf a.dst 25 16 * 2 ^ 25 + fieldOf a.dst 0 4

/-- A scratch source's banks: the first offset held in CACHE mode. -/
def Team.cachedIn (t : Team) (off len : Nat) : Option Nat :=
  (List.range ((off % 512 + len + 511) / 512)).findSome? fun k =>
    let o := if k = 0 then off else off / 512 * 512 + 512 * k
    if t.inCache o then some o else none

/-- The checks of R319 after the handle's. -/
def State.msgCheck (s : State) (t : Team) (a : MsgArgs) : Option FInfo :=
  if !a.shapeOk then some { code := 11, detail := 20 }
  else if a.kind = 1 ∧ a.dst % 512 ≠ 0 then some { code := 6, addr := a.dst }
  else if a.kind = 1 ∧ a.src % 512 ≠ 0 then some { code := 6, addr := a.src }
  else if a.kind ≠ 2 ∧ a.srcS then
    if (s.kernelOf t).scratch < a.src + a.len then some { code := 3, addr := a.src }
    else (t.cachedIn a.src a.len).map fun o => { code := 3, addr := o, detail := 1 }
  else none

/-- `nsend` (R319): checked at the word; posted at the commit. -/
def execNsend (x : RWord) (s : State) : Res := liftWord x.grd (fun s t w =>
  match s.endpoint? (s.ctxOf t) (w.srcLow x.sa).toNat with
  | none => .err { code := 16, lane := w.low, detail := 1 }
  | some ep =>
    let a := w.msgArgs x ep
    match s.msgCheck t a with
    | some e => .err { e with lane := w.low }
    | none => .go s (w.hold (.nsend a))) s

/-- The congestion word of an endpoint (R323). -/
def Ep.ccWord (e : Ep) : Nat := e.cwnd.toNat * 2 ^ 32 + e.rtt.toNat * 2 ^ 12 + e.mark.toNat

/-- The lowest active lane whose handle is not valid. -/
def State.badHandle (s : State) (t : Team) (w : W) (x : RWord) : Option Nat :=
  w.act.find? fun l => (s.endpoint? (s.ctxOf t) (w.src x.sa l).toNat).isNone

/-- `ncc` (R323). -/
def execNcc (x : RWord) (s : State) : Res := liftWord x.grd (fun s t w =>
  match s.badHandle t w x with
  | some l => .err { code := 16, lane := l, detail := 1 }
  | none => .go s (w.dst x.dst fun l => BitVec.ofNat 64 (s.ep (fieldOf (w.src x.sa l).toNat 0 16)).ccWord)) s

/-- Bytes of a message sent and not acknowledged. -/
def Msg.unacked (m : Msg) : Nat :=
  if m.posted = 0 ∨ m.args.kind = 2 then 0
  else ((List.range m.total).filter fun k => !m.acked.contains k).foldl (fun n k => n + Nat.min m.pay (m.args.len - k * m.pay)) 0

/-- The status word of an endpoint (R324). -/
def State.epWord (s : State) (i : Nat) : Nat :=
  let e := s.ep i
  let ms := s.msgs.filter fun m => m.args.ep == i && m.args.gen == e.gen.toNat
  let bytes := ms.foldl (fun n m => n + m.unacked) 0
  Nat.min ms.length 65535 * 2 ^ 48 + Nat.min bytes (2 ^ 32 - 1) * 2 ^ 16 + e.err % 256 * 256 + e.state

/-- `nst` (R324). -/
def execNst (x : RWord) (s : State) : Res := liftWord x.grd (fun s t w =>
  .go s (w.dst x.dst fun l =>
    match s.endpoint? (s.ctxOf t) (w.src x.sa l).toNat with
    | some i => BitVec.ofNat 64 (s.epWord i)
    | none => 0)) s

end Sys2Proof.Machine
end

