-- ==== Sys2Proof/Machine/System.lean ====
section
/-!
DEFINITION. The meanings of the context words, class 0b101 OPC 0x000 to 0x00A, and of a word that is no instruction (R59 to
R62, R75 to R82).
-/
namespace Sys2Proof.Machine

/-- `nop` (R76). -/
def execNop (x : RWord) (s : State) : Res := liftWord x.grd (fun s _ w => .go s w) s

/-- `rdsr` (R76). (DEDUCED, log entry 29) -/
def execRdsr (x : RWord) (s : State) : Res := liftWord x.grd (fun s _ w => .go s (w.dst x.dst fun l => w.src x.sa l)) s

/-- `clk` (R76): the count of `sr.clk` at the word. (DEDUCED, log entry 29) -/
def execClk (x : RWord) (s : State) : Res :=
  liftWord x.grd (fun s _ w => .go s (w.dst x.dst fun l => w.srRead .clk l)) s

/-- Write a special register of the set (R77): the flags at the commit, the seed at once for the set. -/
def W.srWrite (w : W) (o : Opd) (v : Reg) : W :=
  match o with
  | .sr .fflg => { w with ts := { w.ts with flWrite := some (v.extractLsb' 0 6) } }
  | .sr .seed => { w with ts := { w.ts with seedOv := some v } }
  | _ => w

/-- `wrsr` (R77). -/
def execWrsr (x : RWord) (s : State) : Res := liftWord x.grd (fun s _ w => .go s (w.srWrite x.dst (w.srcLow x.sa))) s

/-- `sys` (R78): the request goes out at the commit. -/
def execSys (x : IWord) (s : State) : Res := liftWord x.grd (fun s _ w =>
  .go s (w.hold (.sys x.dst x.imm.toNat (w.act.map fun l => (l, w.src x.sa l, w.src x.sb l))))) s

/-- `trap` (R79): TRAP with its code. -/
def execTrap (x : IWord) (s : State) : Res := liftWord x.grd (fun _ _ w =>
  .err { code := 12, lane := w.low, detail := x.imm.toNat }) s

/-- The issuing set stands in an attached context with a lane active under a guard. -/
def State.brkStops (s : State) (grd : BitVec 4) : Bool :=
  match s.cur with
  | none => false
  | some c =>
    match s.view c with
    | none => false
    | some (t, g, ts) => s.attached (s.ctxOf t) && activeLanes g ts grd != []

/-- The issuing set stops after its word, which counts as completed (R79). -/
def State.stopAfter (s : State) (cls : Nat) : State :=
  match s.cur with
  | none => s
  | some c =>
    match s.view c with
    | none => s
    | some (t, _, ts) => (s.partialCommit c ts.pc).stopWith c (s.ctxOf t) cls

/-- `brk` (R79): with a debugger attached the set stops, resuming at the next word; without one, BREAK. The stop comes once the
stores of its earlier words can be performed (R52). -/
def execBrk (x : IWord) (s : State) : Res :=
  let body (stops : Bool) (s : State) : Res :=
    liftWord x.grd (fun s _ w => if stops then .go s w else .err { code := 13, lane := w.low, detail := x.imm.toNat }) s
  match s.brkStops x.grd, s.cur with
  | true, some c =>
    (match s.clearRun c with
      | .wait s0 p => .next (s0.onTset c fun y => y.park p)
      | .again s0 => .next s0
      | .ok s0 =>
        match body true s0 with
        | .next s1 => .next (s1.stopAfter 9)
        | r => r)
  | stops, _ => body stops s

/-- `hint` (R62, R80): value 1 marks the run as hot; every other value does nothing. -/
def execHint (x : IWord) (s : State) : Res := liftWord x.grd (fun s _ w =>
  .go s (if x.imm == 1 then { w with ts := { w.ts with hot := true } } else w)) s

/-- `prof` (R81). -/
def execProf (x : RWord) (s : State) : Res := liftWord x.grd (fun s _ w =>
  .go s { w with ts := { w.ts with profOv := ((w.srcLow x.sa).toNat, w.act.length) :: w.ts.profOv } }) s

/-! ### Handlers (R60, R61, R82) -/

/-- ILLEGAL at a word of class 0b101. -/
def illegalSys (w : W) (opc : Nat) : Eff := .err { code := 1, lane := w.low, detail := 5 * 1024 + opc }

/-- Write the register that `sr.emudst` names (R82). -/
def W.emuWrite (w : W) (e : Emu) (o : Opd) : W :=
  match Opd.ofBits (e.word.extractLsb' 78 20) with
  | some (.v n) => w.dst (.v n) fun l => w.src o l
  | some (.g n) => w.dst (.g n) fun l => w.src o l
  | some (.p i) => w.dstPred (.p i) fun l => (w.src o l).getLsbD 0
  | some (.t i) => w.hold (.emuTemp i.val (w.act.map fun l => (l, w.src o l)))
  | _ => w

/-- `emuwr` (R82). -/
def execEmuwr (x : RWord) (s : State) : Res := liftWord x.grd (fun s _ w =>
  match w.ts.emu with
  | none => illegalSys w 8
  | some e => .go s (w.emuWrite e x.sa)) s

/-- The issuing set with lanes active under a guard, inside a handler. -/
def State.inHandler (s : State) (grd : BitVec 4) : Option (Cur × Emu) :=
  match s.cur with
  | none => none
  | some c =>
    match s.view c with
    | none => none
    | some (_, g, ts) =>
      match ts.emu with
      | none => none
      | some e => if activeLanes g ts grd = [] then none else some (c, e)

/-- `emuret` (R60, R82): the return from the handler; outside one, ILLEGAL. One whose guard holds in some lanes of the
handler's set ends the handler for all of them. (DEDUCED, log entry 35) -/
def execEmuret (x : RWord) (s : State) : Res :=
  match s.inHandler x.grd with
  | some (c, e) => .next (s.leaveHandler c e)
  | none => liftWord x.grd (fun _ _ w => illegalSys w 9) s

/-- A word that is no instruction (R59 to R61): with no active lane it has no effect. -/
def execIllegalWord (word : BitVec 128) (s : State) : Res :=
  match s.cur with
  | none => .refused .noIssuingThreadSet
  | some c =>
    match s.view c with
    | none => .refused .noIssuingThreadSet
    | some (t, g, ts) =>
      let w := s.window t g ts (activeLanes g ts (word.extractLsb' 98 4))
      if w.act = [] then .next (s.putWindow c { w with ts := ts.advance s.clk })
      else .next (s.illegal t c word w)

end Sys2Proof.Machine
end

