-- ==== Sys2Proof/Machine/TrailerWords.lean ====
section
/-!
DEFINITION. The meanings of the nine trailers (R53 to R56, R134, R136 to R140) and of the waits that end one: AWAIT, CONV
and the hold of a yield (R55, R56, R138).
-/
namespace Sys2Proof.Machine

/-- `end`: all lanes go on at the word after it. -/
def execEndRun (x : TWord) (s : State) : Res := liftTrailer 0 x s
/-- `bra`. -/
def execBra (x : TWord) (s : State) : Res := liftTrailer 1 x s
/-- `brc`. -/
def execBrc (x : TWord) (s : State) : Res := liftTrailer 2 x s
/-- `brx`. -/
def execBrx (x : TWord) (s : State) : Res := liftTrailer 3 x s
/-- `call`. -/
def execCall (x : TWord) (s : State) : Res := liftTrailer 4 x s
/-- `callx`. -/
def execCallx (x : TWord) (s : State) : Res := liftTrailer 5 x s
/-- `ret`. -/
def execRet (x : TWord) (s : State) : Res := liftTrailer 6 x s
/-- `exit`. -/
def execExit (x : TWord) (s : State) : Res := liftTrailer 7 x s
/-- `yield`. -/
def execYield (x : TWord) (s : State) : Res := liftTrailer 8 x s

end Sys2Proof.Machine
end

