-- ==== Sys2Proof/Machine/Dispatch.lean ====
section
/-!
DEFINITION. The dispatch of instructions and events to their meanings, one arm for each row of the opcode table.
-/
namespace Sys2Proof.Machine

def exec (i : Instr) (s : State) : Host.Outcome State Fault Refusal :=
  match i with
  | .mov x => Sys2Proof.Machine.execMov x s
  | .movi x => Sys2Proof.Machine.execMovi x s
  | .add x => Sys2Proof.Machine.execAdd x s
  | .sub x => Sys2Proof.Machine.execSub x s
  | .neg x => Sys2Proof.Machine.execNeg x s
  | .abs x => Sys2Proof.Machine.execAbs x s
  | .min x => Sys2Proof.Machine.execMin x s
  | .max x => Sys2Proof.Machine.execMax x s
  | .mul x => Sys2Proof.Machine.execMul x s
  | .mulhi x => Sys2Proof.Machine.execMulhi x s
  | .mad x => Sys2Proof.Machine.execMad x s
  | .madw x => Sys2Proof.Machine.execMadw x s
  | .div x => Sys2Proof.Machine.execDiv x s
  | .rem x => Sys2Proof.Machine.execRem x s
  | .sad x => Sys2Proof.Machine.execSad x s
  | .dot4 x => Sys2Proof.Machine.execDot4 x s
  | .and x => Sys2Proof.Machine.execAnd x s
  | .or x => Sys2Proof.Machine.execOr x s
  | .xor x => Sys2Proof.Machine.execXor x s
  | .not x => Sys2Proof.Machine.execNot x s
  | .andn x => Sys2Proof.Machine.execAndn x s
  | .shl x => Sys2Proof.Machine.execShl x s
  | .shr x => Sys2Proof.Machine.execShr x s
  | .sar x => Sys2Proof.Machine.execSar x s
  | .rot x => Sys2Proof.Machine.execRot x s
  | .bfx x => Sys2Proof.Machine.execBfx x s
  | .bfi x => Sys2Proof.Machine.execBfi x s
  | .popc x => Sys2Proof.Machine.execPopc x s
  | .clz x => Sys2Proof.Machine.execClz x s
  | .ctz x => Sys2Proof.Machine.execCtz x s
  | .brev x => Sys2Proof.Machine.execBrev x s
  | .perm x => Sys2Proof.Machine.execPerm x s
  | .swz x => Sys2Proof.Machine.execSwz x s
  | .pack x => Sys2Proof.Machine.execPack x s
  | .unpk x => Sys2Proof.Machine.execUnpk x s
  | .lea x => Sys2Proof.Machine.execLea x s
  | .sel x => Sys2Proof.Machine.execSel x s
  | .cmp x => Sys2Proof.Machine.execCmp x s
  | .cmpv x => Sys2Proof.Machine.execCmpv x s
  | .cvt x => Sys2Proof.Machine.execCvt x s
  | .pand x => Sys2Proof.Machine.execPand x s
  | .por x => Sys2Proof.Machine.execPor x s
  | .pxor x => Sys2Proof.Machine.execPxor x s
  | .pnot x => Sys2Proof.Machine.execPnot x s
  | .pmov x => Sys2Proof.Machine.execPmov x s
  | .fadd x => Sys2Proof.Machine.execFadd x s
  | .fsub x => Sys2Proof.Machine.execFsub x s
  | .fmul x => Sys2Proof.Machine.execFmul x s
  | .fma x => Sys2Proof.Machine.execFma x s
  | .fmin x => Sys2Proof.Machine.execFmin x s
  | .fmax x => Sys2Proof.Machine.execFmax x s
  | .fabs x => Sys2Proof.Machine.execFabs x s
  | .fneg x => Sys2Proof.Machine.execFneg x s
  | .fdiv x => Sys2Proof.Machine.execFdiv x s
  | .fsqrt x => Sys2Proof.Machine.execFsqrt x s
  | .frcp x => Sys2Proof.Machine.execFrcp x s
  | .frsq x => Sys2Proof.Machine.execFrsq x s
  | .ex2 x => Sys2Proof.Machine.execEx2 x s
  | .lg2 x => Sys2Proof.Machine.execLg2 x s
  | .fexp x => Sys2Proof.Machine.execFexp x s
  | .flog x => Sys2Proof.Machine.execFlog x s
  | .fsin x => Sys2Proof.Machine.execFsin x s
  | .fcos x => Sys2Proof.Machine.execFcos x s
  | .ftanh x => Sys2Proof.Machine.execFtanh x s
  | .fsigm x => Sys2Proof.Machine.execFsigm x s
  | .fcmp x => Sys2Proof.Machine.execFcmp x s
  | .fclass x => Sys2Proof.Machine.execFclass x s
  | .frnd x => Sys2Proof.Machine.execFrnd x s
  | .fcvt x => Sys2Proof.Machine.execFcvt x s
  | .f2i x => Sys2Proof.Machine.execF2i x s
  | .i2f x => Sys2Proof.Machine.execI2f x s
  | .qmax x => Sys2Proof.Machine.execQmax x s
  | .qscl x => Sys2Proof.Machine.execQscl x s
  | .qcvt x => Sys2Proof.Machine.execQcvt x s
  | .dqcvt x => Sys2Proof.Machine.execDqcvt x s
  | .fdot2 x => Sys2Proof.Machine.execFdot2 x s
  | .flg x => Sys2Proof.Machine.execFlg x s
  | .ld x => Sys2Proof.Machine.execLd x s
  | .st x => Sys2Proof.Machine.execSt x s
  | .ldv x => Sys2Proof.Machine.execLdv x s
  | .stv x => Sys2Proof.Machine.execStv x s
  | .ldk x => Sys2Proof.Machine.execLdk x s
  | .atom x => Sys2Proof.Machine.execAtom x s
  | .atomc x => Sys2Proof.Machine.execAtomc x s
  | .red x => Sys2Proof.Machine.execRed x s
  | .fence x => Sys2Proof.Machine.execFence x s
  | .pref x => Sys2Proof.Machine.execPref x s
  | .probe x => Sys2Proof.Machine.execProbe x s
  | .prinv x => Sys2Proof.Machine.execPrinv x s
  | .stmc x => Sys2Proof.Machine.execStmc x s
  | .cctl x => Sys2Proof.Machine.execCctl x s
  | .lsplit x => Sys2Proof.Machine.execLsplit x s
  | .lsjoin x => Sys2Proof.Machine.execLsjoin x s
  | .vote x => Sys2Proof.Machine.execVote x s
  | .ballot x => Sys2Proof.Machine.execBallot x s
  | .shfl x => Sys2Proof.Machine.execShfl x s
  | .bcast x => Sys2Proof.Machine.execBcast x s
  | .gred x => Sys2Proof.Machine.execGred x s
  | .gscan x => Sys2Proof.Machine.execGscan x s
  | .matchEq x => Sys2Proof.Machine.execMatchEq x s
  | .elect x => Sys2Proof.Machine.execElect x s
  | .lmask x => Sys2Proof.Machine.execLmask x s
  | .lsync x => Sys2Proof.Machine.execLsync x s
  | .rdfl x => Sys2Proof.Machine.execRdfl x s
  | .tpost x => Sys2Proof.Machine.execTpost x s
  | .twait x => Sys2Proof.Machine.execTwait x s
  | .ttake x => Sys2Proof.Machine.execTtake x s
  | .ttst x => Sys2Proof.Machine.execTtst x s
  | .tmark x => Sys2Proof.Machine.execTmark x s
  | .tmask x => Sys2Proof.Machine.execTmask x s
  | .tbind x => Sys2Proof.Machine.execTbind x s
  | .bank x => Sys2Proof.Machine.execBank x s
  | .cp x => Sys2Proof.Machine.execCp x s
  | .cpmc x => Sys2Proof.Machine.execCpmc x s
  | .cpgat x => Sys2Proof.Machine.execCpgat x s
  | .cpst x => Sys2Proof.Machine.execCpst x s
  | .cpcan x => Sys2Proof.Machine.execCpcan x s
  | .ffcfg x => Sys2Proof.Machine.execFfcfg x s
  | .ffst x => Sys2Proof.Machine.execFfst x s
  | .sigt x => Sys2Proof.Machine.execSigt x s
  | .mxset x => Sys2Proof.Machine.execMxset x s
  | .mxseti x => Sys2Proof.Machine.execMxseti x s
  | .mxgo x => Sys2Proof.Machine.execMxgo x s
  | .mxab x => Sys2Proof.Machine.execMxab x s
  | .mxst x => Sys2Proof.Machine.execMxst x s
  | .acld x => Sys2Proof.Machine.execAcld x s
  | .acst x => Sys2Proof.Machine.execAcst x s
  | .acclr x => Sys2Proof.Machine.execAcclr x s
  | .acred x => Sys2Proof.Machine.execAcred x s
  | .acflg x => Sys2Proof.Machine.execAcflg x s
  | .nsend x => Sys2Proof.Machine.execNsend x s
  | .ncc x => Sys2Proof.Machine.execNcc x s
  | .nst x => Sys2Proof.Machine.execNst x s
  | .nop x => Sys2Proof.Machine.execNop x s
  | .rdsr x => Sys2Proof.Machine.execRdsr x s
  | .wrsr x => Sys2Proof.Machine.execWrsr x s
  | .sys x => Sys2Proof.Machine.execSys x s
  | .trap x => Sys2Proof.Machine.execTrap x s
  | .brk x => Sys2Proof.Machine.execBrk x s
  | .hint x => Sys2Proof.Machine.execHint x s
  | .prof x => Sys2Proof.Machine.execProf x s
  | .emuwr x => Sys2Proof.Machine.execEmuwr x s
  | .emuret x => Sys2Proof.Machine.execEmuret x s
  | .clk x => Sys2Proof.Machine.execClk x s
  | .binit x => Sys2Proof.Machine.execBinit x s
  | .barr x => Sys2Proof.Machine.execBarr x s
  | .bwait x => Sys2Proof.Machine.execBwait x s
  | .bsync x => Sys2Proof.Machine.execBsync x s
  | .bdrop x => Sys2Proof.Machine.execBdrop x s
  | .bphase x => Sys2Proof.Machine.execBphase x s
  | .barm x => Sys2Proof.Machine.execBarm x s
  | .gbar x => Sys2Proof.Machine.execGbar x s
  | .qrec x => Sys2Proof.Machine.execQrec x s
  | .qpush x => Sys2Proof.Machine.execQpush x s
  | .qjoin x => Sys2Proof.Machine.execQjoin x s
  | .qsig x => Sys2Proof.Machine.execQsig x s
  | .endRun x => Sys2Proof.Machine.execEndRun x s
  | .bra x => Sys2Proof.Machine.execBra x s
  | .brc x => Sys2Proof.Machine.execBrc x s
  | .brx x => Sys2Proof.Machine.execBrx x s
  | .call x => Sys2Proof.Machine.execCall x s
  | .callx x => Sys2Proof.Machine.execCallx x s
  | .ret x => Sys2Proof.Machine.execRet x s
  | .exit x => Sys2Proof.Machine.execExit x s
  | .yield x => Sys2Proof.Machine.execYield x s
  | .illegalWord w => Sys2Proof.Machine.execIllegalWord w s
  | .faultRecordWrite ctx => Sys2Proof.Machine.execFaultRecordWrite ctx s
  | .engineFaultDelivery team => Sys2Proof.Machine.execEngineFaultDelivery team s
  | .debugStop team group tset => Sys2Proof.Machine.execDebugStop team group tset s
  | .awaitRelease team group tset => Sys2Proof.Machine.execAwaitRelease team group tset s
  | .convWaitExpiry team group tset => Sys2Proof.Machine.execConvWaitExpiry team group tset s
  | .promotion team group tset => Sys2Proof.Machine.execPromotion team group tset s
  | .yieldExpiry team group tset => Sys2Proof.Machine.execYieldExpiry team group tset s
  | .lsyncRelease team group ls => Sys2Proof.Machine.execLsyncRelease team group ls s
  | .sysResult team group tset results => Sys2Proof.Machine.execSysResult team group tset results s
  | .atomicPerform team group tset => Sys2Proof.Machine.execAtomicPerform team group tset s
  | .aliasRollback team group tset => Sys2Proof.Machine.execAliasRollback team group tset s
  | .queueWake q => Sys2Proof.Machine.execQueueWake q s
  | .packetTake q => Sys2Proof.Machine.execPacketTake q s
  | .launchPacket q => Sys2Proof.Machine.execLaunchPacket q s
  | .copyPacket q => Sys2Proof.Machine.execCopyPacket q s
  | .copyPacketSegmentEnd q pkt seg ok => Sys2Proof.Machine.execCopyPacketSegmentEnd q pkt seg ok s
  | .waitPacket q => Sys2Proof.Machine.execWaitPacket q s
  | .waitComplete q pkt => Sys2Proof.Machine.execWaitComplete q pkt s
  | .signalPacket q => Sys2Proof.Machine.execSignalPacket q s
  | .markPacket q => Sys2Proof.Machine.execMarkPacket q s
  | .counterPoll => Sys2Proof.Machine.execCounterPoll s
  | .qjoinRelease team group tset => Sys2Proof.Machine.execQjoinRelease team group tset s
  | .childLaunch team => Sys2Proof.Machine.execChildLaunch team s
  | .translationComplete ctx slot => Sys2Proof.Machine.execTranslationComplete ctx slot s
  | .polderKeyLookup ctx slot hit => Sys2Proof.Machine.execPolderKeyLookup ctx slot hit s
  | .hotRunCount entry => Sys2Proof.Machine.execHotRunCount entry s
  | .reoptimisationStart entry => Sys2Proof.Machine.execReoptimisationStart entry s
  | .reoptimisationComplete entry replaced => Sys2Proof.Machine.execReoptimisationComplete entry replaced s
  | .eviction => Sys2Proof.Machine.execEviction s
  | .translationCoreFailure ctx slot => Sys2Proof.Machine.execTranslationCoreFailure ctx slot s
  | .teamPlacement launch cores => Sys2Proof.Machine.execTeamPlacement launch cores s
  | .quantumExpiry team => Sys2Proof.Machine.execQuantumExpiry team s
  | .waitPriorityBoost team => Sys2Proof.Machine.execWaitPriorityBoost team s
  | .parkedRestoreTimeout team => Sys2Proof.Machine.execParkedRestoreTimeout team s
  | .teamSwapOut team => Sys2Proof.Machine.execTeamSwapOut team s
  | .teamRestore team cores => Sys2Proof.Machine.execTeamRestore team cores s
  | .teamRetire team => Sys2Proof.Machine.execTeamRetire team s
  | .contextCreate => Sys2Proof.Machine.execContextCreate s
  | .contextStart => Sys2Proof.Machine.execContextStart s
  | .contextSuspend => Sys2Proof.Machine.execContextSuspend s
  | .suspendComplete ctx => Sys2Proof.Machine.execSuspendComplete ctx s
  | .contextResume => Sys2Proof.Machine.execContextResume s
  | .contextAcknowledge => Sys2Proof.Machine.execContextAcknowledge s
  | .contextDestroy => Sys2Proof.Machine.execContextDestroy s
  | .contextDestroyed ctx => Sys2Proof.Machine.execContextDestroyed ctx s
  | .contextReclaim => Sys2Proof.Machine.execContextReclaim s
  | .faultRingHeadWrite head => Sys2Proof.Machine.execFaultRingHeadWrite head s
  | .queueEnable value => Sys2Proof.Machine.execQueueEnable value s
  | .queueDisable value => Sys2Proof.Machine.execQueueDisable value s
  | .kernelLoad => Sys2Proof.Machine.execKernelLoad s
  | .kernelLoadDone ctx slot => Sys2Proof.Machine.execKernelLoadDone ctx slot s
  | .kernelUnload handle => Sys2Proof.Machine.execKernelUnload handle s
  | .profileRequest handle => Sys2Proof.Machine.execProfileRequest handle s
  | .cancelLaunch q slot => Sys2Proof.Machine.execCancelLaunch q slot s
  | .cancelAbort q slot => Sys2Proof.Machine.execCancelAbort q slot s
  | .pgRootWrite value => Sys2Proof.Machine.execPgRootWrite value s
  | .pageWalk walk => Sys2Proof.Machine.execPageWalk walk s
  | .pageReplay value => Sys2Proof.Machine.execPageReplay value s
  | .pageFail value => Sys2Proof.Machine.execPageFail value s
  | .invalidatePage value => Sys2Proof.Machine.execInvalidatePage value s
  | .invalidateAll value => Sys2Proof.Machine.execInvalidateAll value s
  | .invalidateComplete => Sys2Proof.Machine.execInvalidateComplete s
  | .counterEpoch => Sys2Proof.Machine.execCounterEpoch s
  | .migrationStart quay value => Sys2Proof.Machine.execMigrationStart quay value s
  | .migrationCopyEnd quay ok => Sys2Proof.Machine.execMigrationCopyEnd quay ok s
  | .replicaAdd value => Sys2Proof.Machine.execReplicaAdd value s
  | .replicaRemove value => Sys2Proof.Machine.execReplicaRemove value s
  | .tileArrival frag beats => Sys2Proof.Machine.execTileArrival frag beats s
  | .fragmentFailure frag => Sys2Proof.Machine.execFragmentFailure frag s
  | .probeFillComplete fill ok => Sys2Proof.Machine.execProbeFillComplete fill ok s
  | .windowFillComplete fill ok => Sys2Proof.Machine.execWindowFillComplete fill ok s
  | .copySegmentEnd cmd seg ok => Sys2Proof.Machine.execCopySegmentEnd cmd seg ok s
  | .nestStart team core => Sys2Proof.Machine.execNestStart team core s
  | .kblockRetire team core => Sys2Proof.Machine.execKblockRetire team core s
  | .acredComplete acred => Sys2Proof.Machine.execAcredComplete acred s
  | .linkIrqClear => Sys2Proof.Machine.execLinkIrqClear s
  | .linkReset => Sys2Proof.Machine.execLinkReset s
  | .linkRepair => Sys2Proof.Machine.execLinkRepair s
  | .linkRetrain link => Sys2Proof.Machine.execLinkRetrain link s
  | .trainingSuccess link width => Sys2Proof.Machine.execTrainingSuccess link width s
  | .trainingTimeout link => Sys2Proof.Machine.execTrainingTimeout link s
  | .marginInterrupt link lane hgt wid => Sys2Proof.Machine.execMarginInterrupt link lane hgt wid s
  | .laneFailure link lane => Sys2Proof.Machine.execLaneFailure link lane s
  | .correctedErrorBurst link => Sys2Proof.Machine.execCorrectedErrorBurst link s
  | .flitRetry link => Sys2Proof.Machine.execFlitRetry link s
  | .spillwayTimer access => Sys2Proof.Machine.execSpillwayTimer access s
  | .wcAgeDrain core entry => Sys2Proof.Machine.execWcAgeDrain core entry s
  | .remoteResponse access ok bytes => Sys2Proof.Machine.execRemoteResponse access ok bytes s
  | .linkTimeout access => Sys2Proof.Machine.execLinkTimeout access s
  | .endpointCreate value => Sys2Proof.Machine.execEndpointCreate value s
  | .endpointDestroy value => Sys2Proof.Machine.execEndpointDestroy value s
  | .packetPlacement sender seqNo kind dst body => Sys2Proof.Machine.execPacketPlacement sender seqNo kind dst body s
  | .packetAck msg pkt => Sys2Proof.Machine.execPacketAck msg pkt s
  | .packetRefusal msg pkt => Sys2Proof.Machine.execPacketRefusal msg pkt s
  | .retransmit msg pkt => Sys2Proof.Machine.execRetransmit msg pkt s
  | .messageTimeout ep => Sys2Proof.Machine.execMessageTimeout ep s
  | .debugAttach value => Sys2Proof.Machine.execDebugAttach value s
  | .dbgSet value => Sys2Proof.Machine.execDbgSet value s
  | .dbgClear value => Sys2Proof.Machine.execDbgClear value s
  | .debugRegisterRead => Sys2Proof.Machine.execDebugRegisterRead s
  | .debugRegisterWrite value => Sys2Proof.Machine.execDebugRegisterWrite value s
  | .continueAll => Sys2Proof.Machine.execContinueAll s
  | .stepRun => Sys2Proof.Machine.execStepRun s
  | .stopAll => Sys2Proof.Machine.execStopAll s
  | .continueGroup => Sys2Proof.Machine.execContinueGroup s
  | .samplePeriod => Sys2Proof.Machine.execSamplePeriod s
  | .packageReset => Sys2Proof.Machine.execPackageReset s
  | .liveUpdate => Sys2Proof.Machine.execLiveUpdate s
  | .raiseFloor => Sys2Proof.Machine.execRaiseFloor s
  | .keyCreate value => Sys2Proof.Machine.execKeyCreate value s
  | .keyDestroy value => Sys2Proof.Machine.execKeyDestroy value s
  | .freezeMaster m cause addr => Sys2Proof.Machine.execFreezeMaster m cause addr s
  | .correctableError error => Sys2Proof.Machine.execCorrectableError error s
  | .eccFreezeEnd core => Sys2Proof.Machine.execEccFreezeEnd core s
  | .uncorrectableError addr => Sys2Proof.Machine.execUncorrectableError addr s
  | .writebackDataError ctx addr => Sys2Proof.Machine.execWritebackDataError ctx addr s
  | .bankRetire core bank => Sys2Proof.Machine.execBankRetire core bank s
  | .thermalStepDown die => Sys2Proof.Machine.execThermalStepDown die s
  | .thermalStepUp die => Sys2Proof.Machine.execThermalStepUp die s
  | .clockStop die => Sys2Proof.Machine.execClockStop die s
  | .clockResume die => Sys2Proof.Machine.execClockResume die s
  | .thermalShutdown => Sys2Proof.Machine.execThermalShutdown s
  | .powerCapSet watts => Sys2Proof.Machine.execPowerCapSet watts s
  | .pldmMonitorRead reading => Sys2Proof.Machine.execPldmMonitorRead reading s
  | .registerWrite reg value => Sys2Proof.Machine.execRegisterWrite reg value s
  | .pgFqhHeadWrite value => Sys2Proof.Machine.execPgFqhHeadWrite value s
  | .dbgSptrHeadWrite value => Sys2Proof.Machine.execDbgSptrHeadWrite value s
  | .peerPackageReset pkg => Sys2Proof.Machine.execPeerPackageReset pkg s
  | .systemCoreAccess place size op value => Sys2Proof.Machine.execSystemCoreAccess place size op value s
  | .powerCapClockStep => Sys2Proof.Machine.execPowerCapClockStep s

end Sys2Proof.Machine
end

