-- ==== Sys2Proof/Machine/Moves.lean ====
section
/-!
DEFINITION. What one step of the package does: time, inputs, timers that have run out, and otherwise one move of a core or of
another agent (R4, R18, R125, R128). `run` stands for the dispatch of instructions and events.
-/
namespace Sys2Proof.Machine

/-! ### Time (R74, R337) -/

/-- Some thread set of a launch satisfies a test. -/
def State.setOfLaunch (s : State) (id : Nat) (p : Team → Group → TSet → Bool) : Bool :=
  s.teams.any fun t => t.launch == id && t.groups.any fun g => g.tsets.any fun ts => p t g ts

/-- A set waits on a page request, on `sys`, or is stopped. -/
def State.inService (s : State) (t : Team) (g : Group) (ts : TSet) : Bool :=
  ts.stop || ts.phase == .post .service ||
    (ts.phase == .parked .walk && s.walks.any fun w => w.req.isSome && w.waiters.contains (.set t.id g.index ts.id))

/-- A set waits on a remote access, or under AWAIT on the signal of a message in flight. -/
def State.onNetwork (s : State) (t : Team) (g : Group) (ts : TSet) : Bool :=
  match ts.phase with
  | .parked (.remote _) => true
  | .post .atomics => s.accesses.any fun a => a.kind == 2 && a.team == t.id
  | .await => s.msgs.any fun m =>
      m.team == t.id && m.group == g.index && (match m.args.sig with | some i => ts.await.getLsbD i | none => false)
  | _ => false

/-- Charge the ac just past to a launch's time account (R337). -/
def State.account (s : State) (l : Launch) : Launch :=
  let issued := match s.cur with | some c => (match s.team? c.1 with | some t => t.launch == l.id | none => false) | none => false
  if l.first = 0 ∨ l.phase ≠ 1 then l
  else if s.setOfLaunch l.id s.inService then { l with serv := l.serv + 1 }
  else if !issued && s.setOfLaunch l.id s.onNetwork then { l with waits := l.waits + 1 }
  else l

/-- One ac passes. -/
def State.tick (s : State) : State :=
  let s := s.idleCycles
  { s with
    clk := s.clk + 1
    launches := s.launches.map s.account
    inputs := s.inputs.map fun i => { i with after := i.after - 1 }
    cur := none }

/-! ### Inputs -/

/-- The first input that is due. -/
def dueInput : List Input → Option (Instr × List Input)
  | [] => none
  | i :: rest => if i.after = 0 then some (i.event, rest) else (dueInput rest).map fun x => (x.1, i :: x.2)

/-- Events that need no firmware: resets, links, sensors and errors (R340). (DEDUCED, log entry 53) -/
def Instr.physical (i : Instr) : Bool :=
  match i with
  | .packageReset | .trainingSuccess .. | .trainingTimeout .. | .marginInterrupt .. | .laneFailure .. | .correctedErrorBurst ..
  | .flitRetry .. | .thermalStepDown .. | .thermalStepUp .. | .clockStop .. | .clockResume .. | .thermalShutdown
  | .correctableError .. | .eccFreezeEnd .. | .uncorrectableError .. | .powerCapSet .. | .powerCapClockStep
  | .pldmMonitorRead .. => true
  | _ => false

/-- A write of the flash, which alone works in RECOVERY (R340). -/
def Instr.flash (i : Instr) : Bool := match i with | .registerWrite (.flashImage ..) _ | .registerWrite (.flashMarker ..) _ => true | _ => false

/-- A write of a `CXQ_` register, which a live update holds from its third step to its last (R343). -/
def Instr.cxqWrite (i : Instr) : Bool :=
  match i with
  | .registerWrite r _ => [RegId.cxqCsel, .cxqCkeys, .cxqCtag, .cxqCfring, .cxqCswap, .cxqCswlen, .cxqQsel, .cxqQring, .cxqQwake,
      .cxqKimg, .cxqKlen, .cxqKdiag, .cxqKpbuf, .cxqQuant].contains r
  | .contextCreate | .contextStart | .contextSuspend | .contextResume | .contextAcknowledge | .contextDestroy | .contextReclaim => true
  | .faultRingHeadWrite _ | .queueEnable _ | .queueDisable _ | .kernelLoad | .kernelUnload _ | .profileRequest _ => true
  | .cancelLaunch .. | .cancelAbort .. => true
  | _ => false

/-- An input may act: the package runs its firmware, or the input needs none; a module that is shut down only resets.
(DEDUCED, log entry 53) -/
def State.admits (s : State) (i : Instr) : Bool :=
  if s.pwr.off then i == .packageReset
  else s.fw.state == 1 || Instr.physical i || (s.fw.state == 2 && Instr.flash i)

/-! ### What may happen of itself -/

/-- Thread sets of resident teams. -/
def State.allSets (s : State) : List (Team × Group × TSet) :=
  s.teams.flatMap fun t => t.groups.flatMap fun g => g.tsets.map fun ts => (t, g, ts)

/-- Dies whose temperature may bring on an event: one that is not at 25 °C, or whose clock is stopped or lowered (R371). -/
def State.warmDies (s : State) : List Nat :=
  (List.range 20).filter fun d =>
    s.pwr.temps.any (fun e => e.1 == d) || s.pwr.stopped.contains d || s.pwr.step.any fun e => e.1 == d

/-- Timers and conditions that act before anything else, where they hold: ends of waits, stops and charges at run boundaries,
and the timers of the dispatcher, the buffers, the links and the profiler. -/
def State.timers (s : State) : List Instr :=
  let past (t : Nat) : Bool := decide (t ≤ s.clk)
  let one (b : Bool) (i : Instr) : List Instr := if b then [i] else []
  let spt := fieldOf s.nt.fab.toNat 0 12
  (s.allSets.flatMap fun x =>
    let c := (x.1.id, x.2.1.index, x.2.2.id)
    one (match x.2.2.phase with | .conv t => past (t + 256) | _ => false) (.convWaitExpiry c.1 c.2.1 c.2.2) ++
    one (decide (64 ≤ x.2.2.pass) && x.2.2.promoted.isNone) (.promotion c.1 c.2.1 c.2.2) ++
    one (x.2.2.hold == some 0) (.yieldExpiry c.1 c.2.1 c.2.2) ++
    one x.2.2.stopDue (.debugStop c.1 c.2.1 c.2.2)) ++
  (s.teams.flatMap fun t =>
    one (t.pend != []) (.engineFaultDelivery t.id) ++
    one (t.resident && !t.quantum && past (t.placedAt + t.slice)) (.quantumExpiry t.id) ++
    one (!t.resident && past (t.swappedAt + 8 * s.quantum)) (.waitPriorityBoost t.id) ++
    one (!t.resident && past (t.swappedAt + 8 * s.quantum)) (.parkedRestoreTimeout t.id)) ++
  (s.launches.flatMap fun l => one (!l.boosted && past (l.waitSince + 8 * s.quantum)) (.waitPriorityBoost l.id)) ++
  (s.accesses.flatMap fun a =>
    one (past (a.sent + fieldOf s.nt.fab.toNat 24 24)) (.linkTimeout a.id) ++
    one (!a.spill && past (a.sent + 4 * (if spt = 0 then 1024 else spt))) (.spillwayTimer a.id)) ++
  (s.cores.flatMap fun e =>
    one (e.2.frozen != 0 && past e.2.frozen) (.eccFreezeEnd (Fin.ofNat 256 e.1)) ++
    e.2.wc.zipIdx.flatMap fun (k : WcEntry × Nat) => one (past (k.1.born + s.nt.age)) (.wcAgeDrain (Fin.ofNat 256 e.1) k.2)) ++
  (s.eps.flatMap fun e => one (e.2.state == 2 && past (e.2.since + s.nt.msgTmo)) (.messageTimeout (Fin.ofNat 16384 e.1))) ++
  (s.links.flatMap fun e =>
    one ((e.2.state == 1 || e.2.state == 4) && past (e.2.since + 250000)) (.trainingTimeout e.1) ++
    one (decide (2 ^ 16 ≤ e.2.recent.length)) (.correctedErrorBurst e.1)) ++
  one (fieldOf s.pg.cthr.toNat 16 16 != 0 && past (s.pg.epoch + fieldOf s.pg.cthr.toNat 16 16 * 2 ^ 20)) .counterEpoch ++
  one (s.dbg.smp.getLsbD 0 && past (s.dbg.last + s.dbg.period)) .samplePeriod ++
  (s.warmDies.flatMap fun d =>
    let die := Fin.ofNat 20 d
    [Instr.thermalShutdown, .clockStop die, .clockResume die, .thermalStepDown die, .thermalStepUp die]) ++
  one (s.pwr.overAt != 0) .powerCapClockStep

/-- Team cores with a nest armed or running. -/
def State.nestCores (s : State) : List (Nat × Nat) :=
  s.teams.flatMap fun t => (t.nests.filter fun n => n.2.armed.isSome || n.2.active.isSome).map fun n => (t.id, n.1)

/-- The bytes that answer a remote access. (DESIGN CHOICE, log entry 15) -/
def State.farBytes (s : State) (a : Access) : List Byte :=
  match a.loc with
  | .mem pa => readBytes s.mem pa a.len
  | _ => (List.range a.len).map fun k => Config.farByte a.id k

/-- What a thread set's wait may end in. -/
def setActs (t : Team) (g : Group) (ts : TSet) : List Instr :=
  match ts.phase with
  | .post .atomics => [.atomicPerform t.id g.index ts.id]
  | .await => if g.awaitPasses ts.await then [.awaitRelease t.id g.index ts.id] else []
  | .parked .join => [.qjoinRelease t.id g.index ts.id]
  | .parked (.lsync k) => [.lsyncRelease t.id g.index (Fin.ofNat 8 k)]
  | _ => []

/-- A thread set is parked in `qjoin`. -/
def State.parkedJoin (s : State) : Bool := s.allSets.any fun x => x.2.2.phase == .parked .join

/-- What a queue's cores and its packets may do. -/
def Queue.acts (x : Queue) (q : Fin 1024) : List Instr :=
  (if x.head < x.tail then [Instr.packetTake q] else []) ++
  x.pkts.flatMap fun p =>
    (if p.state = 0 then
      match p.typ with
      | 1 => [Instr.launchPacket q]
      | 2 => [.copyPacket q]
      | 3 => [.waitPacket q]
      | 4 => [.signalPacket q]
      | 5 => [.markPacket q]
      | _ => []
    else if p.typ = 3 then [.waitComplete q p.num] else []) ++
    p.segs.map fun k => .copyPacketSegmentEnd q p.num k true

/-- What the dispatcher may do with a team. -/
def State.teamActs (s : State) (t : Team) : List Instr :=
  (if t.halting || s.doneTeam t then [Instr.teamRetire t.id] else []) ++
  (if t.children ≠ [] then [.childLaunch t.id] else []) ++
  (if t.resident then [Instr.teamSwapOut t.id]
   else match s.teamWait t with
    | some w => (match s.fitsNow w (s.reserved w) with | some cores => [Instr.teamRestore t.id cores] | none => [])
    | none => [])

/-- Acts of the agents other than the cores, where they may act. -/
def State.acts (s : State) : List Instr :=
  (s.ctxs.flatMap fun e =>
    let n := Fin.ofNat 64 e.1
    (if e.2.fwait ≠ [] then [Instr.faultRecordWrite n] else []) ++
    (if e.2.state = 3 then [Instr.suspendComplete n] else []) ++ (if e.2.state = 5 then [Instr.contextDestroyed n] else [])) ++
  (s.allSets.flatMap fun x => setActs x.1 x.2.1 x.2.2) ++
  (s.walks.flatMap fun w => if w.req.isNone then [Instr.pageWalk w.id] else []) ++
  (s.nestCores.flatMap fun x => [Instr.nestStart x.1 x.2, .kblockRetire x.1 x.2]) ++
  (s.acreds.map fun a => .acredComplete a.id) ++
  (s.frags.flatMap fun f => [Instr.tileArrival f.id f.left, .fragmentFailure f.id]) ++
  (s.fills.map fun f => if f.slot.isSome then Instr.probeFillComplete f.id true else .windowFillComplete f.id true) ++
  (s.cmds.flatMap fun c => c.open_.map fun k => Instr.copySegmentEnd c.id k true) ++
  (s.accesses.map fun a => .remoteResponse a.id true (s.farBytes a)) ++
  (s.eps.flatMap fun e => e.2.sent.map fun x => Instr.remoteResponse x.2 (Config.farTeam x.2 0 == 0) []) ++
  (s.msgs.flatMap fun m => m.waiting.map fun k => Instr.packetAck m.id k) ++
  (s.queues.flatMap fun e => e.2.acts (Fin.ofNat 1024 e.1)) ++
  (if s.parkedJoin || s.queues.any fun e => e.2.pkts.any fun p => p.typ == 3 then [.counterPoll] else []) ++
  (s.xlates.map fun x =>
    if x.looked then Instr.translationComplete (Fin.ofNat 64 x.ctx) (Fin.ofNat 4096 x.slot)
    else .polderKeyLookup (Fin.ofNat 64 x.ctx) (Fin.ofNat 4096 x.slot) false) ++
  (s.launches.flatMap fun l =>
    if s.launchWaits l then [Instr.teamPlacement l.id ((s.fitsNow l.wait (s.reserved l.wait)).getD [])] else []) ++
  (s.teams.flatMap s.teamActs) ++
  (if s.cxq.kimg.getLsbD 0 then
    [Instr.kernelLoadDone (Fin.ofNat 64 s.cxq.kctx) (Fin.ofNat 4096 ((s.freeSlot s.cxq.kctx).getD 0))] else []) ++
  (if s.pg.inval.getLsbD 63 then [Instr.invalidateComplete] else []) ++
  (s.pg.migs.flatMap fun e => if e.2.busy then [Instr.migrationCopyEnd (Fin.ofNat 4 e.1) true] else []) ++
  (s.tcache.flatMap fun e =>
    if e.state = 1 then (if 2 ^ 24 ≤ e.stored then [Instr.hotRunCount e.id] else [])
    else if e.state = 2 then [.reoptimisationStart e.id] else [.reoptimisationComplete e.id false]) ++
  (s.links.flatMap fun e => if e.2.state = 1 ∨ e.2.state = 4 then [Instr.trainingSuccess e.1 (e.2.wide (linkKind e.1))] else []) ++
  (s.queues.map fun e => .queueWake (Fin.ofNat 1024 e.1)) ++
  (s.allSets.flatMap fun x =>
    if x.2.2.phase = .post .service then
      [Instr.sysResult x.1.id x.2.1.index x.2.2.id (lanes32.map fun l => Config.service s.clk l)] else []) ++
  (s.msgs.flatMap fun m => m.waiting.map fun k => Instr.retransmit m.id k) ++ (if s.fw.updS = 1 then [.liveUpdate] else [])

/-! ### Turns -/

/-- One move: a core issues a word, a parked set tries again, or an event happens. -/
inductive Turn where
  | word (c : Cur) (core : Nat) (new : Bool)
  | again (c : Cur)
  | event (i : Instr)
  deriving DecidableEq, Repr

/-- What issuing the thread set's next word or trailer executes (R53, R59). Of lanes that have fallen through past the last trailer of
the text the spec says nothing, and the model stops. (DESIGN CHOICE, log entry 64) -/
def State.fetch (s : State) (c : Cur) : Res ⊕ Instr :=
  match s.view c with
  | none => .inl (.next s)
  | some (t, _, ts) =>
    match (s.kernelOf t).text[ts.pc]? with
    | none => .inl (.fault .fetchOutsideText)
    | some w =>
      if isTrailerWord w then
        match decode w with
        | .ok i => .inr i
        | .error _ => .inl (.refused .malformedTrailerInText)
      else .inr (decodeRun w)

/-- A core issues: the set stops at a DBG bit, or takes its slot and its word is executed (R125, R128, R327). -/
def State.issueWord (run : Instr → State → Res) (s : State) (c : Cur) (core : Nat) (new : Bool) : Res :=
  let stops := match s.view c with | some (t, g, ts) => s.dbgHit t g ts | none => false
  if stops then run (.debugStop c.1 c.2.1 c.2.2) s
  else
    let s1 := s.giveSlot c core new
    match s1.fetch c with
    | .inl r => r
    | .inr i => run i s1

/-- A parked set whose wait may be over is ready again, and executes its word anew (R55). -/
def State.unpark (s : State) (c : Cur) : State := s.onTset c fun x => { x with phase := .ready, readyAt := s.clk }

/-- Make a move. -/
def State.turn (run : Instr → State → Res) (s : State) : Turn → Res
  | .word c core new => s.issueWord run c core new
  | .again c => .next (s.unpark c)
  | .event i => run i s

/-- An event may happen: it changes the state. -/
def State.changes (run : Instr → State → Res) (s : State) (i : Instr) : Bool :=
  match run i s with | .next t => t != s | _ => true

/-- A parked set may try again: its walks have ended, its remote accesses are answered, or its word would now do
something. -/
def State.mayRetry (run : Instr → State → Res) (s : State) (c : Cur) : Bool :=
  match s.view c with
  | none => false
  | some (t, g, ts) =>
    if !t.resident || ts.stop || s.coreIdle (t.coreNo (s.tcore t g.index)) then false
    else match ts.phase with
    | .parked .walk => !s.walks.any fun w => w.waiters.contains (waiterOf c)
    | .parked (.remote k) => !s.accesses.any fun a => a.kind == 0 && a.id - a.part == k
    | .parked .join | .parked (.lsync _) => false
    | .parked _ =>
      let s1 : State := { s with cur := some c }
      match s1.fetch c with
      | .inl _ => false
      | .inr i => s1.changes run i
    | _ => false

/-- Parked sets. -/
def State.parkedSets (s : State) : List Cur :=
  s.allSets.filterMap fun x => match x.2.2.phase with | .parked _ => some (x.1.id, x.2.1.index, x.2.2.id) | _ => none

/-- May the move be made? -/
def State.allows? (run : Instr → State → Res) (s : State) : Turn → Bool
  | .word .. => true
  | .again c => s.mayRetry run c
  | .event i => s.changes run i

/-- A list begun at another of its elements. -/
def rotated {α : Type} (n : Nat) (xs : List α) : List α := xs.drop (n % xs.length) ++ xs.take (n % xs.length)

/-- Every move that the state offers: the cores' first, and every eighth ac the other agents' first, each time from another
of them, so that none is passed over for ever (R131). (DESIGN CHOICE, log entry 12) -/
def State.offers (s : State) : List Turn :=
  let words := s.wordMoves.map fun m => Turn.word m.1 m.2.1 m.2.2
  let others := rotated (s.clk / 8) (s.parkedSets.map Turn.again ++ s.acts.map Turn.event)
  if s.clk % 8 = 7 then others ++ words else words ++ others

/-- The move made: the first that may be, or the one that the schedule picks among them.
(DESIGN CHOICE, log entry 12) -/
def State.choice (run : Instr → State → Res) (s : State) : Option Turn × List Nat :=
  match s.picks with
  | [] => (s.offers.find? (s.allows? run), [])
  | p :: ps =>
    let ms := s.offers.filter (s.allows? run)
    match ms[p % ms.length]? with
    | some m => (some m, ps)
    | none => (none, p :: ps)

/-- Boot, an input that is due, a timer, a move, or nothing; outside RUN only the timers of links, sensors and errors (R4, R340,
R371).
(DESIGN CHOICE, log entry 10; DESIGN CHOICE, log entry 12) -/
def State.act1 (run : Instr → State → Res) (s : State) : Res :=
  if s.fw.state = 0 ∧ !s.pwr.off then run .packageReset s
  else match dueInput s.inputs with
  | some (i, rest) =>
    let s1 : State := { s with inputs := rest }
    if s.fw.phase ≠ 0 ∧ Instr.cxqWrite i then .next { s1 with fw := { s.fw with heldWrites := s.fw.heldWrites ++ [i] } }
    else if s1.admits i then run i s1 else .next s1
  | none =>
    if s.pwr.off then .next s
    else match s.timers.find? fun i => s.admits i && s.changes run i with
    | some i => run i s
    | none =>
      if s.fw.state ≠ 1 then .next s
      else
        let m := s.choice run
        match m.1 with
        | some x => ({ s with picks := m.2 } : State).turn run x
        | none => .next s

/-! ### A program in place (R103 to R110, R119, R124) -/

/-- A kernel of one team of one group whose text is the given words. -/
def kernelOfText (text : List Word) : Kernel :=
  { text := text.map fun w => w &&& ~~~(1 <<< 127 : Word)
    dbg := (text.zipIdx.filter fun (x : Word × Nat) => x.1.getLsbD 127).map (·.2)
    roles := [⟨0, 1, 256⟩] }

/-- A launch of it in context 0. (DESIGN CHOICE, log entry 10) -/
def launchOfText (text : List Word) : Launch :=
  { id := 1, num := 0, ctx := 0, slot := 0, kernel := kernelOfText text, gx := 1, gy := 1, gz := 1, read := true, phase := 1, first := 1 }

/-- The package with its firmware running and one team of one group resident on core 0, about to issue the first of the
given words, and nothing else that could act before it. (DESIGN CHOICE, log entry 10) -/
def State.withText (s : State) (text : List Word) : State :=
  let l := launchOfText text
  let base : State := { s with
    clk := 8 * (s.clk / 8)
    ctxs := [(0, { state := 2, keys := 1, rooted := true })]
    launches := [{ l with nextTeam := 1 }]
    teams := []
    cores := []
    frags := []
    accesses := []
    links := []
    eps := []
    pg := {}
    dbg := {}
    fw := { s.fw with state := 1, frozen := [] }
    pwr := {}
    issue := []
    inputs := []
    picks := []
    cur := none
    nextId := 2 }
  { base with teams := [base.newTeam l 0 [0]], nextId := 3 }

end Sys2Proof.Machine
end

