-- ==== Sys2Proof/Machine/Step.lean ====
section
/-!
DEFINITION. One step of the package: one ac passes, and one thing happens.
-/
namespace Sys2Proof.Machine

/-- One step. (DESIGN CHOICE, log entry 12) -/
def step (s : State) : Host.Outcome State Fault Refusal := s.tick.act1 exec

/-- The state with one word, its bits above `nbits` zero, where the next step fetches: the only word of the text of a kernel
that a thread set is about to begin. (DESIGN CHOICE, log entry 10) -/
def State.withFetchWord (s : State) (nbits w : Nat) : State := s.withText [BitVec.ofNat 128 (w % 2 ^ nbits)]

end Sys2Proof.Machine
end

