-- ==== Sys2Proof/Claims.lean ====
section
/-!
DEFINITION. The terms that claims use: who issues, what a word may change, and what it leaves unchanged.
-/
namespace Sys2Proof.Machine

/-- The thread set `c` issues in `s`: it is the current one, and stands in its team and group as given. -/
structure Issues (s : State) (c : Cur) (t : Team) (g : Group) (ts : TSet) : Prop where
  cur : s.cur = some c
  view : s.view c = some (t, g, ts)

/-- The lanes active for a word with the guard `grd` (R48). -/
abbrev State.wordWindow (s : State) (t : Team) (g : Group) (ts : TSet) (grd : BitVec 4) : W :=
  s.window t g ts (activeLanes g ts grd)

/-- From `s` to `s1` the group of `c` has become `g1` and its thread set `ts1`. Beside them only the counter of free values
may differ: no other thread set, no other group or team, no special register, queue, engine or table, and no byte of
memory, scratch included. -/
structure OnlyGroup (s s1 : State) (c : Cur) (t : Team) (g g1 : Group) (ts1 : TSet) : Prop where
  here : ∃ t1 : Team, s1.view c = some (t1, g1, ts1) ∧ { t1 with groups := t.groups } = t
  sets : ∀ k, k ≠ c.2.2 → g1.tset? k = g.tset? k
  others : ∀ d : Cur, (d.1 ≠ c.1 ∨ d.2.1 ≠ c.2.1) → (s1.view d).map (fun x => x.2) = (s.view d).map fun x => x.2
  rest : { s1 with teams := s.teams, free := s.free } = s

/-- From `s` to `s1` the thread set of `c` has become `ts1`. Beside it only the counter of free values may differ. -/
def OnlySet (s s1 : State) (c : Cur) (t : Team) (g : Group) (ts1 : TSet) : Prop :=
  ∃ g1, OnlyGroup s s1 c t g g1 ts1 ∧ { g1 with tsets := g.tsets } = g

/-- Bytes `pa` to `pa + n − 1`. -/
def Inside (pa n a : Nat) : Prop := pa ≤ a ∧ a < pa + n

/-- The device's own access of an address of a context, of `n` bytes, reaches the byte at `pa`; the walk for it leaves `s0`, which
differs from `s` at most in the A and D bits of the leaf (R85, R196). -/
def DevAt (s : State) (ctx va kind : Nat) (s0 : State) (pa : Nat) (n : Nat := 8) : Prop := s.devPlace ctx va kind n = (s0, .at pa)

/-- An access that core `m` of the command complex makes under a context's translation reaches the byte at `pa`, through one of
the core's windows; `s0` is as in `DevAt` (R85, R344). -/
def CxAt (s : State) (m ctx va kind : Nat) (s0 : State) (pa : Nat) : Prop := s.cxPlace m ctx va kind = (s0, .at pa)

/-- The thread set stands at the next word, ready; nothing else of it has changed but what a word may write: its
temporaries, its overlays, its flags and its acts held to the commit. -/
structure Advanced (ts ts1 : TSet) : Prop where
  pc : ts1.pc = ts.pc + 1
  ready : ts1.phase = .ready
  rest : { ts1 with
    pc := ts.pc, phase := ts.phase, fresh := ts.fresh, got := ts.got, got2 := ts.got2, met := ts.met,
    aliases := ts.aliases, readyAt := ts.readyAt, temps := ts.temps, undoV := ts.undoV, undoP := ts.undoP, gOv := ts.gOv,
    lsOv := ts.lsOv, seedOv := ts.seedOv, recOv := ts.recOv, profOv := ts.profOv, fl := ts.fl, flWrite := ts.flWrite,
    held := ts.held, hot := ts.hot, prot := ts.prot } = ts

/-- The overlays that no register destination touches, and the acts held, are as they were. -/
def SameActs (ts ts1 : TSet) : Prop :=
  ts1.lsOv = ts.lsOv ∧ ts1.seedOv = ts.seedOv ∧ ts1.recOv = ts.recOv ∧ ts1.profOv = ts.profOv ∧ ts1.flWrite = ts.flWrite ∧
    ts1.held = ts.held ∧ ts1.hot = ts.hot ∧ ts1.prot = ts.prot

/-- The lane registers, uniform registers and temporaries that a write of `val` to `o` in the active lanes of `w` leaves:
the destination holds the values and every other register reads as before (R24, R44, R45, R126). Nothing else of the group
differs. -/
structure Wrote (w w1 : W) (o : Opd) (val : Nat → Reg) : Prop where
  lane : ∀ n l, o = .v n → l ∈ w.act → w1.vRead n.toNat l = val l
  laneOther : ∀ k, (∀ n l, o = .v n → l ∈ w.act → k ≠ laneKey n.toNat l) → aget marker w1.grp.v k = aget marker w.grp.v k
  uniform : ∀ n, o = .g n → w.act ≠ [] → w1.gRead n.toNat = val w.low
  uniformOther : ∀ k, (∀ n, o = .g n → w.act ≠ [] → k ≠ n.toNat) → w1.gRead k = w.gRead k
  temp : ∀ i l, o = .t i → l ∈ w.act → w1.tRead i.val l = val l
  tempOther : ∀ i l, (∀ j m, o = .t j → m ∈ w.act → laneKey i l ≠ laneKey j.val m) → w1.tRead i l = w.tRead i l
  group : { w1.grp with v := w.grp.v, tsets := w.grp.tsets } = w.grp

/-- The predicates that a write of `val` to `o` leaves: the destination holds the values, p0 stays true and every other
predicate is as before (R45, R48). Nothing else of the group differs, and no register of the thread set. -/
structure WrotePred (w w1 : W) (o : Opd) (val : Nat → Bool) : Prop where
  pred : ∀ i l, o = .p i → i.val ≠ 0 → l ∈ w.act → w1.grp.pred l i.val = val l
  zero : ∀ l, w1.grp.pred l 0 = true
  other : ∀ l j, (∀ i, o = .p i → i.val ≠ 0 → l ∈ w.act → j ≠ i.val) → w1.grp.pred l j = w.grp.pred l j
  group : { w1.grp with p := w.grp.p, tsets := w.grp.tsets } = w.grp
  regs : w1.ts.temps = w.ts.temps ∧ w1.ts.gOv = w.ts.gOv

/-- The instruction completes for the issuing set `c`, whose active lanes under the guard `grd` are those of the window: a
next state that differs from `s` in the set's own group alone, with the set at its next word, and `P` of the window before
and after. -/
def Completes (i : Instr) (s : State) (c : Cur) (t : Team) (g : Group) (ts : TSet) (grd : BitVec 4) (P : W → W → Prop) :
    Prop :=
  ∃ s1 g1 ts1, exec i s = .next s1 ∧ OnlyGroup s s1 c t g g1 ts1 ∧ Advanced ts ts1 ∧
    P (s.wordWindow t g ts grd) { s.wordWindow t g ts grd with grp := g1, ts := ts1 }

/-- What a word with one register destination does: its guard, its destination, the value it writes in each active lane
and the flags it raises. -/
structure RegSpec where
  grd : BitVec 4
  dst : Opd
  val : W → Nat → Reg
  fl  : W → Flags := fun _ => 0

/-- What a word with one predicate destination does. -/
structure PredSpec where
  grd : BitVec 4
  dst : Opd
  val : W → Nat → Bool
  fl  : W → Flags := fun _ => 0

/-- The word writes its destination and raises its flags, and does nothing else. -/
def RegSpec.Done (e : RegSpec) (w w1 : W) : Prop :=
  Wrote w w1 e.dst (e.val w) ∧ w1.ts.fl = w.ts.fl ||| e.fl w ∧ SameActs w.ts w1.ts

/-- The word writes its predicate and raises its flags, and does nothing else. -/
def PredSpec.Done (e : PredSpec) (w w1 : W) : Prop :=
  WrotePred w w1 e.dst (e.val w) ∧ w1.ts.fl = w.ts.fl ||| e.fl w ∧ SameActs w.ts w1.ts

/-- The registers, temporaries and predicates of the group are as they were, as is everything of it but its thread sets. -/
def SameRegs (w w1 : W) : Prop :=
  { w1.grp with tsets := w.grp.tsets } = w.grp ∧ w1.ts.temps = w.ts.temps ∧ w1.ts.gOv = w.ts.gOv

end Sys2Proof.Machine
end

