-- ==== Sys2Proof/Machine/Registers.lean ====
section
/-!
DEFINITION. What a read of a memory-mapped register returns (R6): its RW and RO fields, zero for WO and RSV fields, and for a
`PG_M…` register of a quay die or a selected context, queue, link or endpoint that one's value.
-/
namespace Sys2Proof.Machine

/-- The registers of the package. -/
inductive RegName where
  | cxqCsel | cxqCkeys | cxqCtag | cxqCcmd | cxqCfring | cxqCfptr | cxqCflost | cxqCswap | cxqCswlen
  | cxqQsel | cxqQring | cxqQwake | cxqQcfg | cxqQuant | cxqCancel | cxqCanst
  | cxqKimg | cxqKlen | cxqKdiag | cxqKst | cxqKunld | cxqKprof | cxqKpbuf
  | pgRoot | pgFq | pgFqt | pgFqh | pgFres | pgInval | pgCthr | pgHotq
  | pgMsrc (quay : Fin 4) | pgMdst (quay : Fin 4) | pgMpte (quay : Fin 4) | pgMctl (quay : Fin 4) | pgRepl
  | lkSel | lkStat | lkEye | lkThr | lkCtl | lkErr
  | ntEpsel | ntEpcfg | ntEpaddr0 | ntEpaddr1 | ntEpctl | ntPkt | ntFab
  | dbgCtl | dbgTxt | dbgSel | dbgSelg | dbgVal | dbgUev | dbgCmd | dbgSmp | dbgSring | dbgSptr
  | taClk | taQrec | taQid
  | fwId | fwSt | fwUpd | fwWin (k : Fin 8) | fwFrz | fwFrzc | fwErr | fwKey
  deriving DecidableEq, Repr

/-- A value whose fields are given with the places of their lowest bits. -/
def fields (fs : List (Nat × Nat)) : BitVec 64 := BitVec.ofNat 64 (fs.map fun f => f.2 * 2 ^ f.1).sum

/-- `FW_ID`: PART 0x16 and the revision, which is part of every translation's key (R10, R351). -/
def fwIdent : BitVec 64 := fields [(8, 0x16), (0, revision)]

/-- A register of the selected link; 0 where INDEX selects none (R309). -/
def State.readLink (s : State) (f : Link → Nat → Nat) : BitVec 64 :=
  match s.selLink with | some n => BitVec.ofNat 64 (f (s.link n) (linkKind n)) | none => 0

/-- The value that a read of a register returns (R6, R70, R71, R84, R85, R95, R103, R117, R206, R309, R316, R326, R335, R338,
R351). A bit that acts when 1 is written to it (W1S), and for which no rule says when it clears, reads 0.
(DEDUCED, log entry 54) -/
def State.readRegister (s : State) (r : RegName) : BitVec 64 :=
  let c := s.ctx s.cxq.csel
  let q := s.queue s.cxq.qsel
  let e := s.ep s.nt.epsel
  let f := s.fw
  match r with
  | .cxqCsel => fields [(0, s.cxq.csel)]
  | .cxqCkeys => c.keys
  | .cxqCtag => c.tag.zeroExtend 64
  | .cxqCcmd => fields [(12, c.res), (8, c.state)]
  | .cxqCfring => c.fring
  | .cxqCfptr => c.fhead ++ c.ftail
  | .cxqCflost => c.flost.zeroExtend 64
  | .cxqCswap => c.swap
  | .cxqCswlen => c.swlen
  | .cxqQsel => fields [(0, s.cxq.qsel)]
  | .cxqQring => q.ring
  | .cxqQwake => q.wakePage
  | .cxqQcfg => fields [(14, q.state), (8, q.ctx), (4, q.pri), (0, bitOf q.en)]
  | .cxqQuant => s.cxq.quant
  | .cxqCancel => 0
  | .cxqCanst => fields [(0, s.cxq.canst)]
  | .cxqKimg => s.cxq.kimg
  | .cxqKlen => s.cxq.klen
  | .cxqKdiag => s.cxq.kdiag
  | .cxqKst => fields [(32, s.cxq.khandle.toNat), (0, s.cxq.kres)]
  | .cxqKunld => 0
  | .cxqKprof => fields [(0, s.cxq.kpres)]
  | .cxqKpbuf => s.cxq.kpbuf
  | .pgRoot => let n := fieldOf s.pg.root.toNat 44 6; fields [(44, n), (0, (s.ctx n).root.toNat)]
  | .pgFq => s.pg.fq
  | .pgFqt => s.pg.fqt.zeroExtend 64
  | .pgFqh => s.pg.fqh.zeroExtend 64
  | .pgFres => 0
  | .pgInval => s.pg.inval
  | .pgCthr => s.pg.cthr
  | .pgHotq => s.pg.hotq
  | .pgMsrc k => (s.mig k.val).src
  | .pgMdst k => (s.mig k.val).dst
  | .pgMpte k => (s.mig k.val).pte
  | .pgMctl k => fields [(5, (s.mig k.val).status), (3, (s.mig k.val).size), (1, bitOf (s.mig k.val).busy)]
  | .pgRepl => fields [(0, s.pg.replS)]
  | .lkSel => s.nt.lksel
  | .lkStat => s.readLink fun x k => x.stat k
  | .lkEye => s.readLink fun x k => x.eye k (fieldOf s.nt.lksel.toNat 9 7)
  | .lkThr => s.readLink fun x _ => x.thr.toNat
  | .lkCtl => s.readLink fun x _ => bitOf x.irq * 2 ^ 8 + bitOf x.auto * 8
  | .lkErr => s.readLink fun x _ => x.corr.toNat * 2 ^ 32 + x.fail.toNat
  | .ntEpsel => fields [(0, s.nt.epsel)]
  | .ntEpcfg => fields [(51, e.ctx), (48, e.port), (0, e.job)]
  | .ntEpaddr0 => e.addr0
  | .ntEpaddr1 => e.addr1
  | .ntEpctl => fields [(48, e.gen.toNat), (0, e.state)]
  | .ntPkt => s.nt.pkt
  | .ntFab => s.nt.fab
  | .dbgCtl => s.dbg.ctl
  | .dbgTxt => fields [(0, s.dbg.txtRes)]
  | .dbgSel => s.dbg.sel
  | .dbgSelg => s.dbg.selg
  | .dbgVal => s.selValue
  | .dbgUev => s.selUev
  | .dbgCmd => 0
  | .dbgSmp => s.dbg.smp
  | .dbgSring => s.dbg.sring
  | .dbgSptr => s.dbg.head ++ s.dbg.tail
  | .taClk => BitVec.ofNat 64 s.clk
  | .taQrec => q.qrec
  | .taQid => q.qid
  | .fwId => fwIdent
  | .fwSt => fields [(32, f.floor), (7, bitOf f.fallback), (6, f.slot), (0, f.state)]
  | .fwUpd => f.upd ||| fields [(8, f.updS)]
  | .fwWin k => aget 0 f.win k.val
  | .fwFrz => f.frz
  | .fwFrzc => fields [(0, f.frzc)]
  | .fwErr => f.corr ++ f.last
  | .fwKey => fields [(14, f.keyS)]

end Sys2Proof.Machine
end

