-- ==== Sys2Proof/Certificates/Slice0/Obligations.lean ====
section
/-!
DEFINITION. The statements about the model, for the provers. Each names the rules of spec/ that it formalises.
-/
namespace Sys2Proof.Machine

/-! ### Words that write one register destination -/

/-- A word of class 0 whose elements are computed exactly and then fitted to the type (R152, R157). -/
def arithSpec (x : RWord) (op : Int → Int → Int → Int) : RegSpec :=
  let r (w : W) (l : Nat) : IntRes :=
    elementwise x.typ (satOf x.mod) op (w.srcT x.typ x.sa l) (w.srcT x.typ x.sb l) (w.srcT x.typ x.sc l)
  ⟨x.grd, x.dst, fun w l => (r w l).val, fun w => flagIf (w.act.any fun l => (r w l).sat) fSAT⟩

/-- A word whose sources are whole registers and whose result may saturate. -/
def satSpec (x : RWord) (f : Reg → Reg → Reg → IntRes) : RegSpec :=
  let r (w : W) (l : Nat) : IntRes := f (w.src x.sa l) (w.src x.sb l) (w.src x.sc l)
  ⟨x.grd, x.dst, fun w l => (r w l).val, fun w => flagIf (w.act.any fun l => (r w l).sat) fSAT⟩

/-- A word that maps its sources, read at its type, to a register. -/
def mapSpec (x : RWord) (f : Reg → Reg → Reg → Reg) : RegSpec where
  grd := x.grd
  dst := x.dst
  val := fun w l => f (w.srcT x.typ x.sa l) (w.srcT x.typ x.sb l) (w.srcT x.typ x.sc l)

/-- A word that maps whole source registers to a register. -/
def rawSpec (x : RWord) (f : Reg → Reg → Reg → Reg) : RegSpec where
  grd := x.grd
  dst := x.dst
  val := fun w l => f (w.src x.sa l) (w.src x.sb l) (w.src x.sc l)

/-- The integer and address words with a register destination (R154 to R170). -/
def intSpec : Instr → Option RegSpec
  | .mov x => some (mapSpec x fun a _ _ => moveReg x.typ a)
  | .movi x => some
      { grd := x.grd, dst := x.dst
        val := fun w l =>
          if x.mod == 0 then scalarReg x.typ (if tI x.typ then (x.imm.signExtend 64).toNat else x.imm.toNat)
          else x.imm ++ ((w.src x.dst l).extractLsb' 0 32) }
  | .sel x => some
      { grd := x.grd, dst := x.dst
        val := fun w l => moveReg x.typ (if w.predSrc x.sc l then w.srcT x.typ x.sa l else w.srcT x.typ x.sb l) }
  | .add x => some (arithSpec x opAdd)
  | .sub x => some (arithSpec x opSub)
  | .neg x => some (arithSpec x opNeg)
  | .abs x => some (arithSpec x opAbs)
  | .min x => some (arithSpec x opMin)
  | .max x => some (arithSpec x opMax)
  | .mul x => some (arithSpec x opMul)
  | .mulhi x => some (arithSpec x (opMulhi (tyWidth x.typ)))
  | .mad x => some (arithSpec x opMad)
  | .madw x => some (satSpec x fun a b c => madw x.typ (satOf x.mod) a b c)
  | .div x => some (rawSpec x fun a b _ => scalarReg x.typ (divRem x.typ a b).1)
  | .rem x => some (rawSpec x fun a b _ => scalarReg x.typ (divRem x.typ a b).2)
  | .sad x => some
      { grd := x.grd, dst := x.dst
        val := fun w l => sad x.typ (w.srcT x.typ x.sa l) (w.srcT x.typ x.sb l) (w.src x.sc l) }
  | .dot4 x => some (satSpec x fun a b c => dot4 x.typ (satOf x.mod) a b c)
  | .and x => some (mapSpec x fun a b _ => logicReg x.typ (a &&& b))
  | .or x => some (mapSpec x fun a b _ => logicReg x.typ (a ||| b))
  | .xor x => some (mapSpec x fun a b _ => logicReg x.typ (a ^^^ b))
  | .not x => some (mapSpec x fun a _ _ => logicReg x.typ (~~~a))
  | .andn x => some (mapSpec x fun a b _ => logicReg x.typ (a &&& ~~~b))
  | .shl x => some (mapSpec x fun a b _ => shiftReg 0 x.typ a b)
  | .shr x => some (mapSpec x fun a b _ => shiftReg 1 x.typ a b)
  | .sar x => some (mapSpec x fun a b _ => shiftReg 2 x.typ a b)
  | .rot x => some (mapSpec x fun a b _ => shiftReg 3 x.typ a b)
  | .bfx x => some (rawSpec x fun a b _ => bfx x.typ a b)
  | .bfi x => some (rawSpec x fun a b c => bfi x.typ a b c)
  | .popc x => some (mapSpec x fun a _ _ => mapElems popcount x.typ a)
  | .clz x => some (mapSpec x fun a _ _ => mapElems countLeading x.typ a)
  | .ctz x => some (mapSpec x fun a _ _ => mapElems countTrailing x.typ a)
  | .brev x => some (mapSpec x fun a _ _ => mapElems reverseBits x.typ a)
  | .perm x => some (rawSpec x perm)
  | .swz x => some
      { grd := x.grd, dst := x.dst, val := fun w l => swz x.typ (w.srcT x.typ x.sa l) (w.src x.sb l) }
  | .pack x => some
      { grd := x.grd, dst := x.dst
        val := fun w l => (packNarrow x.typ (satOf x.mod) (w.srcWide x.typ x.sa l) (w.srcWide x.typ x.sb l)).val
        fl := fun w => flagIf
          (w.act.any fun l => (packNarrow x.typ (satOf x.mod) (w.srcWide x.typ x.sa l) (w.srcWide x.typ x.sb l)).sat) fSAT }
  | .unpk x => some (mapSpec x fun a _ _ => unpackWiden x.typ (x.mod.getLsbD 0) a)
  | .lea x => some
      { grd := x.grd, dst := x.dst
        val := fun w l => lea x.typ (x.mod.getLsbD 0) (fieldOf x.aux6.toNat 0 3) (w.src x.sa l) (w.src x.sb l) x.imm }
  | .cmpv x => some (mapSpec x fun a b _ => cmpv x.typ (modField x.mod 0 3) a b)
  | .cvt x => some (satSpec x fun a _ _ => cvtInt x.typ ((auxTyp x.aux).getD .i8) (satOf x.mod) a)
  | _ => none

/-- A floating word whose elements are computed from the element bits of its sources (R39, R174). -/
def elemSpec (x : RWord) (f : RMode → Nat → Nat → Nat → FRes) : RegSpec :=
  let r (w : W) (l : Nat) : Reg × Flags :=
    packRes x.typ <| (List.range (tyElems x.typ)).map fun e =>
      f (w.mode x.mod l e) (w.srcF x.typ x.sa l e) (w.srcF x.typ x.sb l e) (w.srcF x.typ x.sc l e)
  ⟨x.grd, x.dst, fun w l => (r w l).1, fun w => flagsOf (fun l => (r w l).2) w.act⟩

/-- Operands read at the type, one exact operation, one rounding (R177). -/
def roundSpec (x : RWord) (op : RMode → FVal → FVal → FVal → FVal × Flags) : RegSpec :=
  elemSpec x fun mode a b c =>
    let f := fmtOf x.typ
    let z := ftzOf x.mod
    let r := op mode (readF f z a) (readF f z b) (readF f z c)
    (roundF f mode z r.1).with r.2

/-- A floating word with one result a lane. -/
def laneSpec (x : RWord) (r : W → Nat → Reg × Flags) : RegSpec :=
  ⟨x.grd, x.dst, fun w l => (r w l).1, fun w => flagsOf (fun l => (r w l).2) w.act⟩

/-- The floating, special-function and quantising words with a register destination, and the sources whose markers they
check (R37, R177 to R193). -/
def floatSpec : Instr → Option (List (Nat × Opd) × RegSpec)
  | .fadd x => some (srcs2 x, roundSpec x faddOp)
  | .fsub x => some (srcs2 x, roundSpec x fsubOp)
  | .fmul x => some (srcs2 x, roundSpec x fmulOp)
  | .fma x => some (srcs3 x, roundSpec x fmaOp)
  | .fmin x => some (srcs2 x, elemSpec x fun _ a b _ => minmaxF (fmtOf x.typ) false (ftzOf x.mod) a b)
  | .fmax x => some (srcs2 x, elemSpec x fun _ a b _ => minmaxF (fmtOf x.typ) true (ftzOf x.mod) a b)
  | .fabs x => some (srcs1 x, elemSpec x fun _ a _ _ => ⟨a % (fmtOf x.typ).signBit, 0⟩)
  | .fneg x => some (srcs1 x, elemSpec x fun _ a _ _ => ⟨a ^^^ (fmtOf x.typ).signBit, 0⟩)
  | .fdiv x => some (srcs2 x, roundSpec x fdivOp)
  | .fsqrt x => some (srcs1 x, roundSpec x fun _ a _ _ => (sqrtF (fmtOf x.typ) a, 0))
  | .frnd x => some (srcs1 x, elemSpec x fun mode a _ _ => frndF (fmtOf x.typ) mode (ftzOf x.mod) a)
  | .frcp x => some (srcs1 x, roundSpec x fun _ a _ _ => divF (.fin false 1 1) a)
  | .frsq x => some (srcs1 x, roundSpec x fun _ a _ _ => rsqrtF (fmtOf x.typ) a)
  | .ex2 x => some (srcs1 x, elemSpec x fun _ a _ _ => specF (fmtOf x.typ) (ftzOf x.mod) .ex2 (readF (fmtOf x.typ) (ftzOf x.mod) a))
  | .lg2 x => some (srcs1 x, elemSpec x fun _ a _ _ => specF (fmtOf x.typ) (ftzOf x.mod) .lg2 (readF (fmtOf x.typ) (ftzOf x.mod) a))
  | .fexp x => some (srcs1 x, elemSpec x fun _ a _ _ => specF (fmtOf x.typ) (ftzOf x.mod) .fexp (readF (fmtOf x.typ) (ftzOf x.mod) a))
  | .flog x => some (srcs1 x, elemSpec x fun _ a _ _ => specF (fmtOf x.typ) (ftzOf x.mod) .flog (readF (fmtOf x.typ) (ftzOf x.mod) a))
  | .fsin x => some (srcs1 x, elemSpec x fun _ a _ _ => specF (fmtOf x.typ) (ftzOf x.mod) .fsin (readF (fmtOf x.typ) (ftzOf x.mod) a))
  | .fcos x => some (srcs1 x, elemSpec x fun _ a _ _ => specF (fmtOf x.typ) (ftzOf x.mod) .fcos (readF (fmtOf x.typ) (ftzOf x.mod) a))
  | .ftanh x => some (srcs1 x, elemSpec x fun _ a _ _ => specF (fmtOf x.typ) (ftzOf x.mod) .ftanh (readF (fmtOf x.typ) (ftzOf x.mod) a))
  | .fsigm x => some (srcs1 x, elemSpec x fun _ a _ _ => specF (fmtOf x.typ) (ftzOf x.mod) .fsigm (readF (fmtOf x.typ) (ftzOf x.mod) a))
  | .fclass x => some (srcs1 x,
      { grd := x.grd, dst := x.dst
        val := fun w l => BitVec.ofNat 64 (2 ^ classBit (fmtOf x.typ) (w.srcF x.typ x.sa l 0)) })
  | .flg x =>
    if x.mod.getLsbD 5 then
      some (srcs2 x, laneSpec x fun w l =>
        let k := signedOf 32 ((w.src x.sb l).toNat % 2 ^ 32)
        let r := roundF (fmtOf x.typ) (w.mode x.mod l 0) (ftzOf x.mod)
          (scaleF (readF (fmtOf x.typ) (ftzOf x.mod) (w.srcF x.typ x.sa l 0)) k)
        (scalarReg x.typ r.bits, r.fl))
    else
      some (srcs1 x, laneSpec x fun w l =>
        let r := exponentOf (fmtOf x.typ) (w.srcF x.typ x.sa l 0)
        (BitVec.ofInt 64 r.1, r.2))
  | .fcvt x => some (srcs1 x, laneSpec x fun w l =>
      let r := convertTo x.typ (w.mode x.mod l 0) (ftzOf x.mod) (w.convSrc (srcTyp x) (ftzOf x.mod) x.sa l)
      (scalarReg x.typ r.bits, r.fl))
  | .f2i x => some (srcs1 x, laneSpec x fun w l =>
      let r := toInt x.typ (w.mode x.mod l 0) (w.convSrc (srcTyp x) (ftzOf x.mod) x.sa l)
      (scalarReg x.typ r.bits, r.fl))
  | .i2f x => some (srcs1 x, laneSpec x fun w l =>
      let r := roundF (fmtOf x.typ) (w.mode x.mod l 0) false (ofIntF (elemInt (srcTyp x) 0 (w.src x.sa l)))
      (scalarReg x.typ r.bits, r.fl))
  | .qmax x => some (if x.typ == .f32x2 then srcs2 x else srcs1 x, laneSpec x fun w l =>
      let n := match x.sc with | .ls i => w.lsRead i.val | _ => 32
      let vals : List FVal := (w.segment n l).flatMap fun j => [0, 1, 2, 3].map fun k =>
        readF (fmtOf x.typ) (ftzOf x.mod) (w.blockElem x.typ x.sa x.sb j k)
      let m := vals.foldl magMax (.fin false 0 1, false)
      (scalarReg .f32 (if m.2 then fmtF32.nan else (roundF fmtF32 .rne false m.1).bits),
        flagIf (vals.any (· == .nan true)) fNV))
  | .qscl x => some (srcs1 x, laneSpec x fun w l =>
      let r := quantScale (x.typ == .md8) (w.srcF .f32 x.sa l 0)
      (scalarReg .s16 r.bits, r.fl))
  | .qcvt x => some (if srcTyp x == .f32x2 then srcs3 x else [(2, x.sa), (4, x.sc)], laneSpec x fun w l =>
      let rs := [0, 1, 2, 3].map fun k =>
        quantElem (x.typ == .md8) (w.mode x.mod l k) (decodeS16 ((w.src x.sc l).toNat % 65536))
          (readF (fmtOf (srcTyp x)) (ftzOf x.mod) (w.blockElem (srcTyp x) x.sa x.sb l k))
      (packElems 8 (rs.map (·.bits)), flagsOf (·.fl) rs))
  | .dqcvt x => some (srcs2 x, laneSpec x fun w l =>
      packRes x.typ <| (List.range (tyElems x.typ)).map fun e =>
        dequantElem (fmtOf x.typ) (srcTyp x == .md8) (w.mode x.mod l e) (ftzOf x.mod)
          (decodeS16 ((w.src x.sb l).toNat % 65536)) (elemBits 8 ((if x.mod.getLsbD 5 then 2 else 0) + e) (w.src x.sa l)))
  | .fdot2 x => some (srcs3 x, laneSpec x fun w l =>
      let el (o : Opd) (k : Nat) : FVal :=
        readF (fmtOf (srcTyp x)) (ftzOf x.mod) (w.srcF (srcTyp x) o l ((if x.mod.getLsbD 5 then 2 else 0) + k))
      let r := roundF fmtF32 (w.mode x.mod l 0) (ftzOf x.mod) <| sumF (w.mode x.mod l 0)
        [readF fmtF32 (ftzOf x.mod) (w.srcF .f32 x.sc l 0), mulF (el x.sa 0) (el x.sb 0), mulF (el x.sa 1) (el x.sb 1)]
      (scalarReg .f32 r.bits, r.fl))
  | _ => none

/-- The lane-set words with a register destination, among the active lanes of a segment (R145 to R148). -/
def laneSetSpec : Instr → Option RegSpec
  | .ballot x => some
      { grd := x.grd, dst := x.dst
        val := fun w l => maskReg ((w.segment (w.seg x.sb) l).filter fun j => w.predSrc x.sa j) }
  | .matchEq x => some
      { grd := x.grd, dst := x.dst
        val := fun w l => maskReg ((w.segment (w.seg x.sb) l).filter fun j =>
          elemBits (tyWidth x.typ) 0 (w.src x.sa j) == elemBits (tyWidth x.typ) 0 (w.src x.sa l)) }
  | .lmask x => some
      { grd := x.grd, dst := x.dst
        val := fun w l =>
          match modField x.mod 0 2 with
          | 0 => maskReg (w.segment (w.seg x.sa) l)
          | 1 => maskReg (w.ts.lanes.filter fun j => j / w.seg x.sa == l / w.seg x.sa)
          | _ => maskReg (lanes32.filter fun j => j / w.seg x.sa == l / w.seg x.sa && !w.grp.exited.contains j) }
  | .shfl x => some
      { grd := x.grd, dst := x.dst
        val := fun w l =>
          let wd := tyWidth x.typ
          let ne := 64 / wd
          let n := w.seg x.sc
          packElems wd <| (List.range ne).map fun e =>
            let base := l - l % n
            let d := match x.sb with
              | .imm k => wrapBits wd (immVal k)
              | o => elemBits wd e (w.src o l)
            let q := shflPos (modField x.mod 0 2) n ne ((l - base) * ne + e) d
            let j := base + (q / ne).toNat
            if q < 0 ∨ (n * ne : Nat) ≤ q ∨ !w.active j then elemBits wd e (w.src x.sa l)
            else elemBits wd (q % ne).toNat (w.src x.sa j) }
  | .bcast x => some
      { grd := x.grd, dst := x.dst
        val := fun w l =>
          let n := w.seg x.sc
          let j := l - l % n + (w.src x.sb l).toNat % n
          if w.active j then w.src x.sa j else w.src x.sa ((w.segment n l).headD l) }
  | .rdfl x => some
      { grd := x.grd, dst := x.dst, val := fun w l => w.src x.sa ((w.segment (w.seg x.sb) l).headD l) }
  | .gred x => some
      { grd := x.grd, dst := x.dst
        val := fun w l => scalarReg x.typ
          (((w.scanOf x l).getLast?.map fun r => r.2.2.1).getD (redIdentity (modField x.mod 0 3) x.typ))
        fl := fun w => flagsOf (fun l => flagsOf (fun r => r.2.2.2) (w.scanOf x l)) w.act }
  | .gscan x => some
      { grd := x.grd, dst := x.dst
        val := fun w l => scalarReg x.typ
          ((((w.scanOf x l).find? fun r => r.1 == l).map fun r => if x.mod.getLsbD 5 then r.2.1 else r.2.2.1).getD 0)
        fl := fun w => flagsOf (fun l => flagsOf (fun r => r.2.2.2) (w.scanOf x l)) w.act }
  | _ => none

/-- The words with a predicate destination that never fault: compares and predicate logic, and votes (R145, R168, R171,
R172). -/
def predSpec : Instr → Option PredSpec
  | .cmp x => some
      { grd := x.grd, dst := x.dst
        val := fun w l => combine w x.mod x.sc l <| intCompare (modField x.mod 0 3)
          (elemInt x.typ 0 (w.srcT x.typ x.sa l)) (elemInt x.typ 0 (w.srcT x.typ x.sb l)) }
  | .pand x => some
      { grd := x.grd, dst := x.dst
        val := fun w l => (w.predSrc x.sa l != x.mod.getLsbD 0) && (w.predSrc x.sb l != x.mod.getLsbD 1) }
  | .por x => some
      { grd := x.grd, dst := x.dst
        val := fun w l => (w.predSrc x.sa l != x.mod.getLsbD 0) || (w.predSrc x.sb l != x.mod.getLsbD 1) }
  | .pxor x => some
      { grd := x.grd, dst := x.dst
        val := fun w l => (w.predSrc x.sa l != x.mod.getLsbD 0) != (w.predSrc x.sb l != x.mod.getLsbD 1) }
  | .pnot x => some { grd := x.grd, dst := x.dst, val := fun w l => !w.predSrc x.sa l }
  | .vote x => some
      { grd := x.grd, dst := x.dst
        val := fun w l =>
          let ps := (w.segment (w.seg x.sb) l).map fun j => w.predSrc x.sa j
          match modField x.mod 0 2 with
          | 0 => ps.all id
          | 1 => ps.any id
          | _ => ps.all id || ps.all (!·) }
  | .elect x => some
      { grd := x.grd, dst := x.dst, val := fun w l => (w.segment (w.seg x.sa) l).head? == some l }
  | _ => none

/-- The guard of a word (R48). -/
def wordGuard : Instr → Option (BitVec 4)
  | .mov x => some x.grd
  | .movi x => some x.grd
  | .add x => some x.grd
  | .sub x => some x.grd
  | .neg x => some x.grd
  | .abs x => some x.grd
  | .min x => some x.grd
  | .max x => some x.grd
  | .mul x => some x.grd
  | .mulhi x => some x.grd
  | .mad x => some x.grd
  | .madw x => some x.grd
  | .div x => some x.grd
  | .rem x => some x.grd
  | .sad x => some x.grd
  | .dot4 x => some x.grd
  | .and x => some x.grd
  | .or x => some x.grd
  | .xor x => some x.grd
  | .not x => some x.grd
  | .andn x => some x.grd
  | .shl x => some x.grd
  | .shr x => some x.grd
  | .sar x => some x.grd
  | .rot x => some x.grd
  | .bfx x => some x.grd
  | .bfi x => some x.grd
  | .popc x => some x.grd
  | .clz x => some x.grd
  | .ctz x => some x.grd
  | .brev x => some x.grd
  | .perm x => some x.grd
  | .swz x => some x.grd
  | .pack x => some x.grd
  | .unpk x => some x.grd
  | .lea x => some x.grd
  | .sel x => some x.grd
  | .cmp x => some x.grd
  | .cmpv x => some x.grd
  | .cvt x => some x.grd
  | .pand x => some x.grd
  | .por x => some x.grd
  | .pxor x => some x.grd
  | .pnot x => some x.grd
  | .pmov x => some x.grd
  | .fadd x => some x.grd
  | .fsub x => some x.grd
  | .fmul x => some x.grd
  | .fma x => some x.grd
  | .fmin x => some x.grd
  | .fmax x => some x.grd
  | .fabs x => some x.grd
  | .fneg x => some x.grd
  | .fdiv x => some x.grd
  | .fsqrt x => some x.grd
  | .frcp x => some x.grd
  | .frsq x => some x.grd
  | .ex2 x => some x.grd
  | .lg2 x => some x.grd
  | .fexp x => some x.grd
  | .flog x => some x.grd
  | .fsin x => some x.grd
  | .fcos x => some x.grd
  | .ftanh x => some x.grd
  | .fsigm x => some x.grd
  | .fcmp x => some x.grd
  | .fclass x => some x.grd
  | .frnd x => some x.grd
  | .fcvt x => some x.grd
  | .f2i x => some x.grd
  | .i2f x => some x.grd
  | .qmax x => some x.grd
  | .qscl x => some x.grd
  | .qcvt x => some x.grd
  | .dqcvt x => some x.grd
  | .fdot2 x => some x.grd
  | .flg x => some x.grd
  | .ld x => some x.grd
  | .st x => some x.grd
  | .ldv x => some x.grd
  | .stv x => some x.grd
  | .ldk x => some x.grd
  | .atom x => some x.grd
  | .atomc x => some x.grd
  | .red x => some x.grd
  | .fence x => some x.grd
  | .pref x => some x.grd
  | .probe x => some x.grd
  | .prinv x => some x.grd
  | .stmc x => some x.grd
  | .cctl x => some x.grd
  | .lsplit x => some x.grd
  | .lsjoin x => some x.grd
  | .vote x => some x.grd
  | .ballot x => some x.grd
  | .shfl x => some x.grd
  | .bcast x => some x.grd
  | .gred x => some x.grd
  | .gscan x => some x.grd
  | .matchEq x => some x.grd
  | .elect x => some x.grd
  | .lmask x => some x.grd
  | .rdfl x => some x.grd
  | .tpost x => some x.grd
  | .twait x => some x.grd
  | .ttake x => some x.grd
  | .ttst x => some x.grd
  | .tmark x => some x.grd
  | .tmask x => some x.grd
  | .tbind x => some x.grd
  | .bank x => some x.grd
  | .cp x => some x.grd
  | .cpmc x => some x.grd
  | .cpgat x => some x.grd
  | .cpst x => some x.grd
  | .cpcan x => some x.grd
  | .ffcfg x => some x.grd
  | .ffst x => some x.grd
  | .sigt x => some x.grd
  | .mxset x => some x.grd
  | .mxseti x => some x.grd
  | .mxgo x => some x.grd
  | .mxab x => some x.grd
  | .mxst x => some x.grd
  | .acld x => some x.grd
  | .acst x => some x.grd
  | .acclr x => some x.grd
  | .acred x => some x.grd
  | .acflg x => some x.grd
  | .nsend x => some x.grd
  | .ncc x => some x.grd
  | .nst x => some x.grd
  | .nop x => some x.grd
  | .rdsr x => some x.grd
  | .wrsr x => some x.grd
  | .sys x => some x.grd
  | .trap x => some x.grd
  | .brk x => some x.grd
  | .hint x => some x.grd
  | .prof x => some x.grd
  | .emuwr x => some x.grd
  | .emuret x => some x.grd
  | .clk x => some x.grd
  | .binit x => some x.grd
  | .barr x => some x.grd
  | .bwait x => some x.grd
  | .bsync x => some x.grd
  | .bdrop x => some x.grd
  | .bphase x => some x.grd
  | .barm x => some x.grd
  | .gbar x => some x.grd
  | .qrec x => some x.grd
  | .qpush x => some x.grd
  | .qjoin x => some x.grd
  | .qsig x => some x.grd
  | _ => none

end Sys2Proof.Machine

open Sys2Proof Sys2Proof.Machine

/-! ### Completion, result and frame of the register words -/

/-- R152, R154 to R170: an integer or address word writes its result in its active lanes and raises SAT as its result says,
and changes nothing else. It rests on the model's choices of log entry 26. -/
def Obligations.IntegerWordsComplete : Prop :=
  ∀ i e s c t g ts, intSpec i = some e → Issues s c t g ts → activeLanes g ts e.grd ≠ [] →
    Completes i s c t g ts e.grd e.Done

/-- R37, R39, R177 to R193: a floating word whose sources hold no marker writes its result and raises its flags, and changes
nothing else. It rests on the model's choices of log entries 27, 28 and 66. -/
def Obligations.FloatWordsComplete : Prop :=
  ∀ i srcs e s c t g ts, floatSpec i = some (srcs, e) → Issues s c t g ts → activeLanes g ts e.grd ≠ [] →
    (s.wordWindow t g ts e.grd).markCheck srcs = none → Completes i s c t g ts e.grd e.Done

/-- R145 to R148: a lane-set word writes what it finds among the active lanes of each lane's segment, and changes nothing
else. -/
def Obligations.LaneSetWordsComplete : Prop :=
  ∀ i e s c t g ts, laneSetSpec i = some e → Issues s c t g ts → activeLanes g ts e.grd ≠ [] →
    Completes i s c t g ts e.grd e.Done

/-- R145, R168, R171: a compare, a predicate operation, a vote or an election writes its predicate in its active lanes; p0
stays true, and nothing else changes. -/
def Obligations.PredicateWordsComplete : Prop :=
  ∀ i e s c t g ts, predSpec i = some e → Issues s c t g ts → activeLanes g ts e.grd ≠ [] →
    Completes i s c t g ts e.grd e.Done

/-- R48: a word with no active lane has no effect: the set stands at its next word and nothing else changes. -/
def Sys2Proof.Claim.NoActiveLaneNoEffect : Prop :=
  ∀ i grd s c t g ts, wordGuard i = some grd → Issues s c t g ts → activeLanes g ts grd = [] →
    Completes i s c t g ts grd fun w w1 => SameRegs w w1 ∧ w1.ts.fl = w.ts.fl ∧ SameActs w.ts w1.ts

namespace Sys2Proof.Machine

/-! ### Words that read state, and words that hold acts to the commit -/

/-- A fault that a check over the lanes gives. -/
def Gathered.fault? : Gathered → Option FInfo
  | .fault e => some e
  | _ => none

/-- The words that write a register from state that no run of theirs changes: special registers, copy, FIFO, nest, endpoint
and tag status, and accumulator elements (R76, R235, R274, R275, R280, R286, R289, R323, R324); with each the fault that its
check gives. -/
def statusSpec (s : State) (t : Team) : Instr → Option (RegSpec × (W → Option FInfo))
  | .rdsr x => some ({ grd := x.grd, dst := x.dst, val := fun w l => w.src x.sa l }, fun _ => none)
  | .clk x => some ({ grd := x.grd, dst := x.dst, val := fun _ _ => BitVec.ofNat 64 s.clk }, fun _ => none)
  | .cpst x => some
      ({ grd := x.grd, dst := x.dst
         val := fun w _ => BitVec.ofNat 64 (match w.grp.copies[(w.srcLow x.sa).toNat]? with | some e => e.word | none => 0) },
        fun _ => none)
  | .ffst x => some
      ({ grd := x.grd, dst := x.dst, val := fun w _ => BitVec.ofNat 64 (t.fifoWord (s.tcore t w.grp.index) (fifoNo x.sa)) },
        fun _ => none)
  | .mxst x => some
      ({ grd := x.grd, dst := x.dst
         val := fun w _ => BitVec.ofNat 64
           (if x.mod.getLsbD 0 then nx (t.nest (s.tcore t w.grp.index)).shadow (nxNo x.sb)
            else s.nestWord t (s.tcore t w.grp.index)) },
        fun _ => none)
  | .nst x => some
      ({ grd := x.grd, dst := x.dst
         val := fun w l =>
           match s.endpoint? (s.ctxOf t) (w.src x.sa l).toNat with
           | some i => BitVec.ofNat 64 (s.epWord i)
           | none => 0 },
        fun _ => none)
  | .ncc x => some
      ({ grd := x.grd, dst := x.dst
         val := fun w l => BitVec.ofNat 64 (s.ep (fieldOf (w.src x.sa l).toNat 0 16)).ccWord },
        fun w => (s.badHandle t w x).map fun l => { code := 16, lane := l, detail := 1 })
  | .tmask x => some
      ({ grd := x.grd, dst := x.dst
         val := fun w l => BitVec.ofNat 64
           (if x.mod.getLsbD 0 then t.ovc % 2 ^ 32 + t.ovlast % 2 ^ 25 * 2 ^ 32 else (t.tag (w.addrR x l)).word) },
        fun w => if x.mod.getLsbD 0 then none else s.scratchCheck t w 1 (w.addrR x))
  | .acld x => some
      ({ grd := x.grd, dst := x.dst
         val := fun w l =>
           let el (l i : Nat) : Nat := ((t.nest (s.tcore t w.grp.index)).read w.ts.held s.free l (accNo x.sa) i).toNat
           let i := (w.src x.sb l).toNat
           if x.typ == .f32x2 then packElems 32 [el l i, el l (i + 1)] else scalarReg .f32 (el l i) },
        fun w => w.accFault x.typ x.sb)
  | .sigt x =>
    if x.mod.getLsbD 0 then none
    else some ({ grd := x.grd, dst := x.dst, val := fun w _ => w.srcLow x.sa }, fun _ => none)
  | _ => none

/-- The words that write a predicate from such state (R182, R235, R280). -/
def statusPredSpec (s : State) (t : Team) : Instr → Option (PredSpec × (W → Option FInfo))
  | .fcmp x => some
      ({ grd := x.grd, dst := x.dst
         val := fun w l =>
           let a := readF (fmtOf x.typ) false (w.srcF x.typ x.sa l 0)
           let b := readF (fmtOf x.typ) false (w.srcF x.typ x.sb l 0)
           match modField x.mod 4 2 with
           | 1 => floatCompare (modField x.mod 0 4) a b && w.predSrc x.sc l
           | 2 => floatCompare (modField x.mod 0 4) a b || w.predSrc x.sc l
           | _ => floatCompare (modField x.mod 0 4) a b
         fl := fun w => flagIf (w.act.any fun l =>
           readF (fmtOf x.typ) false (w.srcF x.typ x.sa l 0) == .nan true ||
           readF (fmtOf x.typ) false (w.srcF x.typ x.sb l 0) == .nan true) fNV },
        fun w => w.markCheck (srcs2 x))
  | .ttst x => some
      ({ grd := x.grd, dst := x.dst
         val := fun w l => (t.tag (w.addrR x l)).state == (match modField x.mod 0 2 with | 0 => 2 | 1 => 0 | _ => 1) },
        fun w => s.scratchCheck t w 1 (w.addrR x))
  | .sigt x =>
    if x.mod.getLsbD 0 then
      some ({ grd := x.grd, dst := x.dst, val := fun w _ => w.srcLow x.sa == 0 }, fun _ => none)
    else none
  | _ => none

/-- What a word that acts at its run's commit gives: the acts it holds, newest first, or its fault; none where it waits. -/
abbrev HoldRes := Option (Except FInfo (List Held))

/-- One act of all active lanes. -/
def W.oneHeld (w : W) (a : Act) : HoldRes := some (.ok [⟨w.ts.pc, w.act, a, w.low⟩])

/-- An act unless a check fails. -/
def W.heldIf (w : W) (e : Option FInfo) (a : Act) : HoldRes :=
  match e with
  | some e => some (.error e)
  | none => w.oneHeld a

/-- An atomic word: its lanes' places are checked, and its parts are held (R213, R217). -/
def atomHeld (s : State) (t : Team) (x : RWord) (isRed isCmp : Bool) (w : W) : HoldRes :=
  match s.places t w 2 false (spaceR x) (tyBytes x.typ) (tyBytes x.typ) (w.addrR x) w.act with
  | .fault e => some (.error e)
  | .ok ls => w.oneHeld (.atom isRed isCmp (fieldOf x.aux.toNat 2 4) x.typ (if isRed then .z else x.dst)
      (ls.filterMap fun l => l.parts.head?.map fun p =>
        ⟨l.lane, p.loc, p.va, w.src x.sb l.lane, if isCmp then w.src x.sc l.lane else 0⟩) (relOf x.mod))
  | _ => none

/-- A copy word (R282, R283). -/
def copyHeld (s : State) (t : Team) (x : RWord) (kind : Nat) (w : W) : HoldRes :=
  w.heldIf ((s.copyCheck t (s.tcore t w.grp.index) (w.copyArgs x kind)).map fun e => { e with lane := w.low })
    (.copy (w.copyArgs x kind))

/-- An ENGINE fault of the lowest active lane. -/
def W.engineErr (w : W) (d : Nat) : FInfo := { code := 11, lane := w.low, detail := d }

/-- The words that act at their run's commit (R51): guard, and the acts they hold. -/
def heldSpec (s : State) (t : Team) : Instr → Option (BitVec 4 × (W → HoldRes))
  | .fence x => some (x.grd, fun w =>
      w.oneHeld (.fence (fieldOf x.aux.toNat 0 2) (modField x.mod 3 2) (modField x.mod 0 3)))
  | .sys x => some (x.grd, fun w =>
      w.oneHeld (.sys x.dst x.imm.toNat (w.act.map fun l => (l, w.src x.sa l, w.src x.sb l))))
  | .binit x => some (x.grd, fun w => w.oneHeld (.barrier 0 (barNo x.sa) (w.srcLow x.sb).toNat none .z))
  | .barr x => some (x.grd, fun w => w.oneHeld (.barrier 1 (barNo x.sa) 0 none .z))
  | .bwait x => some (x.grd, fun w => w.oneHeld (.barrier 2 (barNo x.sa) 0 none .z))
  | .bsync x => some (x.grd, fun w => w.oneHeld (.barrier 3 (barNo x.sa) 0 none .z))
  | .bdrop x => some (x.grd, fun w => w.oneHeld (.barrier 4 (barNo x.sa) 0 none .z))
  | .bphase x => some (x.grd, fun w => w.oneHeld (.barrier 5 (barNo x.sa) 0 none x.dst))
  | .barm x => some (x.grd, fun w => w.oneHeld (.barrier 6 (barNo x.sa) (w.srcLow x.sc).toNat (sigOpd x.sb) .z))
  | .gbar x => some (x.grd, fun w =>
      w.heldIf (if (s.kernelOf t).gang = 0 then some (w.engineErr 10) else none) (.barrier 7 (barNo x.sa) 0 none .z))
  | .atom x => some (x.grd, atomHeld s t x false false)
  | .atomc x => some (x.grd, atomHeld s t x false true)
  | .red x => some (x.grd, atomHeld s t x true false)
  | .cp x => some (x.grd, copyHeld s t x (if x.mod.getLsbD 0 then 1 else 0))
  | .cpmc x => some (x.grd, copyHeld s t x 3)
  | .cpgat x => some (x.grd, copyHeld s t x 2)
  | .cpcan x => some (x.grd, fun w => w.oneHeld (.cpcan x.dst (w.srcLow x.sa).toNat))
  | .ffcfg x => some (x.grd, fun w =>
      let k := (w.srcLow x.sb).toNat
      let core := s.tcore t w.grp.index
      w.heldIf
        (if fieldOf k 5 4 ≠ 0 ∧ !t.fifoBanksOk core (fifoNo x.sa) (fieldOf k 0 5) (fieldOf k 5 4) then some (w.engineErr 18)
         else if s.fifoInUse t core (fifoNo x.sa) then some (w.engineErr 16) else none)
        (.ffcfg (fifoNo x.sa) (fieldOf k 0 5) (fieldOf k 5 4) (fieldOf k 9 2)))
  | .mxset x => some (x.grd, fun w => w.oneHeld (.mxset (nxNo x.sb) ((w.srcLow x.sa).extractLsb' 0 32)))
  | .mxseti x => some (x.grd, fun w => w.oneHeld (.mxset (nxNo x.sb) x.imm))
  | .mxgo x => some (x.grd, fun w =>
      w.heldIf ((s.mxCheck t (s.tcore t w.grp.index)
        (shadowAfter (t.nest (s.tcore t w.grp.index)).shadow w.ts.held)).map w.engineErr) .mxgo)
  | .mxab x => some (x.grd, fun w => w.oneHeld .mxab)
  | .acclr x => some (x.grd, fun w =>
      w.heldIf (if (t.nest (s.tcore t w.grp.index)).busyTile (accNo x.sa) then some (w.engineErr 12) else none)
        (.acclr (accNo x.sa)))
  | .acred x => some (x.grd, fun w =>
      w.heldIf
        (if (s.kernelOf t).gang = 0 then some (w.engineErr 10)
         else if (t.nest (s.tcore t w.grp.index)).busyTile (accNo x.sa) then some (w.engineErr 12) else none)
        (.acred (sigOpd x.dst) (accNo x.sa) (accNo x.sb)))
  | .acst x => some (x.grd, fun w =>
      match w.accFault x.typ x.sb with
      | some e => some (.error e)
      | none =>
        if (t.nest (s.tcore t w.grp.index)).busyTile (accNo x.sa) then some (.error (w.engineErr 12))
        else some (.ok (w.act.flatMap fun l =>
          let i := (w.src x.sb l).toNat
          let d := w.src x.sc l
          ⟨w.ts.pc, w.act, .acst (accNo x.sa) i (d.extractLsb' 0 32), w.low⟩ ::
            (if x.typ == .f32x2 then [⟨w.ts.pc, w.act, .acst (accNo x.sa) (i + 1) (d.extractLsb' 32 32), w.low⟩] else [])).reverse))
  | .nsend x => some (x.grd, fun w =>
      match s.endpoint? (s.ctxOf t) (w.srcLow x.sa).toNat with
      | none => some (.error { code := 16, lane := w.low, detail := 1 })
      | some ep => w.heldIf ((s.msgCheck t (w.msgArgs x ep)).map fun e => { e with lane := w.low }) (.nsend (w.msgArgs x ep)))
  | .tmark x => some (x.grd, fun w =>
      match s.scratchCheck t w 1 (w.addrR x) with
      | some e => some (.error e)
      | none => some (.ok (w.act.map fun l =>
          (⟨w.ts.pc, w.act, .tmark (w.addrR x l / 512 * 512) (x.mod.getLsbD 0), w.low⟩ : Held)).reverse))
  | .tpost x => some (x.grd, fun w =>
      match s.postLanes t w x w.act with
      | .error e => some (.error e)
      | .ok ps => w.oneHeld (.tpost (sigOpd x.dst) (x.mod.getLsbD 5) (relOf x.mod) ps))
  | .tbind x => some (x.grd, fun w =>
      let src := (w.srcLow x.sa).toNat
      let soff := (w.srcLow x.sb).toNat
      let len := (w.srcLow x.sc).toNat
      let k := fieldOf x.aux.toNat 0 4
      w.heldIf
        (if soff % 512 ≠ 0 then some { code := 6, lane := w.low, addr := soff }
         else if len % 512 ≠ 0 then some { code := 6, lane := w.low, addr := len }
         else if src % 512 ≠ 0 then some { code := 6, lane := w.low, addr := src }
         else if (s.kernelOf t).scratch < soff + len then some { code := 3, lane := w.low, addr := soff }
         else if s.windowClash t k soff len then some (w.engineErr 3) else none)
        (.tbind k src soff len))
  | .qpush x => some (x.grd, fun w => w.heldIf (w.recBad.map w.engineErr) .qpush)
  | .qjoin x => some (x.grd, fun w =>
      match s.counterAcc t w 0 (w.addrR x) with
      | .fault e => some (.error e)
      | .ok ls => w.oneHeld (.qjoin x.dst (ls.map fun l => (l.lane, l.pa, (w.src x.sb l.lane).toNat, l.va)))
      | _ => none)
  | .qsig x => some (x.grd, fun w =>
      match s.counterAcc t w 2 (w.addrR x) with
      | .fault e => some (.error e)
      | .ok ls => some (.ok (ls.map fun l =>
          (⟨w.ts.pc, w.act, .qsig (.mem l.pa) l.va (w.src x.sb l.lane).toNat (x.mod.getLsbD 0), l.lane⟩ : Held)).reverse)
      | _ => none)
  | _ => none

/-- The words that change only their thread set's pending state, and what becomes of it (R62, R76, R77, R80, R81, R99, R144,
R222). -/
def setSpec : Instr → Option (BitVec 4 × (W → TSet))
  | .nop x => some (x.grd, fun w => w.ts)
  | .pref x => some (x.grd, fun w => w.ts)
  | .cctl x => some (x.grd, fun w => w.ts)
  | .hint x => some (x.grd, fun w => if x.imm = 1 then { w.ts with hot := true } else w.ts)
  | .prof x => some (x.grd, fun w =>
      { w.ts with profOv := ((w.srcLow x.sa).toNat, w.act.length) :: w.ts.profOv })
  | .qrec x => some (x.grd, fun w => { w.ts with recOv := (recNo x.sb, w.srcLow x.sa) :: w.ts.recOv })
  | .wrsr x => some (x.grd, fun w =>
      match x.dst with
      | .sr .fflg => { w.ts with flWrite := some ((w.srcLow x.sa).extractLsb' 0 6) }
      | .sr .seed => { w.ts with seedOv := some (w.srcLow x.sa) }
      | _ => w.ts)
  | .lsplit x => some (x.grd, fun w =>
      match x.dst with
      | .ls i =>
        { w.ts with lsOv := (i.val, Nat.min (w.seg x.sa) (match x.sb with | .imm k => k.toNat | _ => 32)) :: w.ts.lsOv }
      | _ => w.ts)
  | .lsjoin x => some (x.grd, fun w =>
      match x.dst with
      | .ls i => { w.ts with lsOv := (i.val, Nat.max (w.seg x.sa) (w.seg x.sb)) :: w.ts.lsOv }
      | _ => w.ts)
  | _ => none

end Sys2Proof.Machine

/-- R37: a floating word with a marker among the sources it checks takes the MARK fault of the lowest lane and first source
that holds it, before any effect. -/
def Sys2Proof.Claim.MarkerFaults : Prop :=
  ∀ i srcs e s c t g ts f, floatSpec i = some (srcs, e) → Issues s c t g ts → activeLanes g ts e.grd ≠ [] →
    (s.wordWindow t g ts e.grd).markCheck srcs = some f →
    exec i s = .next (s.faultAt c ts.pc f) ∧
    f.code = 2 ∧ f.lane ∈ activeLanes g ts e.grd ∧
    (∃ o, (f.src, o) ∈ srcs ∧ (s.wordWindow t g ts e.grd).src o f.lane = marker ∧
      ((∃ n, o = .v n ∧ f.kind = 0 ∧ f.detail = n.toNat) ∨ (∃ n, o = .g n ∧ f.kind = 1 ∧ f.detail = n.toNat) ∨
        ∃ k, o = .t k ∧ f.kind = 2 ∧ f.detail = k.val)) ∧
    ∀ l o k, (k, o) ∈ srcs → (activeLanes g ts e.grd).idxOf l < (activeLanes g ts e.grd).idxOf f.lane →
      (s.wordWindow t g ts e.grd).marked o l = false

/-- R37, R48, R49: what the two rules common to all words say. -/
def Obligations.MarkersFaultAndIdleLanesDoNothing : Prop := Sys2Proof.Claim.NoActiveLaneNoEffect ∧ Sys2Proof.Claim.MarkerFaults

/-- R76, R235, R274, R275, R280, R286, R289, R323, R324: a status word writes what its rule gives, or takes the fault that its
check gives; nothing else changes. It rests on the model's choices of log entry 29. -/
def Sys2Proof.Claim.StatusRegisters : Prop :=
  ∀ i e chk s c t g ts, statusSpec s t i = some (e, chk) → Issues s c t g ts → activeLanes g ts e.grd ≠ [] →
    (chk (s.wordWindow t g ts e.grd) = none → Completes i s c t g ts e.grd e.Done) ∧
    ∀ f, chk (s.wordWindow t g ts e.grd) = some f → exec i s = .next (s.faultAt c ts.pc f)

/-- R182, R235, R280: the same of the words with a predicate destination. -/
def Sys2Proof.Claim.StatusPredicates : Prop :=
  ∀ i e chk s c t g ts, statusPredSpec s t i = some (e, chk) → Issues s c t g ts → activeLanes g ts e.grd ≠ [] →
    (chk (s.wordWindow t g ts e.grd) = none → Completes i s c t g ts e.grd e.Done) ∧
    ∀ f, chk (s.wordWindow t g ts e.grd) = some f → exec i s = .next (s.faultAt c ts.pc f)

/-- R51, R217, R219, R231, R236, R237, R249 to R253, R272, R275, R277, R282, R319: a word that acts at its run's commit
completes by holding its acts, or takes the fault that its checks give. Until the commit no register, no byte of memory
or scratch and no engine has changed. It rests on the model's choices of log entries 18 and 39. -/
def Obligations.HeldWordsComplete : Prop :=
  ∀ i grd r s c t g ts, heldSpec s t i = some (grd, r) → Issues s c t g ts → activeLanes g ts grd ≠ [] →
    (∀ hs, r (s.wordWindow t g ts grd) = some (.ok hs) →
      Completes i s c t g ts grd fun w w1 => SameRegs w w1 ∧ w1.ts.held = hs ++ w.ts.held ∧ w1.ts.fl = w.ts.fl) ∧
    ∀ f, r (s.wordWindow t g ts grd) = some (.error f) → exec i s = .next (s.faultAt c ts.pc f)

/-- R62, R76, R77, R80, R81, R99, R144, R222: a word that changes only what its thread set keeps for the commit. A `nop`, a
prefetch, cache control and every hint but 1 only advance. -/
def Sys2Proof.Claim.SetWords : Prop :=
  ∀ i grd f s c t g ts, setSpec i = some (grd, f) → Issues s c t g ts → activeLanes g ts grd ≠ [] →
    ∃ s1 g1, exec i s = .next s1 ∧
      OnlyGroup s s1 c t g g1 ((f (s.wordWindow t g ts grd)).advance s.clk) ∧ { g1 with tsets := g.tsets } = g

/-- R45, R172: `pmov` between a predicate and a register or predicate, and of all eight predicates at once. -/
def Sys2Proof.Claim.PredicateMoves : Prop :=
  ∀ x s c t g ts, Issues s c t g ts → activeLanes g ts x.grd ≠ [] →
    (x.mod = 0 → ∀ i d, x.sa = .p i → x.dst = .p d →
      Completes (.pmov x) s c t g ts x.grd (PredSpec.Done { grd := x.grd, dst := .p d, val := fun w l => w.grp.pred l i.val })) ∧
    (x.mod = 0 → ∀ i, x.sa = .p i → (∀ d, x.dst ≠ .p d) →
      Completes (.pmov x) s c t g ts x.grd
        (RegSpec.Done { grd := x.grd, dst := x.dst, val := fun w l => if w.grp.pred l i.val then 1 else 0 })) ∧
    (x.mod = 0 → (∀ i, x.sa ≠ .p i) →
      Completes (.pmov x) s c t g ts x.grd
        (PredSpec.Done { grd := x.grd, dst := x.dst, val := fun w l => (w.src x.sa l).getLsbD 0 })) ∧
    (x.mod ≠ 0 → ∀ i, x.sa = .p i →
      Completes (.pmov x) s c t g ts x.grd
        (RegSpec.Done { grd := x.grd, dst := x.dst, val := fun w l => (w.grp.predBits l).zeroExtend 64 })) ∧
    (x.mod ≠ 0 → (∀ i, x.sa ≠ .p i) →
      Completes (.pmov x) s c t g ts x.grd fun w w1 =>
        (∀ l j, w1.grp.pred l j =
          if l ∈ w.act then ((w.src x.sa l).extractLsb' 0 8).getLsbD j || decide (j = 0) else w.grp.pred l j) ∧
        { w1.grp with p := w.grp.p, tsets := w.grp.tsets } = w.grp ∧ w1.ts.temps = w.ts.temps ∧ w1.ts.gOv = w.ts.gOv ∧
        w1.ts.fl = w.ts.fl ∧ SameActs w.ts w1.ts)

/-- Words that change only what their set keeps, and predicate moves. -/
def Obligations.SetWordsComplete : Prop := Sys2Proof.Claim.SetWords ∧ Sys2Proof.Claim.PredicateMoves

/-- R276: `acflg` writes the tile's flags to its destination and clears, at the commit, the flags it read; nothing else
changes. -/
def Sys2Proof.Claim.AccumulatorFlags : Prop :=
  ∀ x s c t g ts, Issues s c t g ts → activeLanes g ts x.grd ≠ [] →
    let fl := aget 0 (t.nest (s.tcore t g.index)).flags (accNo x.sa)
    Completes (.acflg x) s c t g ts x.grd fun w w1 =>
      Wrote w w1 x.dst (fun _ => BitVec.ofNat 64 fl) ∧
      w1.ts.held = ⟨ts.pc, w.act, .acflg (accNo x.sa) fl, w.low⟩ :: w.ts.held ∧ w1.ts.fl = w.ts.fl ∧
      SameActs w.ts { w1.ts with held := w.ts.held }

/-- The words that read status, into a register, a predicate, and with the flags cleared at the commit. -/
def Obligations.StatusWordsComplete : Prop := Sys2Proof.Claim.StatusRegisters ∧ Sys2Proof.Claim.StatusPredicates ∧ Sys2Proof.Claim.AccumulatorFlags

namespace Sys2Proof.Machine

/-! ### Memory words -/

/-- The fault of a `.s` access of `n` bytes at an offset: outside SCRATCH or in a bank held in CACHE mode ADDR, then
misaligned ALIGN (R207, R213, R226). -/
def scratchFault (s : State) (t : Team) (n off lane : Nat) : Option FInfo :=
  if (s.kernelOf t).scratch < off + n then some { code := 3, lane := lane, addr := off }
  else if t.refuses off n then some { code := 3, lane := lane, addr := off, detail := 1 }
  else if off % n ≠ 0 then some { code := 6, lane := lane, addr := off }
  else none

/-- A byte of a team's scratch as a thread set reads it: its newest held store, else the byte (R214). -/
def scratchByte (t : Team) (held : List Held) (off : Nat) : Byte := (heldByte held (.scr t.id off) off).getD (t.scrByte off)

/-- The `n` bytes at an offset, little-endian. -/
def scratchNat (t : Team) (held : List Held) (off n : Nat) : Nat :=
  leNat ((List.range n).map fun k => scratchByte t held (off + k))

/-- The stores of one lane's parts, newest first: each part takes its bytes in order (R201, R215). -/
def partHelds (pc : Nat) (act : List Nat) (lane : Nat) (rel : Bool) : List Part → List Byte → List Held
  | [], _ => []
  | p :: ps, bs => partHelds pc act lane rel ps (bs.drop p.len) ++ [⟨pc, act, .store p.loc p.va (bs.take p.len) rel, lane⟩]

/-- The stores of one lane, newest first: by place, or by address, eight bytes at a time, where the page is under migration
(R203). -/
def laneHelds (pc : Nat) (act : List Nat) (va : Nat) (rel : Bool) (bs : List Byte) (l : LaneAcc) : List Held :=
  if l.parts = [] then
    ((List.range ((bs.length + 7) / 8)).map fun k =>
      (⟨pc, act, .storeVa l.lane (va + 8 * k) ((bs.drop (8 * k)).take 8) false rel, l.lane⟩ : Held)).reverse
  else partHelds pc act l.lane rel l.parts bs

/-- The stores of one lane of `stmc`, newest first: one to each copy of a replicated page in rising index (R221). -/
def multiHelds (pc : Nat) (act : List Nat) (va : Nat) (rel : Bool) (bs : List Byte) (l : LaneAcc) : List Held :=
  if l.parts = [] then
    ((List.range ((bs.length + 7) / 8)).map fun k =>
      (⟨pc, act, .storeVa l.lane (va + 8 * k) ((bs.drop (8 * k)).take 8) true rel, l.lane⟩ : Held)).reverse
  else
    (l.parts.flatMap fun p =>
      (if p.reps = [] then [p.loc] else p.reps.map Loc.mem).map fun loc =>
        (⟨pc, act, .store loc p.va (bs.take p.len) rel, l.lane⟩ : Held)).reverse

/-- The bytes that a load of local parts reads in a lane, own held stores first (R214). -/
def loadBytes (s : State) (t : Team) (w : W) (ls : List LaneAcc) (lane : Nat) : List Byte :=
  match ls.find? fun a => a.lane == lane with
  | some a => a.parts.flatMap fun p => s.partBytes (t.coreNo (s.tcore t w.grp.index)) w.ts.held p
  | none => []

end Sys2Proof.Machine

/-- R24, R45, R207, R213, R214: an aligned `.s` load inside SCRATCH writes its little-endian bytes, own held stores first,
sign- or zero-extended as its type says; no byte of memory or scratch changes. -/
def Sys2Proof.Claim.ScratchLoads : Prop :=
  ∀ x s c t g ts, Issues s c t g ts → activeLanes g ts x.grd ≠ [] → spaceI x = 1 →
    let w := s.wordWindow t g ts x.grd
    (∀ l ∈ w.loadLanes x.dst, scratchFault s t (tyBytes x.typ) (w.addrI x l) l = none) →
    (∀ l ∈ w.loadLanes x.dst, s.locBad (.scr t.id (w.addrI x l)) (tyBytes x.typ) = false) →
    Completes (.ld x) s c t g ts x.grd
      (RegSpec.Done { grd := x.grd, dst := x.dst
                      val := fun w l => moveReg x.typ (BitVec.ofNat 64 (scratchNat t w.ts.held (w.addrI x l) (tyBytes x.typ))) })

/-- R213: a `.s` load or store with a lane outside SCRATCH, in a bank held in CACHE mode or misaligned takes the fault of the
lowest such lane, before any effect. -/
def Sys2Proof.Claim.ScratchFaultsLow : Prop :=
  (∀ x s c t g ts e, Issues s c t g ts → activeLanes g ts x.grd ≠ [] → spaceI x = 1 →
    let w := s.wordWindow t g ts x.grd
    (∀ l ∈ w.loadLanes x.dst, s.locBad (.scr t.id (w.addrI x l)) (tyBytes x.typ) = false) →
    (w.loadLanes x.dst).findSome? (fun l => scratchFault s t (tyBytes x.typ) (w.addrI x l) l) = some e →
    exec (.ld x) s = .next (s.faultAt c ts.pc e)) ∧
  (∀ x s c t g ts e, Issues s c t g ts → activeLanes g ts x.grd ≠ [] → spaceI x = 1 →
    let w := s.wordWindow t g ts x.grd
    w.act.findSome? (fun l => scratchFault s t (tyBytes x.typ) (w.addrI x l) l) = some e →
    exec (.st x) s = .next (s.faultAt c ts.pc e))

/-- R197, R201, R213 to R215, R220: once every lane's places are known and local, with no link in training on the way, a load writes the bytes it finds there;
beside its group only the access counters of the lines it touches may change, and with scratch places nothing. `ldk` reads
through the read-only path. It rests on the model's choices of log entry 18. -/
def Sys2Proof.Claim.MemoryLoads : Prop :=
  (∀ x s c t g ts ls, Issues s c t g ts → activeLanes g ts x.grd ≠ [] →
    let w := s.wordWindow t g ts x.grd
    s.places t w 0 false (spaceI x) (tyBytes x.typ) (tyBytes x.typ) (w.addrI x) (w.loadLanes x.dst) = .ok ls →
    s.remoteParts ls = [] → s.partsHeld t w ls = false →
    ∃ s1 g1 ts1, exec (.ld x) s = .next s1 ∧ OnlyGroup (s.countParts ls) s1 c t g g1 ts1 ∧ Advanced ts ts1 ∧
      Wrote w { w with grp := g1, ts := ts1 } x.dst
        (fun l => moveReg x.typ (BitVec.ofNat 64 (leNat (loadBytes s t w ls l)))) ∧
      ts1.fl = ts.fl ∧ SameActs ts ts1) ∧
  (∀ x s c t g ts ls n, Issues s c t g ts → activeLanes g ts x.grd ≠ [] → x.dst = .v n →
    let w := s.wordWindow t g ts x.grd
    s.places t w 0 false (spaceI x) (8 * vecCount x.aux6) 8 (w.addrI x) w.act = .ok ls → s.remoteParts ls = [] →
    s.partsHeld t w ls = false →
    ∃ s1 g1 ts1, exec (.ldv x) s = .next s1 ∧ OnlyGroup (s.countParts ls) s1 c t g g1 ts1 ∧ Advanced ts ts1 ∧
      (∀ k l, k < vecCount x.aux6 → l ∈ w.act →
        aget marker g1.v (laneKey (n + BitVec.ofNat 18 k).toNat l) =
          BitVec.ofNat 64 (leNat (((loadBytes s t w ls l).drop (8 * k)).take 8))) ∧
      (∀ j, (∀ k l, k < vecCount x.aux6 → l ∈ w.act → j ≠ laneKey (n + BitVec.ofNat 18 k).toNat l) →
        aget marker g1.v j = aget marker g.v j) ∧
      { g1 with v := g.v, tsets := g.tsets } = g ∧ ts1.fl = ts.fl ∧ SameActs ts ts1) ∧
  ∀ x s c t g ts ls, Issues s c t g ts → activeLanes g ts x.grd ≠ [] →
    let w := s.wordWindow t g ts x.grd
    s.places t w 0 false 0 (tyBytes x.typ) (tyBytes x.typ) (w.addrI x) (w.loadLanes x.dst) = .ok ls →
    s.remoteParts ls = [] → s.partsHeld t w ls = false →
    ∃ s1 g1 ts1, exec (.ldk x) s = .next s1 ∧ OnlyGroup (s.countParts ls) s1 c t g g1 ts1 ∧ Advanced ts { ts1 with roOwn := ts.roOwn } ∧
      Wrote w { w with grp := { g1 with roSeen := g.roSeen }, ts := ts1 } x.dst
        (fun l => moveReg x.typ (BitVec.ofNat 64 (leNat (bytesOf (s.roLanes t w ls).1 l)))) ∧ ts1.fl = ts.fl ∧ SameActs ts ts1

/-- Loads of scratch, their faults, and loads of memory. -/
def Obligations.LoadsComplete : Prop := Sys2Proof.Claim.ScratchLoads ∧ Sys2Proof.Claim.ScratchFaultsLow ∧ Sys2Proof.Claim.MemoryLoads

/-- R203, R213, R215, R221: once every lane's places are known, `st`, `stv` and `stmc` complete by holding each lane's bytes
for exactly the places that the lane's address gives, in lane order; every byte of memory and scratch reads as before until
the commit. -/
def Sys2Proof.Claim.StoresHeld : Prop :=
  (∀ x s c t g ts ls, Issues s c t g ts → activeLanes g ts x.grd ≠ [] →
    let w := s.wordWindow t g ts x.grd
    gather (fun l => s.storeAcc t w false (spaceI x) (tyBytes x.typ) (tyBytes x.typ) (w.addrI x l) l) w.act = .ok ls →
    Completes (.st x) s c t g ts x.grd fun w w1 => SameRegs w w1 ∧ w1.ts.fl = w.ts.fl ∧
      w1.ts.held = (ls.map fun l =>
        laneHelds w.ts.pc w.act (s.recAddr t w (spaceI x) (w.addrI x l.lane) l.lane) (relOf x.mod)
          (w.storeBytes x.typ x.sb l.lane) l).reverse.flatten ++ w.ts.held) ∧
  (∀ x s c t g ts ls, Issues s c t g ts → activeLanes g ts x.grd ≠ [] →
    let w := s.wordWindow t g ts x.grd
    gather (fun l => s.storeAcc t w false (spaceI x) (8 * vecCount x.aux6) 8 (w.addrI x l) l) w.act = .ok ls →
    Completes (.stv x) s c t g ts x.grd fun w w1 => SameRegs w w1 ∧ w1.ts.fl = w.ts.fl ∧
      w1.ts.held = (ls.map fun l =>
        laneHelds w.ts.pc w.act (s.recAddr t w (spaceI x) (w.addrI x l.lane) l.lane) (relOf x.mod)
          ((List.range (vecCount x.aux6)).flatMap fun k => leBytes 8 (w.src (opdPlus x.sb k) l.lane).toNat) l).reverse.flatten
          ++ w.ts.held) ∧
  ∀ x s c t g ts ls, Issues s c t g ts → activeLanes g ts x.grd ≠ [] →
    let w := s.wordWindow t g ts x.grd
    gather (fun l => s.storeAcc t w true 0 (tyBytes x.typ) (tyBytes x.typ) (w.addrI x l) l) w.act = .ok ls →
    Completes (.stmc x) s c t g ts x.grd fun w w1 => SameRegs w w1 ∧ w1.ts.fl = w.ts.fl ∧
      w1.ts.held = (ls.map fun l =>
        multiHelds w.ts.pc w.act (w.addrI x l.lane) (relOf x.mod) (w.storeBytes x.typ x.sb l.lane) l).reverse.flatten ++ w.ts.held

/-- R5, R215: a store performed in memory of the package, under a key that its slot holds, puts its bytes at its address, lowest first, and no other byte of
memory changes; one performed in scratch changes the bytes at those places of that team's banks alone. No access counter
that reaches its threshold is among those counted. -/
def Sys2Proof.Claim.StoresPerformed : Prop :=
  (∀ (s : State) (f : From) pa va bs, s.fw.keySlots.getLsbD (paKey pa) = true → paPkg pa = s.pkg → s.hbmFailed pa bs.length = false →
    (s.countLines pa bs.length).mem = s.mem →
    (∀ k, k < bs.length → readByte (s.storeAt f (.mem pa) va bs).mem (pa + k) = bs.getD k 0) ∧
    (∀ a, (a < pa ∨ pa + bs.length ≤ a) → readByte (s.storeAt f (.mem pa) va bs).mem a = readByte s.mem a) ∧
    (s.storeAt f (.mem pa) va bs).teams = s.teams) ∧
  ∀ (s : State) (f : From) t off va bs, s.team? t.id = some t →
    (∀ i j, i < bs.length → j < bs.length → t.scrKey (off + i) = t.scrKey (off + j) → i = j) →
    (s.storeAt f (.scr t.id off) va bs).mem = s.mem ∧
    ∃ t1, (s.storeAt f (.scr t.id off) va bs).team? t.id = some t1 ∧
      (∀ k, k < bs.length → t1.scrByte (off + k) = bs.getD k 0) ∧
      ∀ a, (∀ k, k < bs.length → t.scrKey a ≠ t.scrKey (off + k)) → t1.scrByte a = t.scrByte a

/-- A store is held by its word and performed at the commit. -/
def Obligations.StoresComplete : Prop := Sys2Proof.Claim.StoresHeld ∧ Sys2Proof.Claim.StoresPerformed

/-! ### Tile, bank and probe words -/

/-- R233, R239: `twait` completes once the tile of every active lane is FULL, with the bytes that it holds, and otherwise its
set parks at the word with nothing written. It rests on the model's choices of log entry 37. -/
def Sys2Proof.Claim.TwaitWaits : Prop :=
  ∀ x s c t g ts, Issues s c t g ts → activeLanes g ts x.grd ≠ [] →
    let w := s.wordWindow t g ts x.grd
    s.scratchCheck t w (tyBytes x.typ) (w.addrR x) = none →
    (∀ l ∈ w.act, s.locBad (.scr t.id (w.addrR x l)) (tyBytes x.typ) = false) → ts.got = [] →
    ((∀ l ∈ w.act, (t.tag (w.addrR x l)).mask = 0xFFFF) →
      ∃ s1 t2 g1 ts1, exec (.twait x) s = .next s1 ∧ (s.touchAll t.id w (w.addrR x)).team? t.id = some t2 ∧
        OnlyGroup (s.touchAll t.id w (w.addrR x)) s1 c t2 g g1 ts1 ∧ Advanced ts ts1 ∧ SameActs ts ts1 ∧
        Wrote w { w with grp := g1, ts := ts1 } x.dst fun l =>
          moveReg x.typ (BitVec.ofNat 64 (scratchNat t ts.held (w.addrR x l) (tyBytes x.typ)))) ∧
    ((∃ l ∈ w.act, (t.tag (w.addrR x l)).mask ≠ 0xFFFF) →
      ∃ s1 t2 g1 ts1, exec (.twait x) s = .next s1 ∧ (s.touchAll t.id w (w.addrR x)).team? t.id = some t2 ∧
        OnlyGroup (s.touchAll t.id w (w.addrR x)) s1 c t2 g g1 ts1 ∧ ts1.phase = .parked .tile ∧ ts1.pc = ts.pc ∧
        { g1 with tsets := g.tsets } = g)

/-- R234, R240: `ttake` completes by holding its take of each active lane's tile; `bank` answers true, and holds the switch of
a bank that is in the other mode; a bank leaving its plan's mode is closed to arrivals.
It rests on the model's choices of log entry 39. -/
def Sys2Proof.Claim.TakeAndBank : Prop :=
  (∀ x s c t g ts, Issues s c t g ts → activeLanes g ts x.grd ≠ [] →
    let w := s.wordWindow t g ts x.grd
    s.scratchCheck t w (tyBytes x.typ) (w.addrR x) = none →
    ∃ s1 t2 g1 ts1, exec (.ttake x) s = .next s1 ∧ (s.touchAll t.id w (w.addrR x)).team? t.id = some t2 ∧
      OnlyGroup (s.touchAll t.id w (w.addrR x)) s1 c t2 g g1 ts1 ∧ Advanced ts ts1 ∧
      { g1 with tsets := g.tsets } = g ∧ ts1.fl = ts.fl ∧
      ts1.held = ⟨ts.pc, w.act, .ttake x.typ x.dst (w.act.map fun l => (l, w.addrR x l)), w.low⟩ :: ts.held) ∧
  ∀ x s c t g ts own, Issues s c t g ts → activeLanes g ts x.grd ≠ [] →
    let w := s.wordWindow t g ts x.grd
    let core := (w.srcLow x.sa).toNat
    let bank := (w.srcLow x.sb).toNat
    let mode := modField x.mod 0 2
    t.planMode core bank = some own → (mode = 0 ∨ mode = own) →
    let now := if t.released.contains (32 * core + bank) then 0 else own
    (mode = now → Completes (.bank x) s c t g ts x.grd
      (PredSpec.Done { grd := x.grd, dst := x.dst, val := fun _ _ => true })) ∧
    (mode ≠ now → now = 0 → Completes (.bank x) s c t g ts x.grd fun w w1 =>
      WrotePred w w1 x.dst (fun _ => true) ∧ w1.ts.held = ⟨w.ts.pc, w.act, .bank core bank mode, w.low⟩ :: w.ts.held) ∧
    (mode ≠ now → now ≠ 0 → ¬(own = 1 ∧ t.bankBusy core bank) → ¬(own = 2 ∧ t.fifoOver core bank) →
      ∃ s1 g1 ts1, exec (.bank x) s = .next s1 ∧
        OnlyGroup (s.setTeam { t with closed := (32 * core + bank) :: t.closed }) s1 c
          { t with closed := (32 * core + bank) :: t.closed } g g1 ts1 ∧
        WrotePred w { w with grp := g1, ts := ts1 } x.dst (fun _ => true) ∧
        ts1.held = ⟨ts.pc, w.act, .bank core bank mode, w.low⟩ :: ts.held)

/-- The words on full/empty tags and banks. -/
def Obligations.FullEmptyWordsComplete : Prop := Sys2Proof.Claim.TwaitWaits ∧ Sys2Proof.Claim.TakeAndBank

/-- R223, R224: `probe` completes: an active lane finds the slot that holds its block (hit), takes a free
slot and queues its fill, or finds none; a slot found or taken is protected, and the destination is the scratch offset of
the lane's byte in it, all ones with none. `prinv` frees the slots it names once none of them is being filled.
It rests on the model's choices of log entry 36. -/
def Obligations.ProbeWordsComplete : Prop :=
  (∀ x s c t g ts ls l i, Issues s c t g ts → activeLanes g ts x.grd = [l] → (s.kernelOf t).probe ≠ 0 →
    let w := s.wordWindow t g ts x.grd
    gather (fun l => s.laneAccess (s.who t w 0 false) t (32 * g.index + l) 0 (w.addrI x l) 1 1) w.act = .ok ls →
    t.slotOf (s.kernelOf t).probe (w.addrI x l / 512 * 512) = some i →
    ∃ s1 g1 ts1, exec (.probe x) s = .next s1 ∧ OnlyGroup (s.setTeam (t.protect i)) s1 c (t.protect i) g g1 ts1 ∧
      ts1.prot = i :: ts.prot ∧
      (∀ n, x.dst = .v n → aget marker g1.v (laneKey n.toNat l) =
        BitVec.ofNat 64 (slotOff (s.kernelOf t) i + w.addrI x l % 512)) ∧
      (∀ p, x.sb = .p p → p.val ≠ 0 → g1.pred l p.val = true)) ∧
  (∀ x s c t g ts ls l, Issues s c t g ts → activeLanes g ts x.grd = [l] → (s.kernelOf t).probe ≠ 0 →
    let w := s.wordWindow t g ts x.grd
    gather (fun l => s.laneAccess (s.who t w 0 false) t (32 * g.index + l) 0 (w.addrI x l) 1 1) w.act = .ok ls →
    t.slotOf (s.kernelOf t).probe (w.addrI x l / 512 * 512) = none → t.victim (s.kernelOf t).probe = none →
    ∃ s1 g1 ts1, exec (.probe x) s = .next s1 ∧ OnlyGroup s s1 c t g g1 ts1 ∧ ts1.prot = ts.prot ∧
      (∀ n, x.dst = .v n → aget marker g1.v (laneKey n.toNat l) = BitVec.allOnes 64) ∧
      (∀ p, x.sb = .p p → p.val ≠ 0 → g1.pred l p.val = false)) ∧
  (∀ x s c t g ts ls l i, Issues s c t g ts → activeLanes g ts x.grd = [l] → (s.kernelOf t).probe ≠ 0 →
    let w := s.wordWindow t g ts x.grd
    let k := s.kernelOf t
    let blk := w.addrI x l / 512 * 512
    gather (fun l => s.laneAccess (s.who t w 0 false) t (32 * g.index + l) 0 (w.addrI x l) 1 1) w.act = .ok ls →
    t.slotOf k.probe blk = none → t.victim k.probe = some i →
    ∃ s1 t1 g1 ts1, exec (.probe x) s = .next s1 ∧ s1.view c = some (t1, g1, ts1) ∧ ts1.pc = ts.pc + 1 ∧
      ts1.prot = i :: ts.prot ∧
      (∀ n, x.dst = .v n → aget marker g1.v (laneKey n.toNat l) = BitVec.ofNat 64 (slotOff k i + w.addrI x l % 512)) ∧
      (∀ p, x.sb = .p p → p.val ≠ 0 → g1.pred l p.val = false) ∧
      aget slot0 t1.slots i = ⟨1, blk, (aget slot0 t.slots i).prot + 1⟩ ∧ t1.next = (i + 1) % k.probe ∧
      (t1.tag (slotOff k i)).mask = 0 ∧
      s1.fills = s.fills ++ [⟨s.nextId, t.id, g.index, [l], ts.pc, l, some i, slotOff k i, blk, s.clk⟩] ∧ s1.mem = s.mem) ∧
  ∀ x s c t g ts, Issues s c t g ts → activeLanes g ts x.grd ≠ [] → (s.kernelOf t).probe ≠ 0 →
    let w := s.wordWindow t g ts x.grd
    let slots := t.invSlots (s.kernelOf t).probe (x.mod.getLsbD 0) (w.act.map fun l => w.addrR x l / 512 * 512)
    (∀ i ∈ slots, (aget slot0 t.slots i).state ≠ 1) →
    ∃ s1 g1 ts1 t1, exec (.prinv x) s = .next s1 ∧ s1.view c = some (t1, g1, ts1) ∧ ts1.pc = ts.pc + 1 ∧
      (∀ i, (aget slot0 t1.slots i).state = if i ∈ slots then 0 else (aget slot0 t.slots i).state) ∧
      s1.mem = s.mem ∧ t1.scr = t.scr

namespace Sys2Proof.Machine

/-! ### Trailers -/

/-- Kind and fields of a trailer (R54). -/
def trailerSpec : Instr → Option (Nat × TWord)
  | .endRun x => some (0, x)
  | .bra x => some (1, x)
  | .brc x => some (2, x)
  | .brx x => some (3, x)
  | .call x => some (4, x)
  | .callx x => some (5, x)
  | .ret x => some (6, x)
  | .exit x => some (7, x)
  | .yield x => some (8, x)
  | _ => none

/-- Where a trailer of each kind sends a lane (R54, R137, R140); `exit` sends it nowhere. -/
def laneTarget (w : W) (kind : Nat) (x : TWord) (lane : Nat) : Nat :=
  match kind with
  | 1 => targetOf w.ts.pc x.tgt
  | 2 => if w.grp.guard x.grd lane then targetOf w.ts.pc x.tgt else w.ts.pc + 1
  | 3 => (w.src x.reg lane).toNat
  | 4 => targetOf w.ts.pc x.tgt
  | 5 => (w.src x.reg lane).toNat
  | 6 => (aget [] w.grp.stk lane).getD (aget 0 w.grp.depth lane - 1) 0
  | _ => w.ts.pc + 1

/-- The lane's move needs no private memory and no fault stops it: a target that a register or the stack gives starts a run,
a push stays on chip, and a pop has an entry on chip (R137, R139, R140). -/
def laneMoves (k : Kernel) (w : W) (kind : Nat) (x : TWord) (lane : Nat) : Prop :=
  (kind = 3 ∨ kind = 5 ∨ kind = 6 → k.runStart (laneTarget w kind x lane) = true) ∧
  (kind = 4 ∨ kind = 5 → aget 0 w.grp.depth lane < 4) ∧
  (kind = 6 → 1 ≤ aget 0 w.grp.depth lane ∧ aget 0 w.grp.depth lane ≤ 4)

/-- The lane's call stack after the trailer (R140). -/
def laneStack (w : W) (kind lane : Nat) : Nat × List Nat :=
  let d := aget 0 w.grp.depth lane
  let stk := aget [] w.grp.stk lane
  if kind = 4 ∨ kind = 5 then (d + 1, stk ++ [w.ts.pc + 1])
  else if kind = 6 then (d - 1, stk.take (d - 1))
  else if kind = 7 then (0, [])
  else (d, stk)

/-- The fault of a lane's move that needs no private memory (R137, R139, R140): an indirect target that starts no run ADDR; a push
beyond the fourth entry with no room in private memory STACK 1; a pop from an empty stack STACK 2, and of an entry that starts
no run STACK 3. -/
def laneFault (k : Kernel) (w : W) (kind : Nat) (x : TWord) (lane : Nat) : Option FInfo :=
  let d := aget 0 w.grp.depth lane
  let at_ := laneTarget w kind x lane
  if (kind = 3 ∨ kind = 5) ∧ k.runStart at_ = false then some { code := 3, lane := lane, addr := at_ }
  else if (kind = 4 ∨ kind = 5) ∧ 4 ≤ d ∧ k.priv < 8 * (d - 3) then some { code := 10, lane := lane, detail := 1 }
  else if kind = 6 ∧ d = 0 then some { code := 10, lane := lane, detail := 2 }
  else if kind = 6 ∧ d ≤ 4 ∧ k.runStart at_ = false then some { code := 10, lane := lane, detail := 3, addr := at_ }
  else none

/-- Bytes of the ring of hot chunks (R202). -/
def hotRing (s : State) (a : Nat) : Prop := Inside (fieldOf s.pg.hotq.toNat 12 44 * 4096) 32768 a

/-- Held acts performed in program order; the list has the newest first (R51). -/
def performAll (s : State) (c : Cur) (held : List Held) : State := held.foldr (fun h s => s.act c h) s

/-- No held store has to wait for its place when its turn comes (R203, R305). -/
def performable (s : State) (c : Cur) : List Held → Prop
  | [] => True
  | h :: hs => performable s c hs ∧
      ∀ t g ts, (performAll s c hs).view c = some (t, g, ts) → (performAll s c hs).storeWaits t g h = false

/-- The registers of a run applied to its group, its acts still to be performed (R126, R141). -/
def State.applied (s : State) (t : Team) (g : Group) (ts : TSet) : State :=
  s.setTeam (t.setGroup ((g.applyRun ts).setTset ts.settled))

/-- The thread set of `c` issues the trailer of a run that can commit: nothing keeps it waiting and no act of it faults (R51, R136
step 1). -/
structure AtCommit (s : State) (c : Cur) (t : Team) (g : Group) (ts : TSet) (x : TWord) : Prop where
  issues : Issues s c t g ts
  open_ : ts.committed = false
  placed : ts.mustPlace = false
  waits : s.commitWait t g ts = none
  faults : s.commitFault t g ts = none
  stores : performable (s.applied t g ts) c ts.held
  reg : (∃ n, x.reg = .v n) ∨ ∃ n, x.reg = .g n

/-- The act writes a byte of memory of the package: a store its own bytes, `qsig` its counter (R102, R215). -/
def Held.writes (h : Held) (a : Nat) : Prop :=
  match h.act with
  | .store (.mem pa) _ bs _ => Inside pa bs.length a
  | .qsig (.mem pa) _ _ _ => Inside pa 8 a
  | _ => False

/-- What cores buffer lies on other packages (R299). -/
def BuffersAway (s : State) : Prop :=
  ∀ core, ∀ e ∈ (s.core core).wc, ∀ x ∈ e.bytes, paPkg (e.line + x.1) ≠ s.pkg

/-- The thread set of `c` issues its trailer with nothing of its run held to the commit. -/
structure AtTrailer (s : State) (c : Cur) (t : Team) (g : Group) (ts : TSet) (x : TWord) : Prop where
  issues : Issues s c t g ts
  held : ts.held = []
  open_ : ts.committed = false
  passes : g.awaitPasses x.await = true
  reg : (∃ n, x.reg = .v n) ∨ ∃ n, x.reg = .g n

end Sys2Proof.Machine

/-- R53, R54, R125, R136, R137, R140: at a trailer whose AWAIT test passes, every lane of the thread set that does not exit
stands, at the start of its next run, in a ready thread set at the word its kind sends it to; its call stack is pushed or
popped as its kind says; no lane register, predicate or byte of memory changes. -/
def Obligations.TrailersMoveTheirLanes : Prop :=
  ∀ i kind x s c t g ts, trailerSpec i = some (kind, x) → kind ≠ 7 → AtTrailer s c t g ts x → x.conv = false →
    let w := s.window t g ts ts.lanes
    (∀ l ∈ ts.lanes, laneMoves (s.kernelOf t) w kind x l) →
    ∃ s1 t1 g1, exec i s = .next s1 ∧ s1.team? c.1 = some t1 ∧ t1.group? c.2.1 = some g1 ∧
      (∀ l ∈ ts.lanes, ∃ ts1 ∈ g1.tsets, l ∈ ts1.lanes ∧ ts1.pc = laneTarget w kind x l ∧ ts1.fresh = true ∧
        ts1.phase = .ready) ∧
      (∀ l ∈ ts.lanes, aget 0 g1.depth l = (laneStack w kind l).1 ∧ aget [] g1.stk l = (laneStack w kind l).2) ∧
      g1.v = g.v ∧ g1.p = g.p ∧ s1.mem = s.mem ∧ t1.scr = t.scr

/-- R54, R125, R137: at `exit` the lanes leave: they are exited, their call stacks are empty, and no thread set of the group
holds one of them. -/
def Obligations.ExitEndsItsLanes : Prop :=
  ∀ x s c t g ts, AtTrailer s c t g ts x →
    ∃ s1 t1 g1, exec (.exit x) s = .next s1 ∧ s1.team? c.1 = some t1 ∧ t1.group? c.2.1 = some g1 ∧
      (∀ l ∈ ts.lanes, l ∈ g1.exited ∧ aget 0 g1.depth l = 0 ∧ aget [] g1.stk l = [] ∧ ∀ y ∈ g1.tsets, l ∉ y.lanes) ∧
      (∀ l, l ∈ g.exited → l ∈ g1.exited) ∧ g1.v = g.v ∧ g1.p = g.p ∧ s1.mem = s.mem

/-- R40, R77, R126, R136, R141: the commit at a trailer gives the group what its run wrote: each uniform register and lane-set
register its newest value, `sr.fflg` the value written in the run, if any, with the flags raised in it, and the seed its
newest value. -/
def Sys2Proof.Claim.CommitApplies : Prop :=
  ∀ i kind x s c t g ts, trailerSpec i = some (kind, x) → AtTrailer s c t g ts x →
    let w := s.window t g ts ts.lanes
    (∀ l ∈ ts.lanes, laneMoves (s.kernelOf t) w kind x l) →
    ∃ s1 t1 g1, exec i s = .next s1 ∧ s1.team? c.1 = some t1 ∧ t1.group? c.2.1 = some g1 ∧
      (∀ n, aget marker g1.g n = w.gRead n) ∧
      (∀ n, n ≠ 0 → aget 32 g1.ls n = w.lsRead n) ∧
      g1.fflg = (ts.flWrite.getD g.fflg) ||| ts.fl ∧ g1.seed = w.seed ∧ g1.runs = g.runs + 1

/-- R51, R136: at a trailer, the run that can commit has its registers applied and its held acts performed in program order,
whatever they are; beside that only the set's own group changes further, as its lanes move on, and the counts of its launch's
entry and of probe slots it protected. It rests on the model's choices of log entry 61. -/
def Sys2Proof.Claim.CommitPerforms : Prop :=
  ∀ i kind x s c t g ts, trailerSpec i = some (kind, x) → AtCommit s c t g ts x →
    let p := performAll (s.applied t g ts) c ts.held
    (∀ t2 g2 ts2, p.view c = some (t2, g2, ts2) →
      ∀ l ∈ ts2.lanes, laneMoves (p.kernelOf t2) (p.window t2 g2 ts2 ts2.lanes) kind x l) →
    ∃ s1 t1 g1 tp gp, exec i s = .next s1 ∧ { s1 with teams := p.teams, tcache := p.tcache } = p ∧
      p.team? c.1 = some tp ∧ s1.team? c.1 = some t1 ∧ { t1 with groups := tp.groups, slots := tp.slots } = tp ∧
      (∀ id, id ≠ c.1 → s1.team? id = p.team? id) ∧ (∀ k, k ≠ c.2.1 → t1.group? k = tp.group? k) ∧
      tp.group? c.2.1 = some gp ∧ t1.group? c.2.1 = some g1 ∧
      { g1 with tsets := gp.tsets, depth := gp.depth, stk := gp.stk, runs := gp.runs, exited := gp.exited, nextTs := gp.nextTs } = gp

/-- R51, R215: of held acts that post no message and store to no page under migration nor across packages, performed in program
order, each store puts its bytes at its own address, where no later act of the run writes them, and every other byte of the package's memory is
as before, but for the counters of `qsig` and the ring of hot chunks. It rests on the model's choices of log entry 61. -/
def Sys2Proof.Claim.HeldStoresLand : Prop :=
  ∀ (s : State) c held, s.view c ≠ none → BuffersAway s →
    (∀ h ∈ held, h.byAddress = false ∧ (∀ a, h.act ≠ .nsend a) ∧
      ∀ pa va bs rel k, h.act = .store (.mem pa) va bs rel → k < bs.length → paPkg (pa + k) = paPkg pa) →
    (∀ a, paPkg a = s.pkg → ¬hotRing s a → (∀ h ∈ held, ¬h.writes a) →
      readByte (performAll s c held).mem a = readByte s.mem a) ∧
    ∀ later h earlier pa va bs rel, held = later ++ h :: earlier → h.act = .store (.mem pa) va bs rel → paPkg pa = s.pkg →
      s.fw.keySlots.getLsbD (paKey pa) = true → s.hbmFailed pa bs.length = false →
      ∀ k, k < bs.length → ¬hotRing s (pa + k) → (∀ y ∈ later, ¬y.writes (pa + k)) →
        readByte (performAll s c held).mem (pa + k) = bs.getD k 0

/-- R100, R219, R228, R234, R236, R255, R284, R299: what the acts of a commit do. `tmark` sets the tag of its tile alone; `ttake` writes
each lane's bytes to its destination and empties its tile; a copy joins the commands, its status its group's and its count
its signal; a release at `.team` or wider or an arrival at a barrier drains what the core buffers (R299), and `fence.op` ends the older
bytes of its threads' stores (R219). That a release at `.grp`, and `fence.op`, drain the core's whole buffer too, where R219 drains the
set's own earlier remote stores, is the model's choice of log entry 11; `qpush` pushes the record with the context's next launch number.
It rests on the model's choices of log entry 11. -/
def Sys2Proof.Claim.HeldActs : Prop :=
  ∀ (s : State) c t g ts h, s.view c = some (t, g, ts) →
    let core := t.coreNo (s.tcore t g.index)
    let s1 := s.act c h
    (∀ off full, h.act = .tmark off full →
      ∃ t1, s1.team? c.1 = some t1 ∧ (t1.tag off).mask = (if full then 0xFFFF else 0) ∧
        (t1.tag off).ovr = (full && (t.tag off).ovr) ∧
        (∀ o, t.scrKey o / 512 ≠ t.scrKey off / 512 → t1.tag o = t.tag o) ∧ { t1 with tags := t.tags } = t ∧
        { s1 with teams := s.teams } = s) ∧
    (∀ typ n offs, h.act = .ttake typ (.v n) offs → (offs.map fun o => o.1).Nodup →
      ∃ t1 g1, s1.team? c.1 = some t1 ∧ t1.group? c.2.1 = some g1 ∧
        (∀ o ∈ offs, (t1.tag o.2).mask = 0 ∧
          aget marker g1.v (laneKey n.toNat o.1) = moveReg typ (BitVec.ofNat 64 (leNat (t.scrRead o.2 (tyBytes typ))))) ∧
        (∀ k, (∀ o ∈ offs, k ≠ laneKey n.toNat o.1) → aget marker g1.v k = aget marker g.v k) ∧
        (∀ a, (∀ o ∈ offs, t.scrKey a / 512 ≠ t.scrKey o.2 / 512) → t1.tag a = t.tag a) ∧ t1.scr = t.scr ∧ s1.mem = s.mem) ∧
    (∀ a, h.act = .copy a →
      ∃ k g1 t1, s1.cmds = s.cmds ++ [k] ∧ k.id = s.nextId ∧ k.args = a ∧ k.team = c.1 ∧ k.group = c.2.1 ∧ k.pc = h.pc ∧
        k.lanes = h.lanes ∧ s1.team? c.1 = some t1 ∧ t1.group? c.2.1 = some g1 ∧
        g1.copies = (⟨s.nextId, 0, 0, 1⟩ :: g.copies).take 16 ∧
        (∀ i, aget 0 g1.sig i = aget 0 g.sig i + (if a.sig = some i then 1 else 0)) ∧ s1.mem = s.mem) ∧
    (∀ order scope, h.act = .fence 0 order scope → (order = 2 ∨ order = 3) → (s1.core core).wc = []) ∧
    (∀ op b n sig dst, h.act = .barrier op b n sig dst → arrives op = true → (s1.core core).wc = []) ∧
    (∀ order scope, h.act = .fence 1 order scope → (s1.core core).wc = [] ∧
      ∃ t1, s1.team? c.1 = some t1 ∧ ∀ e ∈ t1.unf, e ∈ t.unf ∧ e.1 ∉ ts.lanes.map (32 * g.index + ·)) ∧
    (h.act = .qpush →
      ∃ t1, s1.team? c.1 = some t1 ∧ t1.children = t.children ++
          [((List.range 7).map fun k => aget 0 g.recb k) ++ [(s.ctx (s.ctxOf t)).launchNo.zeroExtend 64]] ∧
        (s1.ctx (s.ctxOf t)).launchNo = (s.ctx (s.ctxOf t)).launchNo + 1 ∧ s1.mem = s.mem)

/-- What a commit at a trailer does. -/
def Obligations.CommitAppliesTheRun : Prop := Sys2Proof.Claim.CommitApplies ∧ Sys2Proof.Claim.CommitPerforms ∧ Sys2Proof.Claim.HeldStoresLand ∧ Sys2Proof.Claim.HeldActs

/-- R55, R136: a trailer whose AWAIT test fails commits its run and waits: its thread set keeps its lanes and its place, with
the next word of each lane resolved. -/
def Sys2Proof.Claim.AwaitWaits : Prop :=
  ∀ i kind x s c t g ts, trailerSpec i = some (kind, x) → Issues s c t g ts → ts.held = [] → ts.committed = false →
    g.awaitPasses x.await = false → ((∃ n, x.reg = .v n) ∨ ∃ n, x.reg = .g n) →
    let w := s.window t g ts ts.lanes
    (∀ l ∈ ts.lanes, laneMoves (s.kernelOf t) w kind x l) →
    ∃ s1 t1 g1 ts1, exec i s = .next s1 ∧ s1.view c = some (t1, g1, ts1) ∧ ts1.phase = .await ∧ ts1.lanes = ts.lanes ∧
      ts1.pc = ts.pc ∧ ts1.await = x.await ∧
      ∀ l ∈ ts.lanes, aget 0 ts1.next l = if kind = 7 then 0 else laneTarget w kind x l + 1

/-- R136, R137, R139, R140: after the commit, a trailer some of whose lanes cannot move faults for the lowest of them: a push of `call` or
`callx` beyond the fourth entry with no room in private memory STACK 1, a pop from an empty stack STACK 2, a popped entry that
starts no run STACK 3, and a target of `brx` or `callx` that starts no run ADDR. -/
def Sys2Proof.Claim.TrailerFaultsTaken : Prop :=
  ∀ i kind x s c t g ts e, trailerSpec i = some (kind, x) → AtTrailer s c t g ts x →
    let w := s.window t g ts ts.lanes
    ts.lanes.findSome? (laneFault (s.kernelOf t) w kind x) = some e →
    (∀ l ∈ ts.lanes, laneFault (s.kernelOf t) w kind x l = none → laneMoves (s.kernelOf t) w kind x l) →
    exec i s = .next ((s.commitRun c).takeFault c ts.pc e)

/-- What the AWAIT field and the checks of a trailer do. -/
def Obligations.AwaitsAndTrailerFaults : Prop := Sys2Proof.Claim.AwaitWaits ∧ Sys2Proof.Claim.TrailerFaultsTaken

/-! ### Faults, traps and handlers -/

/-- R52, R65, R69: taking a fault, with no act of an earlier word held: the record is queued with the team's index, the
group, the core, the PC, the launch number, the context and the thread set's lanes; the thread set runs no more; the launch
keeps its first fault and all of its teams halt; a set that waits for a handler which faults runs no more either; an ACTIVE context is FAULTED, and a SUSPENDED one will be. Earlier words
of the run count as committed. No byte of memory changes. -/
def Obligations.FaultIsTaken : Prop :=
  ∀ (s : State) c t g ts pc e l, s.view c = some (t, g, ts) → ts.held = [] → s.launch? t.launch = some l →
    let s1 := s.takeFault c pc e
    let x := s.ctx l.ctx
    let x1 := s1.ctx l.ctx
    s1.view c = none ∧ s1.mem = s.mem ∧
    (∀ y p, ts.emu = some y → y.parent ≠ ts.id → g.tset? y.parent = some p → p.held = [] → s1.view (c.1, c.2.1, y.parent) = none) ∧
    x1.fwait = x.fwait ++ [⟨t.index % 2 ^ 32, g.index, t.coreNo (s.tcore t g.index), pc, l.num.toNat, l.ctx, e, ts.lanes,
      s.pidTid l⟩] ∧
    x1.state = (if x.state = 2 then 4 else x.state) ∧ (x.state = 3 → x1.faultedWhile = true) ∧
    (∃ l1, s1.launch? t.launch = some l1 ∧ l1.fault = some (l.fault.getD e.code)) ∧
    (∀ u ∈ s1.teams, u.launch = t.launch → u.halting = true) ∧
    ∃ t1 g1, s1.team? c.1 = some t1 ∧ t1.group? c.2.1 = some g1 ∧ g1.v = g.v ∧ g1.p = g.p ∧
      g1.fflg = (ts.flWrite.getD g.fflg) ||| ts.fl ∧ ∀ n, aget marker g1.g n = overlay (aget marker g.g n) ts.gOv n

/-- R79: `trap` takes TRAP with its 32-bit code as DETAIL. `brk` without a debugger on the context takes BREAK; with one, the
thread set stops at the word after it. -/
def Obligations.TrapsAndBreaks : Prop :=
  (∀ x s c t g ts, Issues s c t g ts → activeLanes g ts x.grd ≠ [] →
    exec (.trap x) s = .next (s.faultAt c ts.pc
      { code := 12, lane := (s.wordWindow t g ts x.grd).low, detail := x.imm.toNat })) ∧
  (∀ x s c t g ts, Issues s c t g ts → activeLanes g ts x.grd ≠ [] → s.attached (s.ctxOf t) = false →
    exec (.brk x) s = .next (s.faultAt c ts.pc
      { code := 13, lane := (s.wordWindow t g ts x.grd).low, detail := x.imm.toNat })) ∧
  ∀ x s c t g ts, Issues s c t g ts → activeLanes g ts x.grd ≠ [] → s.attached (s.ctxOf t) = true → ts.held = [] →
    ts.stop = false → g.tsets = [ts] →
    ∃ s1 t1 g1 ts1, exec (.brk x) s = .next s1 ∧ s1.view c = some (t1, g1, ts1) ∧ ts1.stop = true ∧
      ts1.pc = ts.pc + 1 ∧ ts1.lanes = ts.lanes ∧ g1.v = g.v ∧ g1.p = g.p

/-- R59 to R61: an illegal word with no active lane has no effect. With one, a kernel without a handler faults ILLEGAL with
the word's class and opcode, as does a word inside a handler; a kernel with one begins its handler on the word's active
lanes, with the word and each lane's operands saved, and the set waits to go on at the next word. -/
def Sys2Proof.Claim.IllegalTaken : Prop :=
  (∀ w s c t g ts, Issues s c t g ts → activeLanes g ts (w.extractLsb' 98 4) = [] →
    Completes (.illegalWord w) s c t g ts (w.extractLsb' 98 4) fun v v1 => SameRegs v v1 ∧ v1.ts.fl = v.ts.fl ∧
      SameActs v.ts v1.ts) ∧
  (∀ w s c t g ts, Issues s c t g ts → activeLanes g ts (w.extractLsb' 98 4) ≠ [] →
    ((s.kernelOf t).emu = none ∨ ts.emu ≠ none) →
    exec (.illegalWord w) s = .next (s.faultAt c ts.pc
      { code := 1, lane := (s.wordWindow t g ts (w.extractLsb' 98 4)).low, detail := fieldOf w.toNat 114 13 })) ∧
  ∀ w s c t g ts entry, Issues s c t g ts → activeLanes g ts (w.extractLsb' 98 4) ≠ [] → ts.held = [] →
    (s.kernelOf t).emu = some entry → ts.emu = none →
    ∃ s1 t1 g1 ts1 child e, exec (.illegalWord w) s = .next s1 ∧ s1.view c = some (t1, g1, ts1) ∧
      ts1.phase = .inHandler child.id ∧ ts1.pc = ts.pc + 1 ∧ child ∈ g1.tsets ∧ child.id = g.nextTs ∧
      child.pc = entry ∧ child.lanes = activeLanes g ts (w.extractLsb' 98 4) ∧ child.emu = some e ∧ e.word = w ∧
      e.pc = ts.pc ∧ e.parent = ts.id ∧ g1.v = g.v ∧ g1.p = g.p ∧ s1.mem = s.mem

/-- R60, R82: inside a handler `emuwr` writes the register, temporary or predicate that `sr.emudst` names, a temporary of the
parent at the commit, and nothing where that is the register that discards writes; `emuret` ends the handler's set: with no
other set of the handler left, the parent goes on where it stands, at the word after the illegal one. Outside a handler both
fault ILLEGAL. It rests on the model's choices of log entries 35 and 61. -/
def Sys2Proof.Claim.HandlersRun : Prop :=
  (∀ x s c t g ts e n, Issues s c t g ts → activeLanes g ts x.grd ≠ [] → ts.emu = some e →
    (Opd.ofBits (e.word.extractLsb' 78 20) = some (.v n) →
      Completes (.emuwr x) s c t g ts x.grd (RegSpec.Done { grd := x.grd, dst := .v n, val := fun w l => w.src x.sa l })) ∧
    (Opd.ofBits (e.word.extractLsb' 78 20) = some (.g n) →
      Completes (.emuwr x) s c t g ts x.grd (RegSpec.Done { grd := x.grd, dst := .g n, val := fun w l => w.src x.sa l }))) ∧
  (∀ x s c t g ts e n, Issues s c t g ts → activeLanes g ts x.grd ≠ [] → ts.emu = some e →
    Opd.ofBits (e.word.extractLsb' 78 20) = some (.p n) →
      Completes (.emuwr x) s c t g ts x.grd
        (PredSpec.Done { grd := x.grd, dst := .p n, val := fun w l => (w.src x.sa l).getLsbD 0 })) ∧
  (∀ x s c t g ts e n, Issues s c t g ts → activeLanes g ts x.grd ≠ [] → ts.emu = some e →
    Opd.ofBits (e.word.extractLsb' 78 20) = some (.t n) →
      Completes (.emuwr x) s c t g ts x.grd fun w w1 => SameRegs w w1 ∧ w1.ts.fl = w.ts.fl ∧
        w1.ts.held = ⟨ts.pc, w.act, .emuTemp n.val (w.act.map fun l => (l, w.src x.sa l)), w.low⟩ :: w.ts.held) ∧
  (∀ (s : State) c t g ts e p h i vals, s.view c = some (t, g, ts) → ts.emu = some e → h.act = .emuTemp i vals →
    (vals.map fun v => v.1).Nodup → g.tset? e.parent = some p →
    ∃ t1 g1 p1, (s.act c h).view (c.1, c.2.1, e.parent) = some (t1, g1, p1) ∧
      (∀ v ∈ vals, v.1 < 32 → overlay 0 p1.temps (laneKey i v.1) = v.2) ∧
      { p1 with temps := p.temps, temps0 := p.temps0 } = p ∧ (s.act c h).mem = s.mem) ∧
  (∀ x s c t g ts e, Issues s c t g ts → activeLanes g ts x.grd ≠ [] → ts.emu = some e →
    Opd.ofBits (e.word.extractLsb' 78 20) = some .z →
      Completes (.emuwr x) s c t g ts x.grd fun w w1 => SameRegs w w1 ∧ w1.ts.fl = w.ts.fl ∧ SameActs w.ts w1.ts) ∧
  (∀ x s c t g ts e p, Issues s c t g ts → activeLanes g ts x.grd ≠ [] → ts.emu = some e → ts.held = [] →
    (∀ y ∈ g.tsets, y.emu ≠ none → y.id = ts.id) → ts.id ≠ e.parent → g.tset? e.parent = some p →
    ∃ s1 t1 g1, exec (.emuret x) s = .next s1 ∧ s1.view c = none ∧
      s1.view (c.1, c.2.1, e.parent) = some (t1, g1, { p with phase := .ready, readyAt := s.clk, slotAt := g.slotAt }) ∧
      g1.v = g.v ∧ g1.p = g.p ∧ s1.mem = s.mem) ∧
  ∀ x s c t g ts, Issues s c t g ts → activeLanes g ts x.grd ≠ [] → ts.emu = none →
    exec (.emuwr x) s = .next (s.faultAt c ts.pc
      { code := 1, lane := (s.wordWindow t g ts x.grd).low, detail := 5 * 1024 + 8 }) ∧
    exec (.emuret x) s = .next (s.faultAt c ts.pc
      { code := 1, lane := (s.wordWindow t g ts x.grd).low, detail := 5 * 1024 + 9 })

/-- Illegal words, and the words of a handler. -/
def Obligations.IllegalWordsEnterHandlers : Prop := Sys2Proof.Claim.IllegalTaken ∧ Sys2Proof.Claim.HandlersRun

/-- R149: a thread set at `lsync` goes on at once where the active lanes that this word has not released before are all the live
lanes of their segments; with others of a segment still to come it waits there, and no register changes.
It rests on the model's choices of log entry 32. -/
def Sys2Proof.Claim.LsyncMeeting : Prop :=
  ∀ x s c t g ts i, Issues s c t g ts → activeLanes g ts x.grd ≠ [] → x.sa = .ls i → g.tsets = [ts] → ts.stop = false →
    (s.kernelOf t).text[ts.pc]?.map (fun w => w.extractLsb' 98 4) = some x.grd →
    let n := (s.wordWindow t g ts x.grd).lsRead i.val
    let missing (l : Nat) : Prop :=
      l ∈ lanes32 ∧ l ∉ g.exited ∧ l ∉ ts.unmet (activeLanes g ts x.grd) ∧ (ts.pc, l) ∉ ts.met ∧ (ts.pc, l) ∉ ts.freed ∧
        ∃ j ∈ ts.unmet (activeLanes g ts x.grd), j / n = l / n
    ((∀ l, ¬missing l) →
      ∃ s1 t1 g1 ts1, exec (.lsync x) s = .next s1 ∧ s1.view c = some (t1, g1, ts1) ∧ ts1.pc = ts.pc + 1 ∧
        ts1.phase = .ready ∧ ts1.fl0 = g.fflg ∧ { g1 with tsets := g.tsets } = g ∧ s1.mem = s.mem) ∧
    ((∃ l, missing l) →
      ∃ s1 t1 g1 ts1, exec (.lsync x) s = .next s1 ∧ s1.view c = some (t1, g1, ts1) ∧ ts1.pc = ts.pc ∧
        ts1.phase = .parked (.lsync i.val) ∧ { g1 with tsets := g.tsets } = g ∧ s1.mem = s.mem)

/-! ### Events of thread sets -/

/-- R55, R56, R125, R128, R136, R138: AWAIT_RELEASE sends each lane of a set whose awaited signals all read zero to its
resolved word, or ends it; CONV_WAIT_EXPIRY makes a set ready that has waited 256 ac; PROMOTION promotes a set passed over in
64 issue cycles; YIELD_EXPIRY ends a hold that has counted down. -/
def Sys2Proof.Claim.SetTimers : Prop :=
  (∀ (s : State) c t g ts, s.view c = some (t, g, ts) → ts.phase = .await → ts.stop = false → ts.conv = false →
    g.awaitPasses ts.await = true →
    ∃ s1 t1 g1, exec (.awaitRelease c.1 c.2.1 c.2.2) s = .next s1 ∧ s1.team? c.1 = some t1 ∧
      t1.group? c.2.1 = some g1 ∧
      (∀ l ∈ ts.lanes, aget 0 ts.next l ≠ 0 →
        ∃ ts1 ∈ g1.tsets, l ∈ ts1.lanes ∧ ts1.pc + 1 = aget 0 ts.next l ∧ ts1.fresh = true ∧ ts1.phase = .ready) ∧
      (∀ l ∈ ts.lanes, aget 0 ts.next l = 0 → l ∈ g1.exited ∧ ∀ y ∈ g1.tsets, l ∉ y.lanes) ∧
      g1.v = g.v ∧ g1.p = g.p ∧ s1.mem = s.mem ∧ t1.scr = t.scr) ∧
  (∀ (s : State) c t g ts since, s.view c = some (t, g, ts) → ts.phase = .conv since → ts.stop = false →
    since + 256 ≤ s.clk →
    ∃ s1 t1 g1, exec (.convWaitExpiry c.1 c.2.1 c.2.2) s = .next s1 ∧ s1.team? c.1 = some t1 ∧
      t1.group? c.2.1 = some g1 ∧ (∃ ts1 ∈ g1.tsets, ts1.phase = .ready ∧ ts1.pc = ts.pc ∧ ∀ l ∈ ts.lanes, l ∈ ts1.lanes) ∧
      g1.v = g.v ∧ g1.p = g.p ∧ s1.mem = s.mem ∧ t1.scr = t.scr) ∧
  (∀ (s : State) c t g ts, s.view c = some (t, g, ts) → 64 ≤ ts.pass → ts.promoted = none →
    ∃ s1, exec (.promotion c.1 c.2.1 c.2.2) s = .next s1 ∧ OnlySet s s1 c t g { ts with promoted := some s.clk }) ∧
  (∀ (s : State) c t g ts, s.view c = some (t, g, ts) → ts.hold = some 0 →
    ∃ s1, exec (.yieldExpiry c.1 c.2.1 c.2.2) s = .next s1 ∧
      OnlySet s s1 c t g { ts with hold := none, readyAt := s.clk }) ∧
  ∀ (s : State) c t g ts, s.view c = some (t, g, ts) →
    (ts.phase = .await → g.awaitPasses ts.await = false → exec (.awaitRelease c.1 c.2.1 c.2.2) s = .next s) ∧
    (∀ since, ts.phase = .conv since → s.clk < since + 256 → exec (.convWaitExpiry c.1 c.2.1 c.2.2) s = .next s) ∧
    (ts.pass < 64 → exec (.promotion c.1 c.2.1 c.2.2) s = .next s) ∧
    (ts.hold ≠ some 0 → exec (.yieldExpiry c.1 c.2.1 c.2.2) s = .next s)

namespace Sys2Proof.Machine

/-- The new value of an integer atomic of `w` bits (R217, R218): operations 0 to 8, minimum and maximum on two's complement
for a signed type. -/
def atomSpec (signed : Bool) (w op old b : Nat) : Nat :=
  let val (x : Nat) : Int := if signed ∧ 2 ^ (w - 1) ≤ x then (x : Int) - 2 ^ w else x
  match op with
  | 0 => (old + b) % 2 ^ w
  | 1 => if val b < val old then b else old
  | 2 => if val old < val b then b else old
  | 3 => old &&& b
  | 4 => old ||| b
  | 5 => old ^^^ b
  | 6 => b
  | 7 => if old ≥ b then 0 else old + 1
  | _ => if old = 0 ∨ b < old then b else old - 1

/-- The value a lane's integer atomic stores: a compare form stores its second operand where the old value equals the
first. -/
def atomStored (isCmp : Bool) (typ : Typ) (op old : Nat) (b c : Reg) : Nat :=
  let w := tyWidth typ
  if isCmp then (if old = b.toNat % 2 ^ w then c.toNat % 2 ^ w else old) else atomSpec (tySigned typ) w op old (b.toNat % 2 ^ w)

/-- The thread set of `c` has committed one atomic that can be performed now: no debugger has stopped it, every other package
has answered and no link on its way is in training (R217, R305, R329). -/
structure AtomicReady (s : State) (c : Cur) (t : Team) (g : Group) (ts : TSet) (h : Held) (typ : Typ) (parts : List AtomLane) :
    Prop where
  view : s.view c = some (t, g, ts)
  phase : ts.phase = .post .atomics
  runs : ts.stop = false
  answered : ∀ a ∈ s.accesses, ¬(a.kind = 2 ∧ a.team = c.1 ∧ a.group = c.2.1)
  held : ts.held = [h]
  links : s.atomHeld (t.coreNo (s.tcore t g.index)) parts (tyBytes typ) = false

/-- Atomics on memory of the package, lane after lane: the memory they leave, and each lane's old value (R217). -/
def atomRun (isCmp : Bool) (typ : Typ) (op : Nat) : Memory → List AtomLane → Memory × List (Nat × Nat)
  | m, [] => (m, [])
  | m, p :: ps =>
    let pa := match p.loc with | .mem pa => pa | _ => 0
    let old := leNat (readBytes m pa (tyBytes typ))
    let r := atomRun isCmp typ op (writeBytes m pa (leBytes (tyBytes typ) (atomStored isCmp typ op old p.b p.c))) ps
    (r.1, (p.lane, old) :: r.2)

/-- Atomics on their own team's scratch, lane after lane. -/
def atomRunScr (isCmp : Bool) (typ : Typ) (op : Nat) : Team → List AtomLane → Team × List (Nat × Nat)
  | t, [] => (t, [])
  | t, p :: ps =>
    let off := match p.loc with | .scr _ off => off | _ => 0
    let old := leNat (t.scrRead off (tyBytes typ))
    let r := atomRunScr isCmp typ op (t.scrWrite off (leBytes (tyBytes typ) (atomStored isCmp typ op old p.b p.c))) ps
    (r.1, (p.lane, old) :: r.2)

end Sys2Proof.Machine

/-- R217, R218, R299: ATOMIC_PERFORM completes for every atomic, of any type, operation, destination and lanes, once what its core
buffers for them has drained: the set goes on, and of its group and of memory and scratch nothing but the destination, the
flags and the places of the lanes changes, the hot ring aside. Integer atomics on memory of the package, or on their
team's scratch, are performed one lane after another, each on what the lanes before it left there, and give a vector destination
each lane's old value. A place that has lost its key or its data is left as it is, as is its lane's destination, and is charged
to the set. It rests on the model's choices of log entry 19. -/
def Obligations.AtomicPerformReadsAndWrites : Prop :=
  (∀ (s : State) c t g ts h isRed isCmp op typ dst parts rel, AtomicReady s c t g ts h typ parts →
    h.act = .atom isRed isCmp op typ dst parts rel →
    let s0 := s.drainAtom (t.coreNo (s.tcore t g.index)) parts (g.releases h rel)
    ∃ s1 t1 g1 ts1, exec (.atomicPerform c.1 c.2.1 c.2.2) s = .next s1 ∧ s1.view c = some (t1, g1, ts1) ∧
      ts1.phase = .ready ∧ ts1.held = [] ∧ ts1.pc = ts.pc ∧ ts1.lanes = ts.lanes ∧
      { g1 with v := g.v, g := g.g, tsets := g.tsets, fflg := g.fflg, flRuns := g.flRuns, tHist := g.tHist } = g ∧
      (∀ k, (∀ n p, dst = .v n → p ∈ parts → k ≠ laneKey n.toNat p.lane) → aget marker g1.v k = aget marker g.v k) ∧
      (∀ k, (∀ n, dst = .g n → k ≠ n.toNat) → aget marker g1.g k = aget marker g.g k) ∧
      (∀ d : Cur, (d.1 ≠ c.1 ∨ d.2.1 ≠ c.2.1) → (s1.view d).map (fun x => x.2) = (s.view d).map fun x => x.2) ∧
      (∀ a, (∀ p ∈ parts, ∀ pa, p.loc = .mem pa → ¬Inside pa (tyBytes typ) a) → ¬hotRing s a →
        readByte s1.mem a = readByte s0.mem a) ∧
      ((∀ p ∈ parts, ∀ id off, p.loc ≠ .scr id off) → t1.scr = t.scr)) ∧
  (∀ (s : State) c t g ts h isRed isCmp op typ n parts rel,
    AtomicReady s c t g ts h typ parts → typ ∈ [.i32, .i64, .n32, .n64] → op ≤ 8 →
    h.act = .atom isRed isCmp op typ (.v n) parts rel → (parts.map fun p => p.lane).Nodup →
    let s0 := s.drainAtom (t.coreNo (s.tcore t g.index)) parts (g.releases h rel)
    (∀ p ∈ parts, ∃ pa, p.loc = .mem pa ∧ s0.fw.keySlots.getLsbD (paKey pa) = true ∧
      s0.locBad (.mem pa) (tyBytes typ) = false ∧ ∀ a, Inside pa (tyBytes typ) a → ¬hotRing s a) →
    let r := atomRun isCmp typ op s0.mem parts
    ∃ s1 t1 g1 ts1, exec (.atomicPerform c.1 c.2.1 c.2.2) s = .next s1 ∧ s1.view c = some (t1, g1, ts1) ∧
      (∀ a, ¬hotRing s a → readByte s1.mem a = readByte r.1 a) ∧
      (∀ e ∈ r.2, aget marker g1.v (laneKey n.toNat e.1) = scalarReg typ e.2) ∧
      g1.fflg = (ts.flWrite.getD g.fflg) ||| ts.fl) ∧
  (∀ (s : State) c t g ts h isRed isCmp op typ n lane pa va b cc rel t0,
    AtomicReady s c t g ts h typ [⟨lane, .mem pa, va, b, cc⟩] →
    h.act = .atom isRed isCmp op typ (.v n) [⟨lane, .mem pa, va, b, cc⟩] rel →
    let s0 := s.drainAtom (t.coreNo (s.tcore t g.index)) [⟨lane, .mem pa, va, b, cc⟩] (g.releases h rel)
    s0.team? c.1 = some t0 →
    (s0.fw.keySlots.getLsbD (paKey pa) = false →
      ∃ s1 t1 g1 ts1, exec (.atomicPerform c.1 c.2.1 c.2.2) s = .next s1 ∧ s1.view c = some (t1, g1, ts1) ∧ s1.mem = s0.mem ∧
        g1.v = g.v ∧ t1.pend = t0.pend ++ [⟨c.2.1, h.lanes, h.pc, { code := 7, lane := lane, addr := va }⟩]) ∧
    (s0.fw.keySlots.getLsbD (paKey pa) = true → s0.locBad (.mem pa) (tyBytes typ) = true →
      ∃ s1 t1 g1 ts1, exec (.atomicPerform c.1 c.2.1 c.2.2) s = .next s1 ∧ s1.view c = some (t1, g1, ts1) ∧ s1.mem = s0.mem ∧
        g1.v = g.v ∧ t1.pend = t0.pend ++ [⟨c.2.1, h.lanes, h.pc, { code := 8, lane := lane, addr := va }⟩])) ∧
  ∀ (s : State) c t g ts h isRed isCmp op typ n parts rel,
    AtomicReady s c t g ts h typ parts → typ ∈ [.i32, .i64, .n32, .n64] → op ≤ 8 →
    h.act = .atom isRed isCmp op typ (.v n) parts rel → (parts.map fun p => p.lane).Nodup →
    (∀ p ∈ parts, ∃ off, p.loc = .scr c.1 off) → t.bad = [] →
    let s0 := s.drainAtom (t.coreNo (s.tcore t g.index)) parts (g.releases h rel)
    let r := atomRunScr isCmp typ op t parts
    ∃ s1 t1 g1 ts1, exec (.atomicPerform c.1 c.2.1 c.2.2) s = .next s1 ∧ s1.view c = some (t1, g1, ts1) ∧
      (∀ a, t1.scrByte a = r.1.scrByte a) ∧
      (∀ e ∈ r.2, aget marker g1.v (laneKey n.toNat e.1) = scalarReg typ e.2) ∧ s1.mem = s0.mem

/-- R67, R78, R101, R149, R348: SYS_RESULT writes each lane's result, in the order of the request's lanes, and the set goes on;
QJOIN_RELEASE, once every counter has reached its target, gives each lane's predicate the negation of ERR, and ends with KEY at a counter whose key has gone and with DATA at one whose bytes are lost; LSYNC_RELEASE
sends on a set with which no live lane of its segments is missing.
It rests on the model's choices of log entries 55 and 56. -/
def Sys2Proof.Claim.SetReleases : Prop :=
  (∀ (s : State) c t g ts h n svc parts results, s.view c = some (t, g, ts) → ts.phase = .post .service →
    ts.stop = false → (s.ctx (s.ctxOf t)).state ≠ 5 → ts.held = [h] → h.act = .sys (.v n) svc parts →
    (parts.map fun p => p.1).Nodup →
    ∃ s1 g1, exec (.sysResult c.1 c.2.1 c.2.2 results) s = .next s1 ∧
      OnlyGroup s s1 c t g g1 { ts with held := [], phase := .ready, readyAt := s.clk } ∧
      (∀ k (hk : k < parts.length),
        aget marker g1.v (laneKey n.toNat parts[k].1) = results.getD k 0xFFFFFFFFFFFFFFFF) ∧
      (∀ j, (∀ p ∈ parts, j ≠ laneKey n.toNat p.1) → aget marker g1.v j = aget marker g.v j) ∧
      { g1 with v := g.v, tsets := g.tsets } = g) ∧
  (∀ (s : State) c t g ts h i parts, s.view c = some (t, g, ts) → ts.phase = .parked .join → ts.stop = false →
    ts.held = [h] → h.act = .qjoin (.p i) parts → i.val ≠ 0 → (parts.map fun p => p.1).Nodup →
    (∀ p ∈ parts, s.counterFault p.2.1 = none ∧ s.linkHeld 1024 p.2.1 8 = false ∧ s.polderWaits (.mem p.2.1) = false ∧
      p.2.2.1 ≤ s.word64 p.2.1 % 2 ^ 63) →
    ∃ s1 g1, exec (.qjoinRelease c.1 c.2.1 c.2.2) s = .next s1 ∧
      OnlyGroup s s1 c t g g1 { ts with
        held := [], phase := .ready, readyAt := s.clk, undoP := parts.map (fun p => (p.1, aget 0 g.p p.1)) ++ ts.undoP } ∧
      (∀ p ∈ parts, g1.pred p.1 i.val = decide (s.word64 p.2.1 < 2 ^ 63)) ∧
      (∀ l j, ((∀ p ∈ parts, l ≠ p.1) ∨ j ≠ i.val) → g1.pred l j = g.pred l j) ∧
      { g1 with p := g.p, tsets := g.tsets } = g) ∧
  (∀ (s : State) c t g ts h d parts p code detail, s.view c = some (t, g, ts) → ts.phase = .parked .join → ts.stop = false →
    ts.held = [h] → h.act = .qjoin d parts → parts.find? (fun p => (s.counterFault p.2.1).isSome) = some p →
    s.counterFault p.2.1 = some (code, detail) →
    exec (.qjoinRelease c.1 c.2.1 c.2.2) s =
      .next (s.takeFault c h.pc { code := code, lane := p.1, addr := p.2.2.2, detail := detail })) ∧
  (∀ (s : State) pa, (s.fw.keySlots.getLsbD (paKey pa) = false → s.counterFault pa = some (7, 0)) ∧
    (s.fw.keySlots.getLsbD (paKey pa) = true → s.links = [] →
      (s.locBad (.mem pa) 8 = true → s.counterFault pa = some (8, 0)) ∧
      (s.locBad (.mem pa) 8 = false → s.counterFault pa = none))) ∧
  ∀ (s : State) c t g ts (ls : Fin 8) grd, s.view c = some (t, g, ts) → g.tsets = [ts] →
    ts.phase = .parked (.lsync ls.val) → ts.stop = false →
    (s.kernelOf t).text[ts.pc]?.map (fun w => w.extractLsb' 98 4) = some grd →
    (∀ l ∈ lanes32, l ∉ g.exited → l ∉ ts.unmet (activeLanes g ts grd) → (ts.pc, l) ∉ ts.met → (ts.pc, l) ∉ ts.freed →
      ∀ j ∈ ts.unmet (activeLanes g ts grd), j / (s.wordWindow t g ts grd).lsRead ls.val ≠ l / (s.wordWindow t g ts grd).lsRead ls.val) →
    ∃ s1, exec (.lsyncRelease c.1 c.2.1 ls) s = .next s1 ∧
      OnlySet s s1 c t g { ts with
        pc := ts.pc + 1, phase := .ready, fresh := false, got := [], got2 := [],
        readyAt := s.clk, fl0 := g.fflg, freed := (activeLanes g ts grd).map (fun l => (ts.pc, l)) ++ ts.freed }

/-- The timers of thread sets and the ends of their waits. -/
def Obligations.SetTimersAndReleases : Prop := Sys2Proof.Claim.SetTimers ∧ Sys2Proof.Claim.SetReleases ∧ Sys2Proof.Claim.LsyncMeeting

/-- R115 to R117: ALIAS_ROLLBACK of an open run in which a load has met an earlier store of the run, above which it may have
been hoisted, begins the run again: its thread set stands at its start with nothing held, every lane register and
predicate is as it stood there, no byte of memory or scratch has changed, the launch's entry counts the rollback, and
until its commit the run has no other; a set that is ready at that start takes its lanes in (R125). Without a conflict nothing
happens. It rests on the model's choices of log entry 24. -/
def Obligations.AliasRollbackRestores : Prop :=
  (∀ (s : State) c t g ts, s.view c = some (t, g, ts) → ts.openRun = true → ts.inOrder = false →
    (∀ y ∈ g.tsets, y.joinable = true → y.pc = ts.start → y.emu = ts.emu → y.id = ts.id) →
    (∃ a ∈ ts.aliases, ∃ h ∈ ts.held, ∃ pc loc n, h.stored = some (pc, loc, n) ∧ ts.start ≤ a.pc ∧ pc < a.pc ∧
      a.loc.meets a.len loc n = true ∧ (s.kernelOf t).hoistable (s.keptSites t) a.pc pc a.pc = true) →
    ∃ s1 t1 g1 ts1, exec (.aliasRollback c.1 c.2.1 c.2.2) s = .next s1 ∧ s1.view c = some (t1, g1, ts1) ∧
      ts1.pc = ts.start ∧ ts1.phase = .ready ∧ ts1.fresh = !ts.mid ∧ ts1.lanes = ts.lanes ∧ ts1.held = [] ∧
      ts1.gOv = [] ∧ ts1.lsOv = [] ∧ ts1.seedOv = none ∧ ts1.fl = 0 ∧ ts1.flWrite = none ∧ ts1.temps = ts.temps0 ∧
      ts1.inOrder = true ∧
      (∀ k, aget marker g1.v k = ((ts.undoV.reverse.find? fun e => e.1 == k).map (·.2)).getD (aget marker g.v k)) ∧
      (∀ l, aget 0 g1.p l = ((ts.undoP.reverse.find? fun e => e.1 == l).map (·.2)).getD (aget 0 g.p l)) ∧
      { g1 with v := g.v, p := g.p, tsets := g.tsets } = g ∧ s1.mem = s.mem ∧ t1.scr = t.scr ∧
      ∀ l e, s.launch? t.launch = some l → (s.tcache.find? fun e => e.id == l.entry) = some e →
        ∃ e1, (s1.tcache.find? fun e => e.id == l.entry) = some e1 ∧ e1.rollbacks = e.rollbacks + 1 ∧ e1.runs = e.runs) ∧
  (∀ (s : State) c t g ts y, s.view c = some (t, g, ts) → ts.openRun = true → ts.inOrder = false → ts.mid = false →
    s.conflicts c (s.kernelOf t) ts (s.keptSites t) ≠ [] → g.tsets = [y, ts] → y.joinable = true → y.pc = ts.start → y.emu = ts.emu →
    ∃ s1 t1 g1 y1, exec (.aliasRollback c.1 c.2.1 c.2.2) s = .next s1 ∧ s1.view (c.1, c.2.1, y.id) = some (t1, g1, y1) ∧
      g1.tsets = [y1] ∧ y1.pc = ts.start ∧ (∀ l, l ∈ y1.lanes ↔ l ∈ y.lanes ∨ l ∈ ts.lanes) ∧ y1.inOrder = true ∧ s1.mem = s.mem) ∧
  ∀ (s : State) c t g ts, s.view c = some (t, g, ts) →
    (ts.inOrder = true ∨ s.conflicts c (s.kernelOf t) ts (s.keptSites t) = []) →
    exec (.aliasRollback c.1 c.2.1 c.2.2) s = .next s

/-- R69, R71, R73, R327: ENGINE_FAULT_DELIVERY records a charge against the set that holds the lowest of its word's lanes,
which runs no more; FAULT_RECORD_WRITE stores the 32 bytes of the first waiting record in the slot of TAIL and steps TAIL,
or counts it lost where the ring is full; DEBUG_STOP stops a set before a word whose DBG bit is set, with nothing of that
word done. It rests on the model's choices of log entry 38. -/
def Obligations.FaultAndDebugEventsComplete : Prop :=
  (∀ (s : State) t g ts p l la, s.team? t.id = some t → t.pend = [p] → t.group? p.group = some g → g.tsets = [ts] →
    p.lanes.head? = some l → l ∈ ts.lanes → ts.dying = false → ts.held = [] → s.launch? t.launch = some la →
    ((ts.phase = .ready ∧ ts.fresh = true) ∨ ts.phase = .await) →
    ∃ s1 t1, exec (.engineFaultDelivery t.id) s = .next s1 ∧ s1.team? t.id = some t1 ∧ t1.pend = [] ∧
      s1.view (t.id, p.group, ts.id) = none ∧ s1.mem = s.mem ∧ t1.halting = true ∧
      (s1.ctx la.ctx).fwait = (s.ctx la.ctx).fwait ++
        [⟨t.index % 2 ^ 32, g.index, t.coreNo (s.tcore t g.index), p.pc, la.num.toNat, la.ctx, p.info, ts.lanes,
          s.pidTid la⟩] ∧
      ((s.ctx la.ctx).state = 2 → (s1.ctx la.ctx).state = 4) ∧
      ∃ la1, s1.launch? t.launch = some la1 ∧ la1.fault = some (la.fault.getD p.info.code)) ∧
  (∀ (s s0 : State) (n : Fin 64) r rest k pa, s.dbg.trc = false → (s.ctx n.val).fwait = r :: rest →
    (s.ctx n.val).fwalk = none → fieldOf (s.ctx n.val).fring.toNat 0 5 = k → 7 ≤ k → k ≤ 16 →
    ((s.ctx n.val).ftail - (s.ctx n.val).fhead).toNat < 2 ^ k →
    DevAt s n.val (fieldOf (s.ctx n.val).fring.toNat 12 45 * 4096 + 32 * ((s.ctx n.val).ftail.toNat % 2 ^ k)) 1 s0 pa →
    ∃ s1, exec (.faultRecordWrite n) s = .next s1 ∧ readBytes s1.mem pa 32 = r.bytes ∧
      (s1.ctx n.val) = { s.ctx n.val with fwait := rest, ftail := (s.ctx n.val).ftail + 1 } ∧
      s1.irqs = s.irqs ++ [.fault n.val] ∧ (∀ a, ¬Inside pa 32 a → readByte s1.mem a = readByte s0.mem a) ∧
      s1.teams = s.teams ∧ s1.launches = s.launches) ∧
  (∀ (s : State) (n : Fin 64) r rest k, (s.ctx n.val).fwait = r :: rest → (s.ctx n.val).fwalk = none →
    fieldOf (s.ctx n.val).fring.toNat 0 5 = k → 7 ≤ k → k ≤ 16 →
    2 ^ k ≤ ((s.ctx n.val).ftail - (s.ctx n.val).fhead).toNat →
    exec (.faultRecordWrite n) s = .next (s.setCtx n.val { s.ctx n.val with
      fwait := rest
      flost := BitVec.ofNat 32 (min ((s.ctx n.val).flost.toNat + 1) (2 ^ 32 - 1)) })) ∧
  ∀ (s : State) c t g ts w, s.view c = some (t, g, ts) → ts.phase = .ready → ts.stop = false → ts.resumed ≠ some ts.pc →
    ts.issued ≠ some ts.pc →
    ts.stopNext = 0 → ts.held = [] → s.attached (s.ctxOf t) = true → (s.kernelOf t).dbg.contains ts.pc = true →
    (s.kernelOf t).text[ts.pc]? = some w → isTrailerWord w = false → activeLanes g ts (w.extractLsb' 98 4) ≠ [] → g.tsets = [ts] →
    ∃ s1 t1 g1 ts1, exec (.debugStop c.1 c.2.1 c.2.2) s = .next s1 ∧ s1.view c = some (t1, g1, ts1) ∧
      ts1.stop = true ∧ ts1.pc = ts.pc ∧ ts1.lanes = ts.lanes ∧ ts1.temps = ts.temps ∧ g1.v = g.v ∧ g1.p = g.p

/-! ### Queues -/

namespace Sys2Proof.Machine

/-- The packet of a type that a queue has taken and not begun, alone in its queue, with the queue served (R87, R93). -/
structure OnePacket (s : State) (q : Nat) (p : Pkt) (typ state : Nat) : Prop where
  alone : (s.queue q).pkts = [p]
  typ : fieldOf (p.words.getD 0 0).toNat 0 8 = typ
  state : p.state = state
  req : p.req = none
  runs : s.unserved q = false
  active : (s.ctx (s.queue q).ctx).state = 2

/-- Words of 8 bytes at a place. -/
def wordsAt (s : State) (pa : Nat) : List Reg :=
  (List.range 8).map fun k => BitVec.ofNat 64 (leNat (readBytes s.mem (pa + 8 * k) 8))

/-- A word of a packet. -/
abbrev Pkt.at (p : Pkt) (k : Nat) : Nat := (p.words.getD k 0).toNat

/-- The wake core of queue `q` reaches the byte at `pa` for a place of its ring or wake page; `s0` is as in `CxAt` (R85). -/
def QueueAt (s : State) (q va kind : Nat) (s0 : State) (pa : Nat) : Prop := s.queuePlace (wakeCore q) q va kind = (s0, .at pa)

/-- Only the queue `q`, memory and its write log differ. -/
def OnlyQueue (s t : State) (q : Nat) : Prop :=
  { t with queues := s.queues, mem := s.mem, wlog := s.wlog, wseq := s.wseq, badBytes := s.badBytes } = s ∧
    ∀ r, r ≠ q → t.queue r = s.queue r

end Sys2Proof.Machine

/-- R86, R91, R92: a complete packet first steps its counter (COUNT by its increment, ERR set where it failed and kept where it
was set), then writes STATUS in its slot (DONE in bit 8, CODE in the low byte, CCFAIL in bit 9, DETAIL from bit 16); the oldest
packet with STATUS written then steps DONE in the wake page and leaves.
It rests on the model's choices of log entry 41. -/
def Sys2Proof.Claim.PacketWrites : Prop :=
  (∀ (s s0 : State) q p pa, p.state = 3 → p.req = none → p.ccaddr ≠ 0 → p.ccaddr % 8 = 0 →
    CxAt s (wakeCore q) (s.queue q).ctx p.ccaddr 2 s0 pa → s0.locBad (.mem pa) 8 = false →
    let old := leNat (readBytes s0.mem pa 8)
    let r := s.pktCounter q p
    r.2 = { p with state := 2 } ∧
      readBytes r.1.mem pa 8 = leBytes 8 ((old % 2 ^ 63 + fieldOf (p.at 0) 16 16) % 2 ^ 63 +
        (if p.failed = true ∨ 2 ^ 63 ≤ old then 2 ^ 63 else 0)) ∧
      ∀ a, ¬Inside pa 8 a → readByte r.1.mem a = readByte s0.mem a) ∧
  (∀ (s s0 : State) q p pa, (s.queue q).pkts = [p] → p.state = 2 → (s.queue q).paused = none →
    (s.queue q).qrec.getLsbD 0 = false → p.code < 256 →
    QueueAt s q ((s.queue q).slotVa p.num + 56) 1 s0 pa → s.setPkt q p = s →
    let t := s.pktAdvance q p.num
    readBytes t.mem pa 8 = leBytes 8 (p.detail % 2 ^ 48 * 2 ^ 16 + (if p.ccfail then 512 else 0) + 256 + p.code) ∧
      t.queue q = { s.queue q with pkts := [{ p with state := 4 }] } ∧
      (∀ a, ¬Inside pa 8 a → readByte t.mem a = readByte s0.mem a) ∧ OnlyQueue s t q) ∧
  ∀ (s s0 : State) q p pa, (s.queue q).pkts = [p] → p.state = 4 → p.num = (s.queue q).done →
    QueueAt s q ((s.queue q).wakeVa 0x100) 1 s0 pa →
    let t := State.advanceDone 1 s q
    readBytes t.mem pa 8 = leBytes 8 (((s.queue q).done + 1) % 2 ^ 64) ∧
      t.queue q = { s.queue q with done := ((s.queue q).done + 1) % 2 ^ 64, pkts := [] } ∧
      (∀ a, ¬Inside pa 8 a → readByte t.mem a = readByte s0.mem a) ∧ OnlyQueue s t q

/-- R19, R85 to R88, R92, R93, R208, R348, R375: QUEUE_WAKE clears the indication of a served queue and reads its TAIL; more
packets than slots halt the queue with cause 1, a TAIL whose bytes are lost with cause 2. PACKET_TAKE takes the packet at HEAD and
writes HEAD in the wake page. A LAUNCH then takes the next launch number of its context and keeps the kernel that its handle
names; with a stale handle it takes the number and completes with LAUNCH. A malformed packet, and a LAUNCH whose private base is
misaligned, takes no number and completes with BADPKT. A packet with the barrier bit stays until every earlier packet has
completed. It rests on the model's choices of log entries 3 and 41. -/
def Sys2Proof.Claim.QueuesTake : Prop :=
  (∀ (s s0 : State) (q : Fin 1024) pa,
    let x := s.queue q.val
    let tail := s0.word64 pa
    s.unserved q.val = false → x.paused = none → x.errOwed = none → x.state = 1 → (s.ctx x.ctx).state = 2 → x.pkts = [] →
    QueueAt (s.setQueue q.val { x with wake := false }) q.val (x.wakeVa 0) 0 s0 pa →
    (s0.locBad (.mem pa) 8 = false → tail - x.done ≤ 2 ^ fieldOf x.ring.toNat 0 5 →
      exec (.queueWake q) s = .next (s0.setQueue q.val { x with wake := false, tail := tail })) ∧
    (s0.locBad (.mem pa) 8 = false → 2 ^ fieldOf x.ring.toNat 0 5 < tail - x.done →
      ∃ t, exec (.queueWake q) s = .next t ∧ (t.queue q.val).state = 2 ∧ (t.queue q.val).err = 1 ∧
        (t.queue q.val).tail = tail ∧ (t.queue q.val).head = x.head ∧ (t.queue q.val).done = x.done) ∧
    (s0.locBad (.mem pa) 8 = true → ∃ t, exec (.queueWake q) s = .next t ∧ (t.queue q.val).state = 2 ∧ (t.queue q.val).err = 2 ∧
      (t.queue q.val).tail = x.tail ∧ (t.queue q.val).head = x.head ∧ (t.queue q.val).done = x.done)) ∧
  ∀ (s s0 s2 : State) (q : Fin 1024) pa pb,
    let x := s.queue q.val
    let p : Pkt := { num := x.head, words := wordsAt s2 pa, state := 0, taken := s.clk }
    let c := s.ctx x.ctx
    let numbered (c : Ctx) : Ctx := { c with launchNo := c.launchNo + 1 }
    let named := s.handleKernel x.ctx (p.at 2)
    let typ := fieldOf (p.at 0) 0 8
    let taken (y : Queue) (p : Pkt) : Prop := y = { x with head := (x.head + 1) % 2 ^ 64, pkts := x.pkts ++ [p] }
    let ends (code detail : Nat) (fits : State → Prop) : Prop :=
      ∃ s3 : State, exec (.packetTake q) s = .next ((s3.completePkt q.val x.head code detail).putNat pb 8 ((x.head + 1) % 2 ^ 64)) ∧
        s3.mem = s2.mem ∧ s3.launches = s.launches ∧ s3.teams = s.teams ∧ (∀ r, r ≠ q.val → s3.queue r = s.queue r) ∧ fits s3
    let stays (p : Pkt) (c1 : Ctx) : Prop :=
      ∃ t, exec (.packetTake q) s = .next t ∧ taken (t.queue q.val) p ∧ readBytes t.mem pb 8 = leBytes 8 ((x.head + 1) % 2 ^ 64) ∧
        (∀ a, ¬Inside pb 8 a → readByte t.mem a = readByte s2.mem a) ∧ t.ctx x.ctx = c1 ∧
        (∀ r, r ≠ q.val → t.queue r = s.queue r) ∧ t.launches = s.launches ∧ t.teams = s.teams
    s.unserved q.val = false → x.paused = none → x.state = 1 → c.state = 2 → x.head < x.tail →
    QueueAt s q.val (x.slotVa x.head) 0 s0 pa → QueueAt s0 q.val (x.wakeVa 0x80) 1 s2 pb → s2.locBad (.mem pa) 64 = false →
    (((p.at 0).testBit 8 = false ∨ x.done = x.head) →
      (p.bad = false → typ ≠ 1 → stays p c) ∧
      (∀ slot k, p.bad = false → typ = 1 → named = some (slot, k) → (k.priv = 0 ∨ p.at 5 % 16 = 0) →
        stays { p with grid := c.launchNo, slot := slot, gen := (s.kslot x.ctx slot).gen, kernel := some k } (numbered c)) ∧
      (p.bad = false → typ = 1 → named = none → (∀ y ∈ s.launches, y.id ≠ s.nextId) → s.dbg.trc = false →
        (∀ y ∈ x.pkts, y.num ≠ x.head) →
        ends 0x0E c.launchNo.toNat fun s3 => taken (s3.queue q.val) { p with grid := c.launchNo } ∧ ∃ r, s3.ctx x.ctx = { numbered c with fwait := c.fwait ++ [r] }) ∧
      ((p.bad = true ∨ (typ = 1 ∧ ∃ slot k, named = some (slot, k) ∧ k.priv ≠ 0 ∧ p.at 5 % 16 ≠ 0)) →
        ends 0x81 0 fun s3 => taken (s3.queue q.val) p ∧ s3.ctxs = s.ctxs)) ∧
    ((p.at 0).testBit 8 = true → x.done ≠ x.head → exec (.packetTake q) s = .next s)

/-- A queue takes its packets in order and writes their completions. -/
def Obligations.QueuesTakeAndCompletePackets : Prop := Sys2Proof.Claim.PacketWrites ∧ Sys2Proof.Claim.QueuesTake

/-- R90, R93, R102: a WAIT begins; at its target it completes with 0, with ERR set it completes with 0x82, below its target
it waits on, and in DRAINING it is cancelled with 0x80. COUNTER_POLL tests it the same way, as it does a parked `qjoin`. A
SIGNAL steps its counter once and completes, with the completion interrupt where it asks for one. A MARK writes the clock's
count in its record and completes. -/
def Obligations.WaitSignalMarkComplete : Prop :=
  (∀ (s : State) (q : Fin 1024) p, OnePacket s q.val p 3 0 →
    exec (.waitPacket q) s = .next (s.setQueue q.val { s.queue q.val with pkts := [{ p with state := 1 }] })) ∧
  (∀ (s s0 : State) (q : Fin 1024) p pa, OnePacket s q.val p 3 1 → CxAt s 0 (s.queue q.val).ctx (p.at 2) 0 s0 pa →
    s0.locBad (.mem pa) 8 = false →
    let c := s0.word64 pa
    (2 ^ 63 ≤ c → exec (.waitComplete q p.num) s = .next (s0.completePkt q.val p.num 0x82 0)) ∧
    (c < 2 ^ 63 → p.at 3 ≤ c → exec (.waitComplete q p.num) s = .next (s0.completePkt q.val p.num 0 0)) ∧
    (c < 2 ^ 63 → c < p.at 3 → exec (.waitComplete q p.num) s = .next s0) ∧
    (s.teams = [] → (∃ x, s.queues = [(q.val, x)]) → c < 2 ^ 63 → p.at 3 ≤ c →
      exec .counterPoll s = .next (s0.completePkt q.val p.num 0 0))) ∧
  (∀ (s : State) t g ts, s.queues = [] → s.cx0Frozen = false → s.teams = [t] → t.groups = [g] → g.tsets = [ts] → ts.phase = .parked .join →
    ∃ s1, exec .counterPoll s = .next s1 ∧ exec (.qjoinRelease t.id g.index ts.id) s = .next s1) ∧
  (∀ (s : State) (q : Fin 1024) p, (s.queue q.val).pkts = [p] → fieldOf (p.at 0) 0 8 = 3 → p.state = 1 → s.unserved q.val = false →
    (s.ctx (s.queue q.val).ctx).state = 5 →
    exec (.waitComplete q p.num) s = .next (s.completePkt q.val p.num 0x80 0)) ∧
  (∀ (s s0 : State) (q : Fin 1024) p pa, OnePacket s q.val p 4 0 → CxAt s 0 (s.queue q.val).ctx (p.at 2) 2 s0 pa →
    s0.locBad (.mem pa) 8 = false →
    let c := s0.word64 pa
    ∃ s1 : State, exec (.signalPacket q) s = .next (s1.completePkt q.val p.num 0 0) ∧
      readBytes s1.mem pa 8 = leBytes 8 ((c % 2 ^ 63 + p.at 3) % 2 ^ 63 + (if 2 ^ 63 ≤ c then 2 ^ 63 else 0)) ∧
      (∀ a, ¬Inside pa 8 a → readByte s1.mem a = readByte s0.mem a) ∧
      s1.irqs = s.irqs ++ (if (p.at 4).testBit 0 then [.completion (s.queue q.val).ctx] else []) ∧
      s1.queues = s.queues) ∧
  ∀ (s s0 : State) (q : Fin 1024) p pa, OnePacket s q.val p 5 0 →
    CxAt s 0 (s.queue q.val).ctx ((p.at 2 + 8 * p.at 3) % 2 ^ 64) 1 s0 pa →
    ∃ s1 : State, exec (.markPacket q) s = .next (s1.completePkt q.val p.num 0 0) ∧ readBytes s1.mem pa 8 = leBytes 8 s.clk ∧
      (∀ a, ¬Inside pa 8 a → readByte s1.mem a = readByte s0.mem a) ∧ s1.queues = s.queues

/-- R90, R96: a COPY begins in segments of 2 MiB. A segment that lies within one page on each side, source and
destination apart, copies its bytes; the
packet then completes with 0 and its length, and with DATA and the bytes before it where an engine error ends it.
It rests on the model's choices of log entries 20 and 62. -/
def Sys2Proof.Claim.CopyPackets : Prop :=
  (∀ (s : State) (q : Fin 1024) p, OnePacket s q.val p 2 0 →
    exec (.copyPacket q) s = .next { s.setQueue q.val { s.queue q.val with
      pkts := [{ p with
        state := 1, segs := List.range ((p.at 4 + (2 ^ 21 - 1)) / 2 ^ 21), launch := s.nextId, since := s.clk }] } with
      nextId := s.nextId + 1 }) ∧
  (∀ (s s0 s2 : State) (q : Fin 1024) p pa pb, OnePacket s q.val p 2 1 → p.segs = [0] → p.fails = [] → p.reqAt = 0 →
    p.wrote = [] → 1 ≤ p.at 4 → p.at 2 % 4096 + p.at 4 ≤ 4096 → p.at 3 % 4096 + p.at 4 ≤ 4096 →
    DevAt s (s.queue q.val).ctx (p.at 2) 0 s0 pa (p.at 4) → DevAt s0 (s.queue q.val).ctx (p.at 3) 1 s2 pb (p.at 4) →
    (p.at 2 + p.at 4 ≤ p.at 3 ∨ p.at 3 + p.at 4 ≤ p.at 2) → s2.locBad (.mem pa) (p.at 4) = false →
    s2.hbmFailed pb (p.at 4) = false →
    ∃ s3 : State, exec (.copyPacketSegmentEnd q p.num 0 true) s = .next (s3.completePkt q.val p.num 0 (p.at 4)) ∧
      readBytes s3.mem pb (p.at 4) = readBytes s2.mem pa (p.at 4) ∧
      ∀ a, ¬Inside pb (p.at 4) a → ¬hotRing s2 a → readByte s3.mem a = readByte s2.mem a) ∧
  ∀ (s : State) (q : Fin 1024) p, OnePacket s q.val p 2 1 → p.segs = [0] → p.fails = [] → p.reqAt = 0 →
    ∃ s3 : State, exec (.copyPacketSegmentEnd q p.num 0 false) s = .next (s3.completePkt q.val p.num 8 0) ∧ s3.mem = s.mem

/-- R90, R94, R104, R109: a LAUNCH in its turn, whose key is stored, is ready for dispatch: its grid is the packet's, its
kernel that of the handle it was taken with, and its packet executes. In DRAINING it completes with LAUNCH. The turn goes to the highest priority
among the packets and the pushed records that wait to be handed over, and within it round-robin by slot after the queue of that
priority served last; another queue's waits. It rests on the model's choices of log entry 16. -/
def Sys2Proof.Claim.LaunchPackets : Prop :=
  (∀ (s : State) (q : Fin 1024) p e, OnePacket s q.val p 1 0 → s.nextHandOver = some (.packet q.val) →
    let ctx := (s.queue q.val).ctx
    let k := s.kernelNow ctx p
    let dim (n : Nat) : Nat := if fieldOf (p.at 3) (20 * n) 20 = 0 then 2 ^ 20 else fieldOf (p.at 3) (20 * n) 20
    k.rejected = false → k.gang = 0 → k.params = [] → s.entryFor k = some e → (∀ y ∈ s.launches, y.id ≠ s.nextId) →
    ∃ t l, exec (.launchPacket q) s = .next t ∧ t.launch? s.nextId = some l ∧ l.num = p.grid ∧
      l.ctx = ctx ∧ l.slot = p.slot ∧ l.gen = p.gen ∧ l.kernel = k ∧ l.gx = dim 0 ∧ l.gy = dim 1 ∧ l.gz = dim 2 ∧ l.phase = 1 ∧
      l.entry = e.id ∧ l.read = true ∧ l.params = [] ∧ l.privb = p.at 5 ∧ l.pri = (s.queue q.val).pri ∧
      l.queue = some (q.val, p.num) ∧ t.ctx ctx = s.ctx ctx ∧ t.rr = aset 1023 s.rr (s.queue q.val).pri q.val ∧
      (t.queue q.val).pkts = [{ p with state := 1, launch := s.nextId }] ∧ t.mem = s.mem ∧ t.teams = s.teams) ∧
  (∀ (s : State) ctx p slot k0, p.kernel = some k0 →
    (s.handleKernel ctx (p.at 2) = none → s.kernelNow ctx p = k0) ∧
    (∀ k, s.handleKernel ctx (p.at 2) = some (slot, k) → s.kernelNow ctx p = k)) ∧
  (∀ (s : State) (q : Fin 1024) p, (s.queue q.val).pkts = [p] → fieldOf (p.at 0) 0 8 = 1 → p.state = 0 → p.req = none →
    (s.ctx (s.queue q.val).ctx).state = 5 → s.nextHandOver = some (.packet q.val) → s.dbg.trc = false →
    (∀ y ∈ s.launches, y.id ≠ s.nextId) →
    ∃ s1 : State, exec (.launchPacket q) s = .next (s1.completePkt q.val p.num 0x0E p.grid.toNat) ∧ s1.mem = s.mem ∧
      s1.launches = s.launches ∧ s1.ctxs = s.ctxs ∧ s1.teams = s.teams) ∧
  (∀ (s : State) (q : Fin 1024), s.nextHandOver ≠ some (.packet q.val) → exec (.launchPacket q) s = .next s) ∧
  ∀ (s : State) q, s.nextHandOver = some (.packet q) → (∀ e ∈ s.queues, e.2.pri ≤ 3 ∧ e.1 < 1024) → (∀ l ∈ s.launches, l.pri ≤ 3) →
    ∃ x, (q, x) ∈ s.queues ∧ x.waitingPkt 1 ≠ none ∧ s.unserved q = false ∧ (∀ c ∈ s.childTurns, c.2.1 ≤ x.pri) ∧
      ∀ e ∈ s.queues, s.unserved e.1 = false → e.2.waitingPkt 1 ≠ none →
        let after (r : Nat) : Nat := (r + 1023 - aget 1023 s.rr x.pri) % 1024
        e.2.pri ≤ x.pri ∧ (e.2.pri = x.pri → after q ≤ after e.1)

/-- The two packets that give work. -/
def Obligations.CopyAndLaunchPacketsComplete : Prop := Sys2Proof.Claim.CopyPackets ∧ Sys2Proof.Claim.LaunchPackets

/-! ### Contexts -/

/-- R64, R65, R70, R72: the commands of a context. Each moves the selected context between the states R65 gives, with CRES 0
or, while it is busy, 1; a command of another state leaves the state and gives 2, a create or start whose configuration is
wrong 3. -/
def Sys2Proof.Claim.ContextCommands : Prop :=
  ∀ s : State,
    let n := s.cxq.csel
    let c := s.ctx n
    let res (k : Nat) : Res := .next (s.setCtx n { c with res := k })
    (c.state ≠ 0 → exec .contextCreate s = res 2) ∧
    (c.state = 0 → (c.keys = 0 ∨ s.keysFree = false ∨ ¬(7 ≤ fieldOf c.fring.toNat 0 5 ∧ fieldOf c.fring.toNat 0 5 ≤ 16) ∨
      fieldOf c.swlen.toNat 0 32 = 0) → exec .contextCreate s = res 3) ∧
    (c.state = 0 → c.keys ≠ 0 → s.keysFree = true → 7 ≤ fieldOf c.fring.toNat 0 5 → fieldOf c.fring.toNat 0 5 ≤ 16 →
      fieldOf c.swlen.toNat 0 32 ≠ 0 →
      exec .contextCreate s = .next (s.setCtx n { c with
        state := 1, res := 0, fhead := 0, ftail := 0, flost := 0, fwait := [], fwalk := none, launchNo := 0
        rooted := false, faultedWhile := false })) ∧
    (c.state ≠ 1 → exec .contextStart s = res 2) ∧
    (c.state = 1 → c.rooted = false → exec .contextStart s = res 3) ∧
    (c.state = 1 → c.rooted = true → exec .contextStart s = .next (s.setCtx n { c with state := 2, res := 0 })) ∧
    (c.state ≠ 2 → exec .contextSuspend s = res 2) ∧
    (c.state = 2 → exec .contextSuspend s = .next (s.setCtx n { c with state := 3, res := 1, faultedWhile := false })) ∧
    (c.state ≠ 3 → exec .contextResume s = res 2) ∧
    (c.state = 3 → ∃ t, exec .contextResume s = .next t ∧
      t.ctx n = { c with state := if c.faultedWhile then 4 else 2, res := 0, faultedWhile := false } ∧
      (∀ m, m ≠ n → t.ctx m = s.ctx m) ∧ { t with ctxs := s.ctxs, teams := s.teams } = s ∧
      t.teams = s.teams.map fun u => if s.ctxOf u = n then { u with wantSwap := false, leaving := none } else u) ∧
    (c.state ≠ 4 → exec .contextAcknowledge s = res 2) ∧
    (c.state = 4 → exec .contextAcknowledge s = .next (s.setCtx n { c with state := 2, res := 0 })) ∧
    (∀ m : Fin 64, (s.ctx m.val).state = 3 → (s.ctx m.val).res = 1 →
      (∀ t ∈ s.teams, s.ctxOf t = m.val → t.resident = false ∨ t.halting = true) →
      exec (.suspendComplete m) s = .next (s.setCtx m.val { s.ctx m.val with res := 0 }))

/-- R65, R67, R88, R104: the end of a context. A destroy drains it: its teams halt and its queues are drained; once nothing
is left it is DESTROYED and its keys, with the memory under them, are gone; a reclaim frees its slot, its queues and its
kernel slots, whose generations stay. It rests on the model's choices of log entries 2, 3 and 25. -/
def Sys2Proof.Claim.ContextEnds : Prop :=
  ∀ s : State, awf {} s.queues = true → awf {} s.kslots = true →
    let n := s.cxq.csel
    let c := s.ctx n
    (c.state = 0 ∨ 5 ≤ c.state → exec .contextDestroy s = .next (s.setCtx n { c with res := 2 })) ∧
    (1 ≤ c.state → c.state ≤ 4 → (∀ l ∈ s.launches, l.ctx = n → (l.nextTeam ≠ 0 ∨ 2 ≤ l.phase) ∧ ∃ t ∈ s.teams, t.launch = l.id) →
      ∃ t, exec .contextDestroy s = .next t ∧ t.ctx n = { c with state := 5, res := 1 } ∧
        t.teams = (s.teams.map fun u => if s.ctxOf u = n then { u with halting := true, wantSwap := false, leaving := none } else u) ∧
        (∀ q, q < 1024 → t.queue q = if (s.queue q).ctx = n ∧ (s.queue q).state ≠ 3
          then { s.queue q with state := 3, wake := decide ((s.queue q).ring ≠ 0) } else s.queue q) ∧ t.mem = s.mem ∧ t.launches = s.launches) ∧
    (∀ m : Fin 64, (s.ctx m.val).state = 5 → (∀ l ∈ s.launches, l.ctx ≠ m.val) → (∀ t ∈ s.teams, s.ctxOf t ≠ m.val) →
      (s.ctx m.val).fwait = [] → (∀ e ∈ s.queues, e.2.ctx = m.val → e.2.ring = 0) →
      ∃ t, exec (.contextDestroyed m) s = .next t ∧ t.ctx m.val = { s.ctx m.val with state := 6, res := 0 } ∧
        (∀ a, paPkg a = s.pkg → (s.ctx m.val).keys.getLsbD (paKey a) = true → readByte t.mem a = 0) ∧
        (∀ a, ¬(paPkg a = s.pkg ∧ (s.ctx m.val).keys.getLsbD (paKey a) = true) → readByte t.mem a = readByte s.mem a) ∧
        t.fw = { s.fw with keySlots := s.fw.keySlots &&& ~~~(s.ctx m.val).keys }) ∧
    (c.state ≠ 6 → exec .contextReclaim s = .next (s.setCtx n { c with res := 2 })) ∧
    (c.state = 6 →
      ∃ t, exec .contextReclaim s = .next t ∧ t.ctx n = { c with
          state := 0, res := 0, keys := 0, tag := 0, fring := 0, swap := 0, swlen := 0, root := 0, rooted := false } ∧
        (∀ q, t.queue q = if (s.queue q).ctx = n
          then { s.queue q with
            state := 0, en := false, head := 0, done := 0, tail := 0, err := 0, errOwed := none, wake := false,
            paused := none, lost := [] }
          else s.queue q) ∧
        (∀ k, k < 4096 → t.kslot n k = { s.kslot n k with kernel := none }) ∧
        (∀ m k, m ≠ n → k < 4096 → t.kslot m k = s.kslot m k) ∧
        { t with ctxs := s.ctxs, queues := s.queues, kslots := s.kslots } = s)

/-- The commands of contexts and queues, and how a context ends. -/
def Obligations.ContextsRunAndEnd : Prop := Sys2Proof.Claim.ContextCommands ∧ Sys2Proof.Claim.ContextEnds

/-- R71, R84, R85, R88: the head of a fault ring moves up to TAIL at most; a queue is enabled from DISABLED with a ring of 64
to 65,536 aligned slots, and disabled from ENABLED or HALTED. It rests on the model's choices of log entry 41. -/
def Obligations.QueueRegistersComplete : Prop :=
  ∀ s : State,
    let n := s.cxq.csel
    let c := s.ctx n
    let q := s.cxq.qsel
    let x := s.queue q
    (∀ v : BitVec 32, (v - c.fhead).toNat ≤ (c.ftail - c.fhead).toNat →
      exec (.faultRingHeadWrite v) s = .next (s.setCtx n { c with fhead := v })) ∧
    (∀ v : BitVec 32, c.fhead.toNat ≤ c.ftail.toNat → c.ftail.toNat < v.toNat →
      exec (.faultRingHeadWrite v) s = .next (s.setCtx n { c with fhead := c.ftail })) ∧
    (∀ v : BitVec 32, c.fhead.toNat ≤ c.ftail.toNat → v.toNat < c.fhead.toNat →
      exec (.faultRingHeadWrite v) s = .next (s.setCtx n c)) ∧
    (∀ v : BitVec 64, v.getLsbD 0 = true → x.state = 0 → 6 ≤ fieldOf x.ring.toNat 0 5 → fieldOf x.ring.toNat 0 5 ≤ 16 →
      fieldOf x.ring.toNat 12 45 * 4096 % (64 * 2 ^ fieldOf x.ring.toNat 0 5) = 0 →
      exec (.queueEnable v) s = .next (s.setQueue q { x with
        ctx := fieldOf v.toNat 8 6, pri := fieldOf v.toNat 4 2, state := 1, en := true, wake := true, lost := [] })) ∧
    (∀ v : BitVec 64, v.getLsbD 0 = true → x.state ≠ 0 → exec (.queueEnable v) s = .next s) ∧
    (∀ v : BitVec 64, v.getLsbD 0 = false → x.state = 1 →
      exec (.queueDisable v) s = .next (s.setQueue q { x with state := 0, en := false })) ∧
    (∀ (v : BitVec 64) s0 pa, v.getLsbD 0 = false → x.state = 2 → x.paused = none →
      QueueAt (s.setQueue q { x with state := 0, en := false, err := 0, errOwed := some 0 }) q (x.wakeVa 0x180) 1 s0 pa →
      ∃ t, exec (.queueDisable v) s = .next t ∧
        t.queue q = { x with state := 0, en := false, err := 0, errOwed := none } ∧
        readBytes t.mem pa 8 = leBytes 8 0 ∧ OnlyQueue s t q)

/-! ### The dispatcher -/

namespace Sys2Proof.Machine

/-- A group at launch (R124): lane registers and uniform registers hold the marker but for the parameters, predicates and
signals are clear, and every lane stands at word 0. -/
structure AtLaunch (g : Group) (i clk : Nat) (params : List Reg) : Prop where
  index : g.index = i
  lane : ∀ k, aget marker g.v k = marker
  uniform : ∀ n, aget marker g.g n = params.getD n marker
  preds : ∀ l j, j ≠ 0 → g.pred l j = false
  sets : ∀ j, aget 32 g.ls j = 32
  sigs : ∀ j, aget 0 g.sig j = 0
  flags : g.fflg = 0 ∧ g.seed = 0
  calls : (∀ l, aget 0 g.depth l = 0) ∧ g.exited = []
  start : ∃ ts, g.tsets = [ts] ∧ ts.lanes = List.range 32 ∧ ts.pc = 0 ∧ ts.phase = .ready ∧ ts.fresh = true ∧
    ts.readyAt = clk

/-- The quantum in force (R132). -/
def quantumOf (s : State) : Nat := max (fieldOf s.cxq.quant.toNat 0 32) 65536

/-- A swapped-in team whose sets stand between runs or in AWAIT, alone in its gang, with nothing in its cores' buffers. -/
structure Quiet (s : State) (t : Team) (l : Launch) : Prop where
  here : s.team? t.id = some t
  launch : s.launch? t.launch = some l
  alone : l.kernel.gang = 0
  sets : ∀ g ∈ t.groups, ∀ ts ∈ g.tsets, ts.phase = .await ∨ (ts.phase = .ready ∧ ts.fresh = true)
  buffers : ∀ c ∈ t.cores, (s.core c).wc = []
  copies : ∀ c ∈ s.cmds, c.team ≠ t.id

end Sys2Proof.Machine

/-- R94, R120 to R124, R232, R242: TEAM_PLACEMENT on cores that have room for it, with no wait of a higher rank that fits and none of
the cores kept back for one that has waited eight quanta,
places the launch's next team: its linear index is the next one, its handle is nobody else's, its scratch is zero and its
tiles are EMPTY, every barrier expects its threads, and each of its groups is as R124 has it.
It rests on the model's choices of log entries 4 and 16. -/
def Sys2Proof.Claim.TeamPlaces : Prop :=
  ∀ (s : State) l cores, s.launch? l.id = some l → l.kernel.gang = 0 → s.launchHeld l = false → l.phase = 1 → l.read = true →
    l.fault = none → l.aborted = false → (s.ctx l.ctx).state = 2 → l.nextTeam < l.gx * l.gy * l.gz →
    s.placeOk l.kernel l.handle [l.kernel.planOf] cores = true → s.isNext l.wait cores = true →
    (l.nextTeam = 0 → (({ s with teams := [] } : State).fitsNow l.wait).isSome = true) →
    ∃ s1 u, exec (.teamPlacement l.id cores) s = .next s1 ∧ s1.teams = s.teams ++ [u] ∧ u.launch = l.id ∧
      u.index = l.nextTeam ∧ u.cores = cores ∧ u.resident = true ∧ u.placedAt = s.clk ∧
      (∀ v ∈ s.teams, v.handle ≠ u.handle) ∧ (∀ f ∈ s.frags, f.handle ≠ u.handle) ∧
      (∀ m ∈ s.msgs, m.args.handle? ≠ some u.handle) ∧
      (∀ o, u.scrByte o = 0 ∧ u.tag o = ⟨0, false, false⟩) ∧
      (∀ b, b < 16 → aget barNone u.bars b = { barNone with e := l.kernel.threads }) ∧
      u.groups.length = l.kernel.threads / 32 ∧
      (∀ i (hi : i < u.groups.length), AtLaunch u.groups[i] i s.clk l.params) ∧
      ∃ l1, s1.launch? l.id = some l1 ∧ l1.nextTeam = l.nextTeam + 1 ∧
        { l1 with
        nextTeam := l.nextTeam, entry := l.entry, kept := l.kept, first := l.first, waitSince := l.waitSince, boosted := l.boosted } = l

/-- R132: the timers of the dispatcher. A resident team's quantum expires; what has waited for room through eight quanta is
boosted; a swapped-out team whose lanes are all parked may be restored after eight quanta. Before its time each changes
nothing. It rests on the model's choices of log entry 65. -/
def Sys2Proof.Claim.DispatchTimers : Prop :=
  (∀ (s : State) t, s.team? t.id = some t → t.resident = true → t.quantum = false →
    (t.placedAt + t.slice ≤ s.clk → exec (.quantumExpiry t.id) s = .next (s.setTeam { t with quantum := true })) ∧
    (s.clk < t.placedAt + t.slice → exec (.quantumExpiry t.id) s = .next s)) ∧
  (∀ (s : State) l, s.team? l.id = none → s.launch? l.id = some l → l.phase = 1 → l.read = true → l.fault = none →
    l.aborted = false → (s.ctx l.ctx).state = 2 → l.nextTeam < l.gx * l.gy * l.gz → l.boosted = false → s.launchHeld l = false →
    (l.waitSince + 8 * quantumOf s ≤ s.clk →
      exec (.waitPriorityBoost l.id) s = .next (s.setLaunch { l with boosted := true })) ∧
    (s.clk < l.waitSince + 8 * quantumOf s → exec (.waitPriorityBoost l.id) s = .next s)) ∧
  (∀ (s : State) t, s.team? t.id = some t → (s.teamWait t).isSome = true → t.boosted = false →
    t.swappedAt + 8 * quantumOf s ≤ s.clk →
    exec (.waitPriorityBoost t.id) s = .next (s.setTeam { t with boosted := true })) ∧
  ∀ (s : State) t o, s.team? t.id = some t → t.out = some o → o.parked = true →
    (t.swappedAt + 8 * quantumOf s ≤ s.clk →
      exec (.parkedRestoreTimeout t.id) s = .next (s.setTeam { t with out := some { o with parked := false } })) ∧
    (s.clk < t.swappedAt + 8 * quantumOf s → exec (.parkedRestoreTimeout t.id) s = .next s)

/-- The dispatcher's placement of a team and its timers. -/
def Obligations.PlacementAndDispatcherTimers : Prop := Sys2Proof.Claim.TeamPlaces ∧ Sys2Proof.Claim.DispatchTimers

/-- R66, R72, R132 to R135: a team of a SUSPENDED context whose image fits begins no new run, and is swapped out once its
sets stand at run boundaries or parked, its registers, scratch, tags and barriers kept; a restore gives it its new cores, and
every lane stands where it stood; a team with nothing left retires, and its launch counts it ended.
It rests on the model's choices of log entry 23. -/
def Sys2Proof.Claim.TeamSwaps : Prop :=
  (∀ (s : State) t l, s.team? t.id = some t → s.launch? t.launch = some l → l.kernel.gang = 0 → t.wantSwap = false →
    t.leaving = none → t.resident = true → t.halting = false → (s.ctx l.ctx).state = 3 → l.kernel.imageBytes ≤ s.swapRoom l.ctx →
    (∃ g ∈ t.groups, ∃ ts ∈ g.tsets, ts.phase = .ready ∧ ts.fresh = false ∧ ts.stop = false) →
    exec (.teamSwapOut t.id) s = .next (s.setTeam { t with wantSwap := true })) ∧
  (∀ (s : State) t l, Quiet s t l → t.wantSwap = true → l.kernel.imageBytes ≤ s.swapRoom l.ctx →
    ∃ s1 u, exec (.teamSwapOut t.id) s = .next s1 ∧ s1.team? t.id = some u ∧ u.resident = false ∧ u.wantSwap = false ∧
      u.leaving = none ∧ u.out.isSome = true ∧ u.swappedAt = s.clk ∧ u.groups = t.groups ∧ u.scr = t.scr ∧ u.tags = t.tags ∧ u.bars = t.bars ∧
      u.nests = t.nests ∧ u.fifos = t.fifos ∧ u.slots = t.slots ∧ u.windows = t.windows) ∧
  (∀ (s : State) t l w cores, s.team? t.id = some t → s.launch? t.launch = some l → l.kernel.gang = 0 →
    s.teamWait t = some w → s.placeOk w.k w.name w.plans cores = true → s.isNext w cores = true →
    (∀ g ∈ t.groups, (g.tsets.map (·.id)).Nodup) →
    ∃ s1 u, exec (.teamRestore t.id cores) s = .next s1 ∧ s1.team? t.id = some u ∧ u.resident = true ∧ u.out = none ∧
      u.cores = cores ∧ u.placedAt = s.clk ∧ u.quantum = false ∧ u.scr = t.scr ∧ u.tags = t.tags ∧ u.bars = t.bars ∧
      u.nests = t.nests ∧ u.fifos = t.fifos ∧ u.groups.length = t.groups.length ∧
      ∀ i (h0 : i < t.groups.length) (h1 : i < u.groups.length),
        { u.groups[i] with tsets := t.groups[i].tsets, slotAt := t.groups[i].slotAt } = t.groups[i] ∧
        ∀ ts ∈ t.groups[i].tsets, ∀ n ∈ ts.lanes, ∃ ts1 ∈ u.groups[i].tsets, n ∈ ts1.lanes ∧ ts1.pc = ts.pc) ∧
  ∀ (s : State) t l, s.team? t.id = some t → s.launch? t.launch = some l → s.doneTeam t = true →
    (∀ c ∈ t.cores, (s.core c).wc = []) → l.phase = 1 → l.fault = none → l.aborted = false → (s.ctx l.ctx).state = 2 →
    l.ended + 1 < l.gx * l.gy * l.gz →
    ∃ s1, exec (.teamRetire t.id) s = .next s1 ∧ s1.teams = (s.teams.filter fun u => u.id != t.id) ∧
      s1.launch? t.launch = some { l with ended := l.ended + 1 } ∧ s1.mem = s.mem

/-- R95, R96: a cancel of a launch not yet dispatched completes its packet with 0x80 and its number and
reports 1; of a running launch it
reports 2, and with ABORT its teams halt; with no such launch in the slot it reports 3. -/
def Sys2Proof.Claim.Cancels : Prop :=
  ∀ (s : State) (q : Fin 1024) (slot : BitVec 16), s.cx0Frozen = false →
    let x := s.queue q.val
    let here (p : Pkt) : Prop := p.num % 2 ^ fieldOf x.ring.toNat 0 5 = slot.toNat ∧ fieldOf (p.at 0) 0 8 = 1 ∧ p.state < 2
    let say (t : State) (k : Nat) : State := { t with cxq := { t.cxq with canst := k } }
    ((∀ p ∈ x.pkts, ¬here p) →
      exec (.cancelLaunch q slot) s = .next (say s 3) ∧ exec (.cancelAbort q slot) s = .next (say s 3)) ∧
    (∀ p, x.pkts = [p] → here p → p.state = 0 → s.dbg.trc = false →
      let t : State := s.completePkt q.val p.num 0x80 p.grid.toNat
      exec (.cancelLaunch q slot) s = .next (say t 1) ∧ exec (.cancelAbort q slot) s = .next (say t 1)) ∧
    (∀ p l, x.pkts = [p] → here p → p.state = 1 → s.launch? p.launch = some l →
      (l.nextTeam = 0 →
        exec (.cancelLaunch q slot) s = .next (say (s.finishLaunch l 0x80) 1) ∧
        exec (.cancelAbort q slot) s = .next (say (s.finishLaunch l 0x80) 1)) ∧
      (l.nextTeam ≠ 0 → exec (.cancelLaunch q slot) s = .next (say s 2)) ∧
      (l.nextTeam ≠ 0 → (∃ t ∈ s.teams, t.launch = l.id) →
        ∃ s1, exec (.cancelAbort q slot) s = .next s1 ∧ s1.cxq = { s.cxq with canst := 2 } ∧
          s1.launch? p.launch = some { l with aborted := true } ∧
          s1.teams = (s.teams.map fun t => if t.launch = l.id then { t with halting := true } else t) ∧ s1.mem = s.mem))

/-- Teams that leave their cores. -/
def Obligations.TeamsSwapRetireAndCancel : Prop := Sys2Proof.Claim.TeamSwaps ∧ Sys2Proof.Claim.Cancels

/-! ### Kernels and translations -/

/-- R103, R104, R109, R348: a load begins with GO and ends in the lowest free slot of its context: LOADED with the next generation in
its handle, REJECTED where the image breaks a rule or a byte that the load reads is lost, NOSLOT where no slot is free. An unload frees the slot and keeps its
generation, so that the handle is stale. It rests on the model's choices of log entry 43. -/
def Obligations.KernelLoadsComplete : Prop :=
  (∀ s : State,
    (s.cxq.kimg.getLsbD 0 = false → exec .kernelLoad s =
      .next { s with cxq := { s.cxq with kimg := s.cxq.kimg ||| 1, kres := 0, kreq := none, kfail := false } }) ∧
    (s.cxq.kimg.getLsbD 0 = true → exec .kernelLoad s = .next s)) ∧
  (∀ (s : State) (ctx : Fin 64) (slot : Fin 4096), s.cxq.kimg.getLsbD 0 = true → fieldOf s.cxq.kimg.toNat 6 6 = ctx.val →
    s.cxq.kreq = none → s.cx0Frozen = false →
    let gen := if (s.kslot ctx.val slot.val).gen = 16383 then 1 else (s.kslot ctx.val slot.val).gen + 1
    ((∀ i, i < 4096 → (s.kslot ctx.val i).kernel ≠ none) →
      exec (.kernelLoadDone ctx slot) s =
        .next { s with cxq := { s.cxq with kimg := s.cxq.kimg &&& ~~~1, kres := 3, kfail := false } }) ∧
    (s.cxq.kfail = false → (s.kslot ctx.val slot.val).kernel = none →
      (∀ i, i < slot.val → (s.kslot ctx.val i).kernel ≠ none) → ∀ s0 ps k bad,
      s.imgPages ctx.val (fieldOf s.cxq.kimg.toNat 12 45 * 4096) ((fieldOf s.cxq.klen.toNat 0 32 + 4095) / 4096) = (s0, .ok ps) →
      s0.imgLost ⟨fieldOf s.cxq.klen.toNat 0 32, ps⟩ = false →
      s0.checkImage ⟨fieldOf s.cxq.klen.toNat 0 32, ps⟩ (fieldOf s.cxq.kdiag.toNat 5 52 * 32) = (k, bad) →
      ∃ t, exec (.kernelLoadDone ctx slot) s = .next t ∧
        t.kslot ctx.val slot.val = ⟨gen, some { k with rejected := bad.isSome }⟩ ∧
        t.cxq.kres = (if bad.isSome then 2 else 1) ∧ t.cxq.kimg = s0.cxq.kimg &&& ~~~1 ∧
        t.cxq.khandle = BitVec.ofNat 32 (ctx.val * 2 ^ 26 + gen * 2 ^ 12 + slot.val) ∧ t.teams = s.teams ∧
        (bad = none → t.mem = s0.mem)) ∧
    (s.cxq.kfail = false → (s.kslot ctx.val slot.val).kernel = none →
      (∀ i, i < slot.val → (s.kslot ctx.val i).kernel ≠ none) → ∀ s0 ps,
      s.imgPages ctx.val (fieldOf s.cxq.kimg.toNat 12 45 * 4096) ((fieldOf s.cxq.klen.toNat 0 32 + 4095) / 4096) = (s0, .ok ps) →
      s0.imgLost ⟨fieldOf s.cxq.klen.toNat 0 32, ps⟩ = true →
      ∃ t k, exec (.kernelLoadDone ctx slot) s = .next t ∧ t.kslot ctx.val slot.val = ⟨gen, some k⟩ ∧ k.rejected = true ∧
        t.cxq.kres = 2 ∧ t.teams = s.teams)) ∧
  ∀ (s : State) (h : BitVec 32) slot k, s.handleKernel (fieldOf h.toNat 26 6) h.toNat = some (slot, k) →
    ∃ t, exec (.kernelUnload h) s = .next t ∧ t.handleKernel (fieldOf h.toNat 26 6) h.toNat = none ∧
      (t.kslot (fieldOf h.toNat 26 6) slot).gen = (s.kslot (fieldOf h.toNat 26 6) slot).gen ∧
      (∀ j, j ≠ 4096 * fieldOf h.toNat 26 6 + slot → aget {} t.kslots j = aget {} s.kslots j) ∧
      { t with kslots := s.kslots } = s

/-- R57, R110: a text that passes the check is not empty, ends with a trailer, has a word before every trailer, has only
trailers that decode, and its branches go to words that start a run. -/
def Obligations.CheckedTextsAreWellFormed : Prop :=
  ∀ k : Kernel, k.textFault = none →
    (∃ w, k.text.getLast? = some w ∧ isTrailerWord w = true) ∧
    (∀ i w, k.text[i]? = some w → isTrailerWord w = true →
      i ≠ 0 ∧ (∀ v, k.text[i - 1]? = some v → isTrailerWord v = false) ∧ (∃ x, decode w = .ok x) ∧
      ((fieldOf w.toNat 120 4 = 1 ∨ fieldOf w.toNat 120 4 = 2 ∨ fieldOf w.toNat 120 4 = 4) →
        k.runStart (targetOf i (w.extractLsb' 0 32)) = true)) ∧
    ∀ e, k.emu = some e → k.runStart e = true

/-- R20, R57, R109, R112, R349: a key that no package holds is translated; the stored entry is READY, and the launch that
waited for it goes on. A key that a package holds is copied without a translation. A failed translation core starts again,
and the key keeps waiting. It rests on the model's choices of log entry 43. -/
def Obligations.TranslationsComplete : Prop :=
  (∀ (s : State) (ctx : Fin 64) (slot : Fin 4096) x l hit,
    (s.xlates.find? fun y => y.ctx == ctx.val && y.slot == slot.val) = some x → x.kernel.textFault = none →
    s.launches = [l] → l.phase = 0 → l.kernel.text = x.kernel.text → l.kernel.raw = x.kernel.raw →
    (∀ e ∈ s.tcache, e.id ≠ s.nextId) →
    let e : TEntry :=
      { id := s.nextId, text := x.kernel.text, raw := x.kernel.raw, state := 1, last := s.nextId + 1, stored := 0
        launches := 0, runs := 0, rollbacks := 0, sites := [], rev := 1 }
    let stored (t : State) : Prop :=
      t.tcache = s.tcache ++ [e] ∧
        t.launches = [{ l with phase := 1, entry := s.nextId, ready := s.clk, waitSince := s.clk }] ∧
        (∀ y ∈ t.xlates, ¬(y.kernel.text = x.kernel.text ∧ y.kernel.raw = x.kernel.raw)) ∧
        { t with tcache := s.tcache, launches := s.launches, xlates := s.xlates, nextId := s.nextId } = s
    (x.looked = true → ∃ t, exec (.translationComplete ctx slot) s = .next t ∧ stored t) ∧
    (x.looked = false → hit = true → ∃ t, exec (.polderKeyLookup ctx slot hit) s = .next t ∧ stored t) ∧
    (x.looked = false → hit = false → ∃ t, exec (.polderKeyLookup ctx slot hit) s = .next t ∧
      (t.xlates.find? fun y => y.ctx == ctx.val && y.slot == slot.val) = some { x with looked := true } ∧
      { t with xlates := s.xlates } = s) ∧
    exec (.translationCoreFailure ctx slot) s = .next s) ∧
  ∀ (s : State) (ctx : Fin 64) (slot : Fin 4096) x l cause word,
    (s.xlates.find? fun y => y.ctx == ctx.val && y.slot == slot.val) = some x → x.looked = true →
    x.kernel.textFault = some (cause, word) → s.launches = [l] → l.phase = 0 → l.kernel.text = x.kernel.text →
    l.kernel.raw = x.kernel.raw → l.queue = none → l.parent = none → l.ccaddr = 0 → s.cx0Frozen = false → l.req = none → l.slot < 4096 →
    (s.kslot l.ctx l.slot).kernel = some x.kernel → l.ctx * 2 ^ 26 + (s.kslot l.ctx l.slot).gen * 2 ^ 12 + l.slot ∈ x.names →
    ∃ t, exec (.translationComplete ctx slot) s = .next t ∧ t.tcache = s.tcache ∧ t.launches = [] ∧
      (t.kslot l.ctx l.slot).kernel = some { x.kernel with rejected := true }

/-- The records still to be written, none of which tells of a request any more (R117). -/
def Sys2Proof.Machine.unasked (s : State) : List Late := s.cxq.late.map fun w => { w with prof := false }

/-- R109, R113, R117, R118: an entry turns HOT when 2^24 runs have committed since it was stored; a translation core takes HOT work;
a new schedule restarts the profile's counts and keeps its sites; the load of a kept site is hoisted neither above its store
nor, where the site names another party's write, at all (a load that meets a conflict there has passed no such store); a search
without one leaves the entry as it is. The least recently launched entry that no ready launch uses and that is not being reoptimised is evicted.
It rests on the model's choices of log entries 24 and 44. -/
def Obligations.EntriesLive : Prop :=
  (∀ (s : State) e, s.tcache.find? (fun y => y.id == e.id) = some e →
    let now (x : TEntry) (t : State) : Prop :=
      t.tcache.find? (fun y => y.id == e.id) = some x ∧ { t with tcache := s.tcache } = s
    (e.state = 1 → 2 ^ 24 ≤ e.stored → ∃ t, exec (.hotRunCount e.id) s = .next t ∧ now { e with state := 2 } t) ∧
    (e.stored < 2 ^ 24 → exec (.hotRunCount e.id) s = .next s) ∧
    (e.state = 2 → ∃ t, exec (.reoptimisationStart e.id) s = .next t ∧ now { e with state := 3 } t) ∧
    (e.state = 3 → (∀ y ∈ s.tcache, y.id ≠ s.nextId) →
      ∃ t, exec (.reoptimisationComplete e.id true) s = .next t ∧
        t.tcache.find? (fun y => y.id == s.nextId) = some { e with
          id := s.nextId, state := 1, stored := 0, launches := 0, runs := 0, rollbacks := 0, sites := []
          kept := e.kept ++ e.sites.map fun x => (x.ldw, x.stw) } ∧
        { t with tcache := s.tcache, nextId := s.nextId } = s) ∧
    (e.state = 3 → ∃ t, exec (.reoptimisationComplete e.id false) s = .next t ∧ now { e with state := 1 } t)) ∧
  (∀ (s : State) t l, s.launch? t.launch = some l → s.keptSites t = l.kept) ∧
  (∀ (s : State) l e, s.entryFor l.kernel = some e → (∀ n ∈ s.members, n = s.pkg) →
    s.tcache.find? (fun y => y.id == e.id) = some e → (s.countDispatch l).2.kept = e.kept) ∧
  (∀ (s : State) c k ts kept ldw stw w, (ldw, stw) ∈ kept → (ldw, w) ∈ s.conflicts c k ts kept →
    stw ≠ 0xFFFFFFFF ∧ (w ≠ 0xFFFFFFFF → ts.start ≤ stw → stw < ldw → stw < w)) ∧
  (∀ (s : State) a b, s.tcache = [a, b] → a.id ≠ b.id → a.last < b.last → a.state ≠ 3 →
    (∀ l ∈ s.launches, l.phase = 1 → l.entry ≠ a.id ∧ (l.nextTeam = 0 → a.serves l.kernel = false)) →
    exec .eviction s = .next { s with tcache := [b] }) ∧
  (∀ (s : State) a b, s.tcache = [a, b] → a.id ≠ b.id → (a.state = 3 ∨ ∃ l ∈ s.launches, l.phase = 1 ∧ l.entry = a.id) →
    b.state ≠ 3 → (∀ l ∈ s.launches, l.phase = 1 → l.entry ≠ b.id ∧ (l.nextTeam = 0 → b.serves l.kernel = false)) →
    exec .eviction s = .next { s with tcache := [a] }) ∧
  (∀ (s : State) (h : BitVec 32), s.handleKernel (fieldOf h.toNat 26 6) h.toNat = none →
    exec (.profileRequest h) s = .next { s with cxq := { s.cxq with kpres := 2, late := unasked s } }) ∧
  ∀ (s s0 : State) (h : BitVec 32) slot k e pa, s.handleKernel (fieldOf h.toNat 26 6) h.toNat = some (slot, k) →
    s.entryFor k = some e → e.sites.length ≤ 14 →
    CxAt { s with cxq := { s.cxq with kpres := 0, late := unasked s } } 0 (fieldOf h.toNat 26 6) (fieldOf s.cxq.kpbuf.toNat 8 49 * 256) 1
      s0 pa →
    ∃ t, exec (.profileRequest h) s = .next t ∧ t.cxq = { s.cxq with kpres := 1, late := unasked s } ∧
      readBytes t.mem pa 8 = leBytes 8 e.launches ∧ readBytes t.mem (pa + 8) 8 = leBytes 8 e.runs ∧
      readBytes t.mem (pa + 16) 8 = leBytes 8 e.rollbacks ∧
      (∀ i (hi : i < e.sites.length),
        readBytes t.mem (pa + 32 + 16 * i) 4 = leBytes 4 e.sites[i].ldw ∧
        readBytes t.mem (pa + 36 + 16 * i) 4 = leBytes 4 e.sites[i].stw ∧
        readBytes t.mem (pa + 40 + 16 * i) 8 = leBytes 8 e.sites[i].count) ∧
      ∀ a, ¬Inside pa 256 a → readByte t.mem a = readByte s0.mem a

/-- R94, R97, R100: CHILD_LAUNCH takes the oldest pushed record of a team into scheduling in its turn: its launch number is the
record's, its priority its parent's, and with its key stored it is ready; in DRAINING nothing of it is placed. Out of its turn it
waits, and BAR holds it until every earlier child has completed. It rests on the model's choices of log entry 16. -/
def Obligations.ChildLaunchesEnter : Prop :=
  (∀ (s : State) t, s.nextHandOver ≠ some (.child t) → exec (.childLaunch t) s = .next s) ∧
  ∀ (s : State) t ws rest p, s.team? t.id = some t → t.children = ws :: rest → s.launch? t.launch = some p →
    let word (i : Nat) : Nat := (ws.getD i 0).toNat
    ((word 0).testBit 8 = true → t.kids ≠ 0 → (∀ u ∈ s.teams, u.id = t.id → u = t) → exec (.childLaunch t.id) s = .next s) ∧
    (s.nextHandOver = some (.child t.id) → (s.ctx p.ctx).state = 5 → word 1 = 0 → s.dbg.trc = false → s.cx0Frozen = false →
      (∀ y ∈ s.launches, y.id ≠ s.nextId) →
      ∃ s1, exec (.childLaunch t.id) s = .next s1 ∧ s1.launches = s.launches ∧ s1.team? t.id = some { t with children := rest } ∧
        s1.mem = s.mem) ∧
    (s.nextHandOver = some (.child t.id) → (s.ctx p.ctx).state ≠ 5 → ∀ slot k e,
      s.handleKernel p.ctx (word 2) = some (slot, k) → (k.priv = 0 ∨ word 5 % 16 = 0) → k.rejected = false → k.gang = 0 → k.params = [] →
      s.entryFor k = some e → (∀ y ∈ s.launches, y.id ≠ s.nextId) →
      ∃ s1 l, exec (.childLaunch t.id) s = .next s1 ∧ s1.launch? s.nextId = some l ∧
        l.num = BitVec.ofNat 32 (word 7) ∧ l.ctx = p.ctx ∧ l.kernel = k ∧ l.slot = slot ∧ l.pri = p.pri ∧
        l.parent = some t.id ∧ l.origin = p.origin ∧ l.phase = 1 ∧ l.entry = e.id ∧ l.read = true ∧ l.ccaddr = word 1 ∧
        l.ccinc = fieldOf (word 0) 16 16 ∧ s1.team? t.id = some { t with children := rest, kids := t.kids + 1 } ∧
        s1.rr = aset 1023 s.rr p.pri (p.origin.getD 0) ∧ s1.mem = s.mem)

/-! ### Paging -/

namespace Sys2Proof.Machine

/-- No team, launch, message or late record waits for anything. -/
structure NoWaiters (s : State) : Prop where
  teams : s.teams = []
  launches : s.launches = []
  msgs : s.msgs = []
  late : s.cxq.late = []
  buffers : ∀ c, (s.core c).wc = []
  accesses : s.accesses = []

/-- The request `r` is the only one, and nothing but walks waits for it. -/
structure OnlyWalksWait (s : State) (r : PReq) : Prop where
  one : s.preqs = [r]
  idle : NoWaiters s
  ctxs : ∀ e ∈ s.ctxs, e.2.fwalk ≠ some r.id
  queues : ∀ e ∈ s.queues, e.2.paused ≠ some r.id ∧ ∀ p ∈ e.2.pkts, p.req ≠ some r.id
  load : s.cxq.kreq ≠ some r.id

end Sys2Proof.Machine

/-- R195 to R198, R206: a walk that ends at a leaf sets A, and D for a write or atomic, in it and caches the translation of
its 4 KiB page; a walk that fails a check raises a page request, which goes into the next slot of the ring with the
interrupt. It rests on the model's choices of log entries 5, 18, 30 and 63. -/
def Obligations.PageWalksComplete : Prop :=
  (∀ (s : State) w a p level, s.walks = [w] → w.req = none → w.waiters ≠ [] → s.msgs = [] →
    s.walkFor w.core w.ctx w.va w.kind = .leaf a p level → p.testBit 9 = false → (p.testBit 8 = false ∨ p.testBit 2 = true) →
    s.leafFault w.ctx p (leafPage p level w.va + w.va % 4096) w.kind w.multi = none →
    ∃ t, exec (.pageWalk w.id) s = .next t ∧ t.walks = [] ∧
      (∃ rest, t.tlbs = ⟨w.core, w.ctx, w.va / 4096, leafPage p level w.va, w.kind != 0, 0, false,
        if p.testBit 63 then 16 else 512 ^ level⟩ :: rest) ∧
      readBytes t.mem a 8 = leBytes 8 (p ||| 64 ||| (if w.kind = 0 then 0 else 128)) ∧
      (∀ b, ¬Inside a 8 b → readByte t.mem b = readByte s.mem b) ∧ t.teams = s.teams ∧ t.preqs = s.preqs) ∧
  (∀ (s : State) w cause level n, s.walks = [w] → w.req = none → w.waiters ≠ [] → s.msgs = [] → s.preqs = [] →
    s.walkFor w.core w.ctx w.va w.kind = .request cause level → fieldOf s.pg.fq.toNat 0 5 = n → 4 ≤ n → n ≤ 16 →
    (s.pg.fqt - s.pg.fqh).toNat < 2 ^ n →
    let r : PReq := ⟨s.nextReq, w.va, w.ctx, w.kind, cause, level, true⟩
    let at_ := fieldOf s.pg.fq.toNat 12 44 * 4096 + 32 * (s.pg.fqt.toNat % 2 ^ n)
    s.shut at_ = false →
    ∃ t, exec (.pageWalk w.id) s = .next t ∧ t.preqs = [r] ∧ t.walks = [{ w with req := some s.nextReq }] ∧
      t.nextReq = (s.nextReq + 1) % 2 ^ 32 ∧ t.pg = { s.pg with fqt := s.pg.fqt + 1 } ∧ t.irqs = s.irqs ++ [.page] ∧
      readBytes t.mem at_ 8 = leBytes 8 w.va ∧ readBytes t.mem (at_ + 8) 4 = leBytes 4 s.nextReq ∧
      readBytes t.mem (at_ + 12) 4 =
        [BitVec.ofNat 8 w.ctx, BitVec.ofNat 8 w.kind, BitVec.ofNat 8 cause, BitVec.ofNat 8 level] ∧
      (∀ b, ¬Inside at_ 32 b → readByte t.mem b = readByte s.mem b) ∧ t.teams = s.teams ∧ t.tlbs = s.tlbs) ∧
  (∀ (s : State) r w (value : BitVec 64), OnlyWalksWait s r → fieldOf value.toNat 8 32 = r.id → fieldOf value.toNat 0 8 = 0 →
    s.walks = [w] → w.req = some r.id →
    ∃ t, exec (.pageReplay value) s = .next t ∧ t.preqs = [] ∧ t.walks = [{ w with req := none }] ∧ t.mem = s.mem) ∧
  ∀ (s : State) r w (value : BitVec 64), OnlyWalksWait s r → fieldOf value.toNat 8 32 = r.id →
    3 ≤ fieldOf value.toNat 0 8 → fieldOf value.toNat 0 8 ≤ 5 → s.walks = [w] → w.req = some r.id → w.waiters ≠ [] →
    ∃ t, exec (.pageFail value) s = .next t ∧ t.preqs = [] ∧ t.walks = [] ∧ t.mem = s.mem ∧
      t.walkEnds = s.walkEnds ++ [⟨w.core, w.ctx, w.va / 4096, w.kind,
        { code := fieldOf value.toNat 0 8, detail := r.cause }, w.waiters, some r.va⟩]

/-- R195, R198, R199, R202, R206: the root of a CREATED context is written, that of any other kept; HEAD of the request ring
takes the value written; an invalidation drops the translations of a page of a context, or all of them, and is BUSY until no
access under them is held; every epoch halves the access counters. It rests on the model's choices of log entry 45. -/
def Obligations.PagingRegistersComplete : Prop :=
  ∀ s : State,
    (∀ v : BitVec 64,
      let n := fieldOf v.toNat 44 6
      let c := s.ctx n
      let root (r : BitVec 44) : Pg := { s.pg with root := BitVec.ofNat 64 (n * 2 ^ 44 + r.toNat) }
      (c.state = 1 → exec (.pgRootWrite v) s =
        .next { s.setCtx n { c with root := BitVec.ofNat 44 v.toNat, rooted := true } with pg := root (BitVec.ofNat 44 v.toNat) }) ∧
      (c.state ≠ 1 → exec (.pgRootWrite v) s = .next { s.setCtx n c with pg := root c.root })) ∧
    (∀ v : BitVec 64, s.preqs = [] →
      exec (.pgFqhHeadWrite v) s = .next { s with pg := { s.pg with fqh := BitVec.ofNat 32 v.toNat } }) ∧
    (∀ v : BitVec 64,
      let ctx := fieldOf v.toNat 56 6
      let gone (all : Bool) (e : Tlb) : Prop := e.ctx = ctx ∧ (all = true ∨ e.vpn / e.span = fieldOf v.toNat 0 45 / e.span)
      let done (all : Bool) (t : State) : Prop :=
        (∀ e, e ∈ t.tlbs ↔ e ∈ s.tlbs ∧ ¬gone all e) ∧ t.pg.inval.getLsbD 63 = true ∧
          { t with tlbs := s.tlbs, pg := { t.pg with
              inval := s.pg.inval, invalPages := s.pg.invalPages, former := s.pg.former } } = s
      (v.getLsbD 62 = false → ∃ t, exec (.invalidatePage v) s = .next t ∧ done false t) ∧
      (v.getLsbD 62 = true → ∃ t, exec (.invalidateAll v) s = .next t ∧ done true t) ∧
      (v.getLsbD 62 = true → exec (.invalidatePage v) s = .next s) ∧
      (v.getLsbD 62 = false → exec (.invalidateAll v) s = .next s)) ∧
    (s.pg.inval.getLsbD 63 = true → s.teams = [] → s.accesses = [] → (∀ c, (s.core c).wc = []) →
      ∃ t, exec .invalidateComplete s = .next t ∧ t.pg.inval.getLsbD 63 = false ∧
        (∀ i, i < 63 → t.pg.inval.getLsbD i = s.pg.inval.getLsbD i) ∧ t.pg.invalPages = [] ∧ t.tlbs = s.tlbs ∧ t.mem = s.mem) ∧
    (awf 0 s.counters = true →
      let e := fieldOf s.pg.cthr.toNat 16 16
      (e ≠ 0 → s.pg.epoch + e * 2 ^ 20 ≤ s.clk →
        ∃ t, exec .counterEpoch s = .next t ∧ (∀ k, aget 0 t.counters k = aget 0 s.counters k / 2) ∧
          t.pg = { s.pg with epoch := s.clk } ∧ { t with counters := s.counters, pg := s.pg } = s) ∧
      ((e = 0 ∨ s.clk < s.pg.epoch + e * 2 ^ 20) → exec .counterEpoch s = .next s))

namespace Sys2Proof.Machine

/-- Bytes of a frame of a size (R203). -/
def frameBytes (size : Nat) : Nat := [4096, 65536, 2097152, 1073741824].getD size 4096

end Sys2Proof.Machine

/-- R17, R67, R203, R206, R348: a write without GO, or while the engine is busy, sets SIZE alone. GO checks the leaf at PTE, the key IDs of
both frames and that neither lies where only the translator reads and writes, marks the leaf (MIG 1, W 0) and drops the frame's
translations. The end of the copy leaves SRC's bytes in DST, gives the leaf DST's PPN with MIG 0 and W 1, and reports 1; a
leaf that has changed, or whose key has gone, is left, with 2; an uncorrectable error gives 3, with the leaf's marks undone, and so
does a leaf whose bytes are lost, which is left. It rests on the model's choices of log entry 34. -/
def Obligations.MigrationsComplete : Prop :=
  (∀ (s : State) (quay : Fin 4) (v : BitVec 64), NoWaiters s → v.getLsbD 0 = true →
    let m0 := aget {} s.pg.migs quay.val
    let z := fieldOf v.toNat 3 2
    let m := { m0 with
      size := z, code := z, srcPa := fieldOf m0.src.toNat 12 44 * 4096, dstPa := fieldOf m0.dst.toNat 12 44 * 4096
      pteAt := fieldOf m0.pte.toNat 3 53 * 8 }
    let p := leNat (readBytes s.mem m.pteAt 8)
    let ok := p.testBit 0 = true ∧ p.testBit 2 = true ∧ p.testBit 8 = false ∧ p.testBit 9 = false ∧ p.testBit 63 = decide (z = 1) ∧
      fieldOf p 10 44 = framePpn z m.srcPa ∧ m.srcPa % frameBytes z = 0 ∧ s.shut m.pteAt = false
    m0.busy = false →
    (s.locBad (.mem m.pteAt) 8 = true → ∃ t, exec (.migrationStart quay v) s = .next t ∧
      aget {} t.pg.migs quay.val = { m with status := 3 } ∧ t.mem = s.mem ∧ t.tlbs = s.tlbs) ∧
    (s.locBad (.mem m.pteAt) 8 = false → ¬ok → ∃ t, exec (.migrationStart quay v) s = .next t ∧ aget {} t.pg.migs quay.val = { m with status := 2 } ∧
      t.mem = s.mem ∧ t.tlbs = s.tlbs) ∧
    (s.locBad (.mem m.pteAt) 8 = false → ok → (paKey m.srcPa ≠ paKey m.dstPa ∨ s.sealedMig m = true) → ∃ t, exec (.migrationStart quay v) s = .next t ∧
      aget {} t.pg.migs quay.val = { m with status := 4 } ∧ t.mem = s.mem ∧ t.tlbs = s.tlbs) ∧
    (s.locBad (.mem m.pteAt) 8 = false → ok → paKey m.srcPa = paKey m.dstPa → s.sealedMig m = false → ∃ t, exec (.migrationStart quay v) s = .next t ∧
      aget {} t.pg.migs quay.val = { m with status := 0, busy := true, leaf := p + 2 ^ 8 - 2 ^ 2 } ∧
      readBytes t.mem m.pteAt 8 = leBytes 8 (p + 2 ^ 8 - 2 ^ 2) ∧
      (∀ a, ¬Inside m.pteAt 8 a → readByte t.mem a = readByte s.mem a) ∧
      ∀ e, e ∈ t.tlbs ↔ e ∈ s.tlbs ∧
        ¬(m.srcPa ≤ e.pa / 4096 * 4096 ∧ e.pa / 4096 * 4096 < m.srcPa + frameBytes z))) ∧
  (∀ (s : State) (quay : Fin 4) (v : BitVec 64), v.getLsbD 0 = false ∨ (s.mig quay.val).busy = true →
    exec (.migrationStart quay v) s = .next (s.setMig quay.val { s.mig quay.val with size := fieldOf v.toNat 3 2 })) ∧
  ∀ (s : State) (quay : Fin 4), NoWaiters s → s.mem.wf = true →
    let m := aget {} s.pg.migs quay.val
    let n := frameBytes m.code
    let leaf := leNat (readBytes s.mem m.pteAt 8)
    m.busy = true → s.migHeld m = false →
    (leaf = m.leaf → s.shut m.pteAt = false → s.migBad m = false → (m.pteAt + 8 ≤ m.dstPa ∨ m.dstPa + n ≤ m.pteAt) →
      ∃ t, exec (.migrationCopyEnd quay true) s = .next t ∧
        aget {} t.pg.migs quay.val = { m with busy := false, status := 1 } ∧
        (∀ k, k < n → readByte t.mem (m.dstPa + k) = readByte s.mem (m.srcPa + k)) ∧
        readBytes t.mem m.pteAt 8 =
          leBytes 8 (leaf - fieldOf leaf 10 44 * 1024 + framePpn m.code m.dstPa * 1024 - 2 ^ 8 + 2 ^ 2) ∧
        ∀ a, ¬Inside m.dstPa n a → ¬Inside m.pteAt 8 a → readByte t.mem a = readByte s.mem a) ∧
    ((leaf ≠ m.leaf ∨ s.shut m.pteAt = true) → s.migBad m = false → ∃ t, exec (.migrationCopyEnd quay true) s = .next t ∧
      aget {} t.pg.migs quay.val = { m with busy := false, status := 2 } ∧
      (∀ k, k < n → readByte t.mem (m.dstPa + k) = readByte s.mem (m.srcPa + k)) ∧
      ∀ a, ¬Inside m.dstPa n a → readByte t.mem a = readByte s.mem a) ∧
    (∀ ok, ok = false ∨ s.migBad m = true → leaf = m.leaf → s.shut m.pteAt = false → s.locBad (.mem m.pteAt) 8 = false → (m.pteAt + 8 ≤ m.dstPa ∨ m.dstPa + n ≤ m.pteAt) →
      ∃ t, exec (.migrationCopyEnd quay ok) s = .next t ∧
        aget {} t.pg.migs quay.val = { m with busy := false, status := 3 } ∧
        readBytes t.mem m.pteAt 8 = leBytes 8 (leaf - 2 ^ 8 + 2 ^ 2) ∧
        ∀ a, ¬Inside m.dstPa n a → ¬Inside m.pteAt 8 a → readByte t.mem a = readByte s.mem a)

/-- R17, R67, R204, R206, R348: OP 1 adds the replica set that a well-formed descriptor names, with outcome 1; a malformed one, or one that
lies where only the translator reads or under no key, or whose bytes are lost, gives 3, a full
table 2. OP 2 removes the set of a descriptor, or gives 4; no cached translation then names it.
It rests on the model's choices of log entries 34, 45 and 63. -/
def Obligations.ReplicaSetsComplete : Prop :=
  ∀ (s : State) (v : BitVec 64),
    let desc := fieldOf v.toNat 6 50 * 64
    let w0 := leNat (readBytes s.mem desc 8)
    let frames := (List.range (fieldOf w0 0 4)).map fun k => leNat (readBytes s.mem (desc + 8 * (k + 1)) 8)
    let size := frameBytes (fieldOf w0 4 2)
    let quays := frames.map fun f => (paPkg f, paQuay f)
    let ok := 2 ≤ frames.length ∧ frames.length ≤ 7 ∧ quays.Nodup ∧
      ∀ f ∈ frames, f % size = 0 ∧ paKey f = paKey (frames.headD 0) ∧ f < 2 ^ 56 ∧ s.paHole f = false ∧ s.sealed f = false
    let out (k : Nat) : State := { s with pg := { s.pg with replS := k } }
    (fieldOf v.toNat 4 2 = 1 → (s.shut desc = true ∨ s.locBad (.mem desc) 64 = true) → exec (.replicaAdd v) s = .next (out 3)) ∧
    (fieldOf v.toNat 4 2 = 1 → s.shut desc = false → s.locBad (.mem desc) 64 = false →
      (¬ok → exec (.replicaAdd v) s = .next (out 3)) ∧
      (ok → 4096 ≤ s.repls.length → exec (.replicaAdd v) s = .next (out 2)) ∧
      (ok → s.repls.length < 4096 → exec (.replicaAdd v) s =
        .next { out 1 with repls := s.repls ++ [⟨desc, fieldOf w0 8 6, fieldOf w0 4 2, frames⟩] })) ∧
    (fieldOf v.toNat 4 2 = 2 → (∀ r ∈ s.repls, r.desc ≠ desc) → exec (.replicaRemove v) s = .next (out 4)) ∧
    ∀ r, fieldOf v.toNat 4 2 = 2 → s.repls = [r] → r.desc = desc → (∀ e ∈ s.tlbs, e.rep ≤ 1) →
      ∃ t, exec (.replicaRemove v) s = .next t ∧ t.repls = [] ∧ (∀ e ∈ t.tlbs, e.rep ≠ 1) ∧
        { t with repls := s.repls, tlbs := s.tlbs } = out 1

/-! ### Engines -/

namespace Sys2Proof.Machine

/-- No two bytes of the tile at a scratch offset are one byte of the team's banks (R108, R227). -/
def KeysApart (u : Team) (off : Nat) : Prop :=
  ∀ i j, i < 512 → j < 512 → u.scrKey (off + i) = u.scrKey (off + j) → i = j

/-- Nothing holds arrivals back: no bank is released or closed (R226, R240). -/
def OpenBanks (u : Team) : Prop := u.released = [] ∧ u.closed = []

end Sys2Proof.Machine

/-- R228: an arrival at a tile writes its beats and no other byte of scratch, adds them to the tile's tag, or makes it FULL
where it seals, marks an overrun of a FULL tile, which the team counts, and leaves every other tile's tag. -/
def Obligations.ArrivalsFillTiles : Prop :=
  ∀ (u : Team) off (beats : BitVec 16) (bytes : List Byte) sealed, off % 512 = 0 → bytes.length = 512 → KeysApart u off →
    let u1 := u.arrive off beats bytes sealed
    let old := u.tag off
    (∀ b j, b < 16 → j < 32 → beats.getLsbD b = true →
      u1.scrByte (off + 32 * b + j) = bytes.getD (32 * b + j) 0) ∧
    (∀ a, (∀ b j, b < 16 → j < 32 → beats.getLsbD b = true → u.scrKey a ≠ u.scrKey (off + 32 * b + j)) →
      u1.scrByte a = u.scrByte a) ∧
    u1.tag off = ⟨if sealed then 0xFFFF else old.mask ||| beats, old.ovr || (old.mask == 0xFFFF), old.pend⟩ ∧
    (∀ a, u.scrKey a / 512 ≠ u.scrKey off / 512 → u1.tag a = u.tag a) ∧
    u1.ovc = (if old.mask = 0xFFFF then min (u.ovc + 1) (2 ^ 32 - 1) else u.ovc) ∧
    u1.ovlast = (if old.mask = 0xFFFF then off else u.ovlast) ∧
    { u1 with scr := u.scr, bad := u.bad, unf := u.unf, tags := u.tags, ovc := u.ovc, ovlast := u.ovlast } = u

/-- R223, R228, R231, R232, R239: TILE_ARRIVAL applies a fragment's beats with the source tile's bytes and ends it;
FRAGMENT_FAILURE charges LINK with DETAIL 2 where no team has the handle; the fill of a probe slot or of a bound window's tile
arrives with all sixteen beats of its source. It rests on the model's choices of log entries 21 and 42. -/
def Sys2Proof.Claim.TileEvents : Prop :=
  (∀ (s : State) f id off u src, s.frags = [f] → f.dst = .scr id off → off % 512 = 0 → s.team? id = some u → OpenBanks u →
    s.team? f.team = some src → src.scrRead f.src 512 = f.data → s.fragHeld f = false → f.sig = none → f.left = f.mask → f.mask ≠ 0 →
    ∃ t, exec (.tileArrival f.id f.mask) s = .next t ∧ t.frags = [] ∧
      t.team? id = some (u.arrive off f.mask f.data f.sealed) ∧
      (∀ k, k ≠ id → t.team? k = s.team? k) ∧ { t with teams := s.teams, frags := s.frags, free := s.free, slog := s.slog } = s) ∧
  (∀ (s : State) f id off src, s.frags = [f] → f.dst = .scr id off → s.team? id = none → s.team? f.team = some src →
    f.sig = none →
    ∃ t, exec (.fragmentFailure f.id) s = .next t ∧ t.frags = [] ∧
      t.team? f.team = some { src with
        pend := src.pend ++ [⟨f.group, f.lanes, f.pc, { code := 15, lane := f.lane, detail := 2 }⟩] } ∧
      { t with teams := s.teams, frags := s.frags } = s) ∧
  (∀ (s : State) f u pa, s.fills = [f] → s.team? f.team = some u → OpenBanks u →
    s.enginePlace { core := u.coreNo (u.coreAt f.off), ctx := s.ctxOf u, kind := 0, me := .engine f.id } f.va 512 =
      .at (.mem pa) → s.locBad (.mem pa) 512 = false → (∀ c, (s.core c).wc = []) →
    let u1 := u.arrive f.off 0xFFFF (readBytes s.mem pa 512) false
    (∀ i, f.slot = some i →
      ∃ t, exec (.probeFillComplete f.id true) s = .next t ∧ t.fills = [] ∧
        t.team? f.team = some { u1 with slots := aset ⟨0, 0, 0⟩ u1.slots i { aget ⟨0, 0, 0⟩ u1.slots i with state := 2 } }) ∧
    (f.slot = none →
      ∃ t, exec (.windowFillComplete f.id true) s = .next t ∧ t.fills = [] ∧
        t.team? f.team = some (u1.setTag f.off { u1.tag f.off with pend := false })))

/-- R284 to R286: the last segment of a `.g` to `.g` copy of one row, both ranges within one page, writes the bytes of SRC at
DST, or where the two overlap a byte that the command may have carried there, ends the command with state 3 and its length, and
changes no other byte but in the hot ring. It rests on the model's choices of log entries 20 and 22. -/
def Sys2Proof.Claim.CopySegments : Prop :=
  ∀ (s : State) c t g e pa pb, s.cmds = [c] → s.team? c.team = some t → t.resident = true →
    (s.core (t.coreNo c.core)).frozen = 0 → (∀ k, (s.core k).wc = []) → t.group? c.group = some g → g.copies = [e] →
    e.cmd = c.id → c.args.kind = 0 → c.args.srcS = false → c.args.dstSp = 0 → c.args.rows = 1 → c.args.sig = none →
    c.ranks.length = 1 → c.idx = [] → c.open_ = [0] → c.good = [] → c.fails = [] → c.parts = [] → c.cancelled = false →
    c.zeros = [] → c.wrote = [] → 1 ≤ c.args.width → c.args.src < 2 ^ 64 → c.args.dst < 2 ^ 64 → vaClass c.args.src = .user →
    vaClass c.args.dst = .user → c.args.src % 4096 + c.args.width ≤ 4096 → c.args.dst % 4096 + c.args.width ≤ 4096 →
    c.args.sstr = 0 → c.args.dstr = 0 →
    s.enginePlace { core := t.coreNo c.core, ctx := s.ctxOf t, kind := 0, me := .engine c.id } c.args.src c.args.width =
      .at (.mem pa) →
    s.enginePlace { core := t.coreNo c.core, ctx := s.ctxOf t, kind := 1, me := .engine c.id } c.args.dst c.args.width =
      .at (.mem pb) → s.locBad (.mem pa) c.args.width = false →
    s.hbmFailed pb c.args.width = false →
    ∃ s1 t1 g1, exec (.copySegmentEnd c.id 0 true) s = .next s1 ∧ s1.cmds = [] ∧ s1.team? c.team = some t1 ∧
      t1.group? c.group = some g1 ∧ g1.copies = [⟨c.id, c.args.width, 0, 3⟩] ∧ { g1 with copies := g.copies } = g ∧
      t1.scr = t.scr ∧
      (pa + c.args.width ≤ pb ∨ pb + c.args.width ≤ pa → readBytes s1.mem pb c.args.width = readBytes s.mem pa c.args.width) ∧
      (∀ k, k < c.args.width → ∃ j, j < c.args.width ∧ j % (pa - pb + (pb - pa)) = k % (pa - pb + (pb - pa)) ∧
        readByte s1.mem (pb + k) = readByte s.mem (pa + j)) ∧
      ∀ a, ¬Inside pb c.args.width a → ¬hotRing s a → readByte s1.mem a = readByte s.mem a

/-- Events of fragments, probes, windows and copies. -/
def Obligations.TileEventsComplete : Prop := Sys2Proof.Claim.TileEvents ∧ Sys2Proof.Claim.CopySegments

/-- R261, R265, R267, R277: a local armed nest starts on an idle core with no element changed; its last K-block, where it is
also its first, clears the tile if a level it enters has CLR set, adds to it and ends the nest, DRAINED; a gang reduction over
two ranks leaves in the destination tile the sum of their source elements.
It rests on the model's choices of log entry 31. -/
def Sys2Proof.Claim.NestEvents : Prop :=
  (∀ (s : State) t core a, s.team? t.id = some t → t.resident = true → t.leaving = none → s.coreIdle (t.coreNo core) = false → s.acreds = [] →
    (t.nest core).armed = some a → (t.nest core).active = none → a.gang = false →
    ∃ s1 t1, exec (.nestStart t.id core) s = .next s1 ∧ s1.team? t.id = some t1 ∧ (t1.nest core).armed = none ∧
      (t1.nest core).active = some a ∧ (t1.nest core).kb = 0 ∧ (t1.nest core).acc = (t.nest core).acc ∧
      { t1 with nests := t.nests } = t ∧ { s1 with teams := s.teams } = s) ∧
  (∀ (s : State) t core a tile, s.team? t.id = some t → t.resident = true → t.leaving = none → s.coreIdle (t.coreNo core) = false →
    s.acreds = [] → (t.nest core).active = some a → (t.nest core).armed = none → a.gang = false → a.owner = false →
    a.xs.headD 0 = tile → (∀ n, n < 6 → nxTrip a.set n = 1) → a.its = [0, 0, 0, 0, 0, 0] → a.rew = none →
    (∀ x ∈ nxStreams a.set, (t.fifo core x.fifo).readable x.bytes = true ∧ (t.fifo core x.fifo).bad = []) →
    (t.block core a).malformed = false →
    let k := t.block core a
    let cleared : Prop := ∃ n j, a.clr = some n ∧ j ≤ n ∧ (nxCtl a.set j).testBit 0 = true
    k.rv ≤ 128 → k.cv ≤ 128 →
    ∃ s1 t1 old, exec (.kblockRetire t.id core) s = .next s1 ∧ s1.team? t.id = some t1 ∧ (t1.nest core).active = none ∧
      (t1.nest core).abt = false ∧ (t1.nest core).kb = ((t.nest core).kb + 1) % 2 ^ 32 ∧
      (cleared → ∀ n, n < 16384 → old n = 0) ∧ (¬cleared → old = (t.nest core).elem tile) ∧
      (∀ i j, i < k.rv → j < k.cv → j < 128 → i < 128 →
        (t1.nest core).elem tile (128 * i + j) = (k.cell i j (old (128 * i + j))).1) ∧
      (∀ i j, i < 128 → j < 128 → (k.rv ≤ i ∨ k.cv ≤ j) → (t1.nest core).elem tile (128 * i + j) = old (128 * i + j)) ∧
      (∀ n, n / 16384 ≠ tile → aget 0 (t1.nest core).acc n = aget 0 (t.nest core).acc n) ∧
      t1.scr = t.scr ∧ t1.groups = t.groups ∧ s1.mem = s.mem) ∧
  ∀ (s : State) a t p q, s.acreds = [a] → s.team? a.team = some t → s.coreIdle (t.coreNo a.core) = false →
    (s.kernelOf t).gang = 2 → s.rankPlace t 0 = some p → s.rankPlace t 1 = some q → a.hist = [] → a.sig = none →
    ∃ s1 t1, exec (.acredComplete a.id) s = .next s1 ∧ s1.acreds = [] ∧ s1.team? a.team = some t1 ∧
      (∀ i, i < 16384 → (t1.nest a.core).elem a.aD i = (accAdd ((s.nestAt p).elem a.aS i) ((s.nestAt q).elem a.aS i)).1) ∧
      (∀ n, n / 16384 ≠ a.aD → aget 0 (t1.nest a.core).acc n = aget 0 (t.nest a.core).acc n) ∧
      { t1 with nests := t.nests } = t ∧ s1.mem = s.mem

/-- R257, R261, R262: one cell of an integer K-block with neither sparsity nor scales adds the exact sum of the products of its
row and column to the accumulator and rounds once to nearest even; a sum of zero leaves its bits, and a NaN accumulator takes
the canonical payload (R27). It rests on the model's choices of log entry 31. -/
def Obligations.IntegerBlocksAccumulateExactly : Prop :=
  ∀ (k : Block) i j (old : BitVec 32), k.fmt = 1 → k.spa = false → k.scl = false →
    let a (p : Nat) : Int := signedOf 8 (k.a.getD (128 * p + i) 0).toNat
    let b (p : Nat) : Int := signedOf 8 (k.b.getD (128 * p + j) 0).toNat
    let d : Int := ((List.range k.kv).map fun p => a p * b p).sum
    let x := readF fmtF32 false old.toNat
    (d = 0 → k.cell i j old = (old, 0)) ∧
    (d ≠ 0 → x.isNan = true → k.cell i j old = (BitVec.ofNat 32 fmtF32.nan, 0)) ∧
    (d ≠ 0 → x.isNan = false →
      (k.cell i j old).1 = BitVec.ofNat 32 (roundF fmtF32 .rne false (sumF .rne [x, .fin (decide (d < 0)) d.natAbs 1])).bits)

/-! ### Barriers -/

namespace Sys2Proof.Machine

/-- The lane of a thread arrival that is alone in breaking no rule of R247 but those of the whole word. -/
def Barrier.fresh (x : Barrier) (g l : Nat) : Prop := 32 * g + l ∉ x.arr ∧ 32 * g + l ∉ x.drp

/-- The kind of phase that an arrival word makes or joins: `gbar` a gang phase, the others a team phase (R247, R253). -/
def kindOfWord (op : Nat) : Nat := if op = 7 then 2 else 1

/-- The barrier as a flip leaves it (R245). -/
def Barrier.flipped (x : Barrier) : Barrier := ⟨x.e - x.dn, 0, 0, 0, x.c - x.m, none, 0, 0, !x.ph, [], x.drp, false⟩

/-- The completion test of R245 succeeds. -/
def Barrier.Completes (x : Barrier) : Prop := x.held = false ∧ x.a = x.e ∧ x.m ≤ x.c ∧ 0 < x.a + x.m

end Sys2Proof.Machine

/-- R246, R247, R249 to R253: the effect of each barrier word on a barrier, and the fault of one that breaks a rule. `binit` sets E and
clears every drop; an arrival of `barr`, `bsync`, `bdrop` or `gbar` counts its lanes, marks their threads and sets the
phase's kind, and `bdrop` drops them; `bwait` and `bphase` change nothing; `barm` adds to M and links its signal. An arrival
that breaks a rule faults BAR_OVER for the lowest lane that does, with the first rule broken as DETAIL 1 to 4; `binit` and
`barm` fault ENGINE with DETAIL 7, 8 or 9. `bphase` writes the fields of R251 to each of its lanes. -/
def Sys2Proof.Claim.BarrierWords : Prop :=
  (∀ (x : Barrier) n sig g lanes,
    let fault (d : Nat) : Prop := x.check 0 n sig g lanes = some { code := 11, lane := lanes.headD 0, detail := d }
    ((n < 1 ∨ 8192 < n) → fault 8) ∧
    (1 ≤ n → n ≤ 8192 → (x.a ≠ 0 ∨ x.m ≠ 0) → fault 7) ∧
    (1 ≤ n → n ≤ 8192 → x.a = 0 → x.m = 0 →
      x.check 0 n sig g lanes = none ∧ x.apply 0 n sig g lanes = { x with e := n, drp := [] })) ∧
  (∀ (x : Barrier) n sig g lanes op, (op = 1 ∨ op = 3 ∨ op = 4 ∨ op = 7) → (x.kind = 0 ∨ x.kind = kindOfWord op) →
    x.held = false → x.a + lanes.length ≤ x.e → (∀ l ∈ lanes, x.fresh g l) →
    let y := x.apply op n sig g lanes
    let mine (k : Nat) : Prop := ∃ l ∈ lanes, k = 32 * g + l
    x.check op n sig g lanes = none ∧ y.a = x.a + lanes.length ∧ y.kind = kindOfWord op ∧
      (∀ k, k ∈ y.arr ↔ k ∈ x.arr ∨ mine k) ∧
      y.dn = (if op = 4 then x.dn + lanes.length else x.dn) ∧ (∀ k, k ∈ y.drp ↔ k ∈ x.drp ∨ (op = 4 ∧ mine k)) ∧
      { y with a := x.a, kind := x.kind, arr := x.arr, dn := x.dn, drp := x.drp } = x) ∧
  (∀ (x : Barrier) n sig g pre l post op, (op = 1 ∨ op = 3 ∨ op = 4 ∨ op = 7) →
    let lanes := pre ++ l :: post
    let fault (d : Nat) : Prop := x.check op n sig g lanes = some { code := 9, lane := l, detail := d }
    let mixed : Prop := (x.kind = 1 ∧ op = 7) ∨ (x.kind = 2 ∧ op ≠ 7)
    let tooMany : Prop := x.e < x.a + lanes.length ∨ x.held = true
    (¬mixed → ¬tooMany → (∀ m ∈ pre, x.fresh g m) → 32 * g + l ∈ x.arr → fault 1) ∧
    (¬mixed → ¬tooMany → (∀ m ∈ pre, x.fresh g m) → 32 * g + l ∉ x.arr → 32 * g + l ∈ x.drp → fault 2) ∧
    (pre = [] → 32 * g + l ∈ x.arr → fault 1) ∧
    (pre = [] → 32 * g + l ∉ x.arr → 32 * g + l ∈ x.drp → fault 2) ∧
    (pre = [] → x.fresh g l → mixed → fault 3) ∧
    (pre = [] → x.fresh g l → ¬mixed → tooMany → fault 4)) ∧
  (∀ (x : Barrier) n sig g lanes, x.check 2 n sig g lanes = none ∧ x.apply 2 n sig g lanes = x ∧
    x.check 5 n sig g lanes = none ∧ x.apply 5 n sig g lanes = x) ∧
  (∀ (x : Barrier) n sig g lanes,
    let fault (d : Nat) : Prop := x.check 6 n sig g lanes = some { code := 11, lane := lanes.headD 0, detail := d }
    ((n < 1 ∨ 65535 < x.m + n) → fault 8) ∧
    (1 ≤ n → x.m + n ≤ 65535 →
      (sig = none → x.check 6 n sig g lanes = none ∧ x.apply 6 n sig g lanes = { x with m := x.m + n }) ∧
      (∀ i, sig = some i → (x.lrem = 0 ∨ x.link = some (g, i)) →
        x.check 6 n sig g lanes = none ∧
          x.apply 6 n sig g lanes = { x with m := x.m + n, link := some (g, i), lrem := x.lrem + n }) ∧
      (∀ i, sig = some i → x.lrem ≠ 0 → x.link ≠ some (g, i) → fault 9))) ∧
  (∀ (x : Barrier) thread, x.a < 2 ^ 14 → x.e < 2 ^ 14 → x.m < 2 ^ 16 → x.kind ≤ 2 →
    let v := (x.phaseReg thread).toNat
    fieldOf v 48 16 = x.m - min x.c x.m ∧ fieldOf v 32 16 = x.a ∧ fieldOf v 16 16 = x.e ∧ fieldOf v 5 11 = 0 ∧
      v.testBit 4 = x.held ∧ fieldOf v 2 2 = x.kind ∧ v.testBit 1 = decide (thread ∈ x.arr) ∧ v.testBit 0 = x.ph) ∧
  ∀ (s : State) c t g ts h b n sig, s.view c = some (t, g, ts) →
    (∀ d, h.act = .barrier 5 b n sig (.v d) →
      ∃ t1 g1, (s.act c h).team? c.1 = some t1 ∧ t1.group? c.2.1 = some g1 ∧
        ∀ l ∈ h.lanes, aget marker g1.v (laneKey d.toNat l) = (t.bar b).phaseReg (32 * g.index + l)) ∧
    (∀ i, h.act = .barrier 5 b n sig (.t i) →
      ∃ t1 g1 ts1, (s.act c h).team? c.1 = some t1 ∧ t1.group? c.2.1 = some g1 ∧ g1.tset? c.2.2 = some ts1 ∧
        ∀ l ∈ h.lanes, (laneKey i.val l, (t.bar b).phaseReg (32 * g.index + l)) ∈ ts1.temps)

/-- R243, R245, R254: the completion test. A team barrier with every expected thread and engine arrival flips and lets its
waiters go, one that lacks any stays; a gang barrier is held until every team of its gang is, and then flips in each. An
external arrival adds one to C, which saturates, and is followed by the test. -/
def Sys2Proof.Claim.BarrierFlips : Prop :=
  (∀ (s : State) t b, s.team? t.id = some t →
    let x := t.bar b
    (x.Completes → x.kind ≠ 2 →
      ∃ t1, (s.testBar t.id b).team? t.id = some t1 ∧ t1.bar b = x.flipped ∧ (∀ d, d ≠ b → t1.bar d = t.bar d) ∧
        ∀ g ∈ t1.groups, ∀ ts ∈ g.tsets, ts.phase ≠ .post (.barrier b)) ∧
    (x.Completes → x.kind = 2 → (∃ u ∈ s.gangOf t, u.id ≠ t.id ∧ (u.bar b).held = false) →
      s.testBar t.id b = s.setTeam (t.setBar b { x with held := true })) ∧
    (x.Completes → x.kind = 2 → (s.teams.map (·.id)).Nodup → (s.gangOf t).length = (s.kernelOf t).gangTeams →
      (∀ u ∈ s.gangOf t, u.id ≠ t.id → (u.bar b).held = true) →
      ∀ u ∈ s.gangOf t, ∃ u1, (s.testBar t.id b).team? u.id = some u1 ∧ u1.bar b = (u.bar b).flipped ∧
        ∀ g ∈ u1.groups, ∀ ts ∈ g.tsets, ts.phase ≠ .post (.barrier b)) ∧
    (¬x.Completes → s.testBar t.id b = s)) ∧
  ∀ (s : State) t b, s.team? t.id = some t →
    ∃ s0, s.arriveBar t.id b = State.testBar s0 t.id b ∧
      ∃ t0, s0.team? t.id = some t0 ∧ t0.bar b = { t.bar b with c := min ((t.bar b).c + 1) 65535 } ∧
        ∀ d, d ≠ b → t0.bar d = t.bar d

/-- Events of nests and barriers. -/
def Obligations.NestAndBarrierEventsComplete : Prop := Sys2Proof.Claim.NestEvents ∧ Sys2Proof.Claim.BarrierWords ∧ Sys2Proof.Claim.BarrierFlips

/-! ### Links -/

namespace Sys2Proof.Machine

/-- Link `n` has become `x`; nothing else differs. -/
def OnlyLink (s t : State) (n : Nat) (x : Link) : Prop :=
  t.link n = x ∧ (∀ m, m ≠ n → t.link m = s.link m) ∧ { t with links := s.links } = s

/-- The margin of a lane (R306). -/
def marginOf (x : Link) (lane : Nat) : Nat := min (aget 65535 x.eyes lane / 256 % 256) (aget 65535 x.eyes lane % 256)

/-- `LK_SEL` selects link `n` (R309). -/
def Selects (s : State) (n : Nat) : Prop :=
  n = 512 * fieldOf s.nt.lksel.toNat 16 2 + fieldOf s.nt.lksel.toNat 0 9 ∧
    fieldOf s.nt.lksel.toNat 0 9 < [512, 64, 16, 8].getD (fieldOf s.nt.lksel.toNat 16 2) 0

/-- Link `n` is a polder link: kind 2, 16 of them, eight lanes each (R304). -/
def PolderLink (n : Nat) : Prop := 1024 ≤ n ∧ n < 1040

/-- Link `n` is a quay link: kind 1, 64 of them, sixteen lanes and two spares each (R304). -/
def QuayLink (n : Nat) : Prop := 512 ≤ n ∧ n < 576

end Sys2Proof.Machine

/-- R304 to R306, R309: what each event does to a link. IRQ is cleared by a write; RESET takes a FAILED link DOWN and trains a
DOWN one; RETRAIN takes a link that carries traffic to RETRAIN; training succeeds to ACTIVE at full width, to DEGRADED below
it, and a timeout of 250,000 ac fails it, here while nothing waits for the link; a margin below its threshold raises the link
interrupt and, with AUTO, retrains; a burst of 2^16 corrected errors retrains; a flit that its resend mends counts once, for the link
and for the package, and one that fails again, a free choice, counts as a lasting error and raises its interrupt (R346).
It rests on the model's choices of log entry 47. -/
def Sys2Proof.Claim.LinkEvents : Prop :=
  (∀ (s : State) n, Selects s n →
    let x := s.link n
    (∃ t, exec .linkIrqClear s = .next t ∧ OnlyLink s t n { x with irq := false }) ∧
    (x.state = 5 → ∃ t, exec .linkReset s = .next t ∧
      OnlyLink s t n { x with state := 0, since := s.clk, width := 0, lost := [] }) ∧
    (x.state = 0 → ∃ t, exec .linkReset s = .next t ∧ OnlyLink s t n { x with state := 1, since := s.clk, width := 0 }) ∧
    (x.state ≠ 0 → x.state ≠ 5 → exec .linkReset s = .next s)) ∧
  (∀ (s : State) n, PolderLink n ∨ QuayLink n →
    let x := s.link n
    let full := if n < 1024 then 16 else 8
    let retrain : Link := { x with state := 4, since := s.clk, width := 0 }
    ((x.state = 2 ∨ x.state = 3) → ∃ t, exec (.linkRetrain n) s = .next t ∧ OnlyLink s t n retrain) ∧
    ((x.state ≠ 2 ∧ x.state ≠ 3) → exec (.linkRetrain n) s = .next s) ∧
    (NoWaiters s → (x.state = 1 ∨ x.state = 4) → x.lost = [] → x.width = 0 →
      ∃ t, exec (.trainingSuccess n full) s = .next t ∧ OnlyLink s t n { x with state := 2, since := s.clk, width := 0 }) ∧
    ((x.state = 2 ∨ x.state = 3) → 2 ^ 16 ≤ (x.recent.filter fun t => decide (s.clk ≤ t + 2 ^ 20)).length →
      ∃ t, exec (.correctedErrorBurst n) s = .next t ∧ OnlyLink s t n { retrain with recent := [] }) ∧
    ((2 ≤ x.state ∧ x.state ≤ 4) → ∃ t, exec (.flitRetry n) s = .next t ∧
      ((t.link n).corr.toNat = min (x.corr.toNat + 1) (2 ^ 32 - 1) ∧ s.clk ∈ (t.link n).recent ∧
        t.fw.corr.toNat = min (s.fw.corr.toNat + 1) (2 ^ 32 - 1) ∧ { t.fw with corr := s.fw.corr } = s.fw ∧
        OnlyLink { s with fw := t.fw, free := s.free + 1 } t n { x with corr := (t.link n).corr, recent := (t.link n).recent } ∨
       t.fw.last.toNat = min (s.fw.last.toNat + 1) (2 ^ 32 - 1) ∧ { t.fw with last := s.fw.last } = s.fw ∧
        t.irqs = s.irqs ++ [.uncorrectable] ∧ { t with fw := s.fw, irqs := s.irqs, free := s.free } = s)) ∧
    ∀ lane hgt wid, lane < full → hgt < 256 → wid < 256 →
      let eyes := aset 65535 x.eyes lane (256 * hgt + wid)
      let low := hgt < fieldOf x.thr.toNat 8 8 ∨ wid < fieldOf x.thr.toNat 0 8
      (¬low → ∃ t, exec (.marginInterrupt n lane hgt wid) s = .next t ∧ OnlyLink s t n { x with eyes := eyes }) ∧
      (low → x.auto = false → ∃ t, exec (.marginInterrupt n lane hgt wid) s = .next t ∧ t.irqs = s.irqs ++ [.link n] ∧
        t.link n = { x with eyes := eyes, irq := true }) ∧
      (low → x.auto = true → (x.state = 2 ∨ x.state = 3) → ∃ t, exec (.marginInterrupt n lane hgt wid) s = .next t ∧
        t.irqs = s.irqs ++ [.link n] ∧ t.link n = { retrain with eyes := eyes, irq := true })) ∧
  ∀ (s : State) n, PolderLink n →
    let x := s.link n
    (NoWaiters s → (x.state = 1 ∨ x.state = 4) → x.lost = [] → x.width = 0 → ∀ w, (w = 4 ∨ w = 2) →
      ∃ t, exec (.trainingSuccess n w) s = .next t ∧ OnlyLink s t n { x with state := 3, since := s.clk, width := w }) ∧
    (NoWaiters s → (x.state = 1 ∨ x.state = 4) → x.since + 250000 ≤ s.clk →
      ∃ t, exec (.trainingTimeout n) s = .next t ∧ OnlyLink s t n { x with state := 5, since := s.clk, width := 0 }) ∧
    (s.clk < x.since + 250000 → exec (.trainingTimeout n) s = .next s)

/-- R305, R306: REPAIR gives a quay link a spare for its lane of lowest margin, and retrains a polder link at the next lower
width; a failed lane of a quay link takes a spare, and without one fails the link; of a polder link at full width it leaves
the link DEGRADED at a lower width, or FAILED. It rests on the model's choices of log entry 47. -/
def Sys2Proof.Claim.LinkLanes : Prop :=
  (∀ (s : State) n, Selects s n → QuayLink n → (s.link n).state = 2 → (s.link n).lost = [] →
    ∃ t l, exec .linkRepair s = .next t ∧ l < 16 ∧ (∀ m, m < 16 → marginOf (s.link n) l ≤ marginOf (s.link n) m) ∧
      OnlyLink s t n { s.link n with lost := [l] }) ∧
  (∀ (s : State) n, Selects s n → PolderLink n → (s.link n).state = 2 → (s.link n).lost = [] → (s.link n).width = 0 →
    ∃ t, exec .linkRepair s = .next t ∧ OnlyLink s t n { s.link n with state := 4, since := s.clk, width := 4 }) ∧
  (∀ (s : State) n lane, QuayLink n → lane < 16 → (s.link n).state = 2 → (s.link n).lost = [] →
    ∃ t, exec (.laneFailure n lane) s = .next t ∧ t.link n = { s.link n with lost := [lane], fail := (t.link n).fail } ∧
      (s.link n).fail.toNat ≤ (t.link n).fail.toNat ∧ ∀ m, m ≠ n → t.link m = s.link m) ∧
  ∀ (s : State) n lane, PolderLink n → lane < 8 → (s.link n).state = 2 → (s.link n).lost = [] → (s.link n).width = 0 →
    ∃ t, exec (.laneFailure n lane) s = .next t ∧ (t.link n).lost = [lane] ∧
      (((t.link n).state = 3 ∧ ((t.link n).width = 4 ∨ (t.link n).width = 2)) ∨ (t.link n).state = 5) ∧
      ∀ m, m ≠ n → t.link m = s.link m

/-- Link commands, training, lanes and their failures. -/
def Obligations.LinksTrainAndFailOver : Prop := Sys2Proof.Claim.LinkEvents ∧ Sys2Proof.Claim.LinkLanes

/-! ### Remote accesses -/

namespace Sys2Proof.Machine

/-- A write or atomic of a core to a 128-byte line of memory is in flight. -/
def LineBusy (s : State) (core pa : Nat) : Prop :=
  ∃ y ∈ s.accesses, y.kind ≠ 0 ∧ y.core = core ∧ ∃ b, y.loc = .mem b ∧ b / 128 = pa / 128

/-- The access is the only one in flight, and its packet is sent, not held back behind another write to its line. -/
structure OneAccess (s : State) (a : Access) : Prop where
  one : s.accesses = [a]
  sent : a.queued = false

end Sys2Proof.Machine

/-- R299, R307, R310, R311, R313, R326: the life of a remote access. Its packet moves to the spillway channel once it has waited
the timer; a buffered line drains at its age, and waits while a write of its core to the line is unacknowledged; the response of
a store ends it, and that of a load brings its bytes; a path failure charges a store LINK with DETAIL 1, as one that finds no
polder link left; with no response within LINK TMO, or after a reset of its package, it is charged DETAIL 4 or 5, and so is the
fill of a probe slot from another package with DETAIL 4. While the polder links train, no packet moves, no timeout passes and
no response comes. It rests on the model's choices of log entries 15, 58 and 62. -/
def Obligations.RemoteAccessesEnd : Prop :=
  (∀ (s : State) a, OneAccess s a →
    let tmr := if fieldOf s.nt.fab.toNat 0 12 = 0 then 1024 else fieldOf s.nt.fab.toNat 0 12
    (s.allHold polderLinks = false → a.spill = false → a.sent + 4 * tmr ≤ s.clk →
      exec (.spillwayTimer a.id) s = .next { s with accesses := [{ a with spill := true }] }) ∧
    (s.clk < a.sent + 4 * tmr → exec (.spillwayTimer a.id) s = .next s) ∧
    (s.allHold polderLinks = true → exec (.spillwayTimer a.id) s = .next s ∧ exec (.linkTimeout a.id) s = .next s ∧
      ∀ ok bytes, exec (.remoteResponse a.id ok bytes) s = .next s)) ∧
  (∀ (s : State) (core : Fin 256) e k b f va, (s.core core.val).wc = [e] → e.bytes = [(k, some b)] → e.by_ = [(f, va)] →
    e.line % 128 = 0 → s.fw.keySlots.getLsbD (paKey e.line) = true →
    (e.born + max (fieldOf s.nt.fab.toNat 12 12) 64 ≤ s.clk →
      ∃ t, exec (.wcAgeDrain core 0) s = .next t ∧ (t.core core.val).wc = [] ∧ readByte t.mem (e.line + k) = b ∧
        (∀ a, a ≠ e.line + k → readByte t.mem a = readByte s.mem a) ∧
        ∃ x, t.accesses = s.accesses ++ [x] ∧ x.kind = 1 ∧ x.team = f.team ∧ x.group = f.group ∧ x.lane = f.lane ∧
          x.loc = .mem e.line ∧ x.sent = s.clk ∧ (x.queued = true ↔ LineBusy s core.val e.line)) ∧
    (s.clk < e.born + max (fieldOf s.nt.fab.toNat 12 12) 64 → exec (.wcAgeDrain core 0) s = .next s)) ∧
  (∀ (s : State) a bytes, OneAccess s a → s.msgs = [] → s.allHold polderLinks = false → s.polderCut = false → a.kind = 1 →
    exec (.remoteResponse a.id true bytes) s = .next { s with accesses := [] }) ∧
  (∀ (s : State) a t g ts bytes, OneAccess s a → s.allHold polderLinks = false → s.polderCut = false → a.kind = 0 →
    bytes.length = a.len → s.view (a.team, a.group, ts.id) = some (t, g, ts) →
    g.tsets = [ts] → ts.phase = .parked (.remote (a.id - a.part)) → (∀ c, (s.core c).wc = []) →
    ∃ s1 g1 ts1, exec (.remoteResponse a.id true bytes) s = .next s1 ∧ s1.accesses = [] ∧
      OnlyGroup { s with accesses := [] } s1 (a.team, a.group, ts.id) t g g1 ts1 ∧ { ts1 with got2 := ts.got2 } = ts ∧
      ∀ k (hk : k < bytes.length), overlay 0 ts1.got2 (farKey a.part k) = bytes[k]) ∧
  (∀ (s : State) a t, OneAccess s a → a.kind = 1 → a.undo = [] → s.msgs = [] → s.team? a.team = some t →
    let charged (d : Nat) (s1 : State) : Prop :=
      s1.accesses = [] ∧ s1.mem = s.mem ∧ s1.team? a.team = some { t with
        pend := t.pend ++ [⟨a.group, a.lanes, a.pc, { code := 15, lane := a.lane, detail := d }⟩] }
    (s.allHold polderLinks = false → ∀ ok bytes, (ok = false ∨ s.polderCut = true) →
      ∃ s1, exec (.remoteResponse a.id ok bytes) s = .next s1 ∧ charged 1 s1) ∧
    (s.allHold polderLinks = false → a.sent + fieldOf s.nt.fab.toNat 24 24 ≤ s.clk →
      ∃ s1, exec (.linkTimeout a.id) s = .next s1 ∧ charged 4 s1) ∧
    (s.clk < a.sent + fieldOf s.nt.fab.toNat 24 24 → exec (.linkTimeout a.id) s = .next s) ∧
    ∀ (pkg : Fin 128) pa, pkg.val ≠ s.pkg → a.loc = .mem pa → paPkg pa = pkg.val → s.cmds = [] → s.fills = [] →
      s.queues = [] → s.parkedJoin = false →
      ∃ s1, exec (.peerPackageReset pkg) s = .next s1 ∧ charged 5 s1) ∧
  ∀ (s : State) f p t, s.accesses = [] → s.cmds = [] → s.msgs = [] → s.queues = [] → s.fills = [f] → s.fillPkg f = some p → f.slot ≠ none →
    s.team? f.team = some t → s.allHold polderLinks = false → f.since + fieldOf s.nt.fab.toNat 24 24 ≤ s.clk →
    ∃ s1 t1, exec (.linkTimeout f.id) s = .next s1 ∧ s1.fills = [] ∧ s1.mem = s.mem ∧ s1.team? f.team = some t1 ∧
      t1.pend = t.pend ++ [⟨f.group, f.lanes, f.pc, { code := 15, lane := f.lane, addr := f.va, detail := 4 }⟩]

/-! ### The transport -/

namespace Sys2Proof.Machine

/-- The message is the only one, it has one packet, sent and not acknowledged, and no signal. -/
structure OneMessage (s : State) (m : Msg) (t : Team) : Prop where
  one : s.msgs = [m]
  packets : m.total = 1 ∧ m.posted = 1 ∧ m.acked = []
  sig : m.args.sig = none
  team : s.team? m.team = some t
  live : (s.ep m.args.ep).gen.toNat = m.args.gen

/-- The issuer of a message is charged NET with a DETAIL, and the message is over. -/
def NetCharged (s1 : State) (m : Msg) (t : Team) (d : Nat) : Prop :=
  s1.msgs = [] ∧ s1.team? m.team = some { t with
    pend := t.pend ++ [⟨m.group, m.lanes, m.pc, { code := 16, lane := m.lane, detail := d }⟩] }

end Sys2Proof.Machine

/-- R308, R316, R319, R320, R322, R325, R326: an endpoint is created READY inside the egress allowlist and DENIED outside it, under
its next generation, and one bound to a FAILED port moves to the other port of its die, or retries; its end, or MSG TMO without acknowledgement, fails its messages with NET 4 or 2; the last acknowledgement
completes a message; a refusal fails it with NET 3; an unacknowledged packet is sent again, its bytes as they were cut, RETX
times, and then the endpoint retries. It rests on the model's choices of log entry 49. -/
def Obligations.EndpointsAndMessages : Prop :=
  (∀ (s : State) (v : BitVec 64),
    let i := s.nt.epsel
    let e := s.ep i
    let inside := ∃ x ∈ s.nt.allow, x.2 ≤ 128 ∧
      (e.addr1.toNat * 2 ^ 64 + e.addr0.toNat) / 2 ^ (128 - x.2) = x.1 / 2 ^ (128 - x.2)
    let made (st : Nat) : Ep := { e with state := st, gen := e.gen + 1, err := 0, mark := 0, placed := [], held := [], sent := [], trips := [] }
    let other := 1536 + (if e.port % 2 = 0 then e.port + 1 else e.port - 1)
    (fieldOf v.toNat 4 2 = 1 → e.state = 0 → inside → s.portFailed e = false →
      exec (.endpointCreate v) s = .next (s.setEp i (made 1))) ∧
    (fieldOf v.toNat 4 2 = 1 → e.state = 0 → inside → s.portFailed e = true → s.msgs = [] →
      ∃ t, exec (.endpointCreate v) s = .next t ∧
        t.ep i = (if (s.link other).state = 2 then { made 1 with port := other - 1536 } else { made 2 with since := s.clk }) ∧
        (∀ j, j ≠ i → t.ep j = s.ep j) ∧ { t with eps := s.eps } = s) ∧
    (fieldOf v.toNat 4 2 = 1 → e.state = 0 → ¬inside → exec (.endpointCreate v) s = .next (s.setEp i (made 4))) ∧
    (e.state ≠ 0 → exec (.endpointCreate v) s = .next s) ∧
    (fieldOf v.toNat 4 2 = 2 → e.state ≠ 0 → s.msgs = [] →
      exec (.endpointDestroy v) s = .next (s.setEp i { e with state := 0 })) ∧
    (∀ m t, fieldOf v.toNat 4 2 = 2 → e.state ≠ 0 → OneMessage s m t → m.args.ep = i →
      ∃ s1, exec (.endpointDestroy v) s = .next s1 ∧ NetCharged s1 m t 4 ∧ s1.ep i = { e with state := 0, err := 4 })) ∧
  (∀ (s : State) (i : Fin 16384),
    let tmo := if fieldOf s.nt.pkt.toNat 5 27 = 0 then 2 ^ 27 - 1 else fieldOf s.nt.pkt.toNat 5 27
    ((s.ep i.val).state = 2 → (s.ep i.val).since + tmo ≤ s.clk → s.msgs = [] →
      exec (.messageTimeout i) s = .next (s.setEp i.val { s.ep i.val with state := 3 })) ∧
    (s.clk < (s.ep i.val).since + tmo → exec (.messageTimeout i) s = .next s) ∧
    ∀ m t, (s.ep i.val).state = 2 → (s.ep i.val).since + tmo ≤ s.clk → OneMessage s m t → m.args.ep = i.val →
      ∃ s1, exec (.messageTimeout i) s = .next s1 ∧ NetCharged s1 m t 2 ∧ (s1.ep i.val).state = 3) ∧
  ∀ (s : State) m t, OneMessage s m t → s.portHolds (s.ep m.args.ep) = false →
    let e := s.ep m.args.ep
    (∃ s1, exec (.packetAck m.id 0) s = .next s1 ∧ s1.msgs = [] ∧ s1.teams = s.teams ∧ s1.mem = s.mem ∧
      (s1.ep m.args.ep).state = if e.state = 2 then 1 else e.state) ∧
    (∃ s1, exec (.packetRefusal m.id 0) s = .next s1 ∧ NetCharged s1 m t 3 ∧ (s1.ep m.args.ep).err = 3) ∧
    ((e.state = 1 ∨ e.state = 2) → aget 0 m.retx 0 < fieldOf s.nt.pkt.toNat 32 8 →
      ∃ s1, exec (.retransmit m.id 0) s = .next s1 ∧ s1.msgs = [{ m with retx := aset 0 m.retx 0 (aget 0 m.retx 0 + 1) }] ∧
        s1.wires = s.wires ++ [.packet m.id 0 m.args.ep m.args.dst (m.data.take m.pay)] ∧ s1.teams = s.teams) ∧
    (e.state = 1 → fieldOf s.nt.pkt.toNat 32 8 ≤ aget 0 m.retx 0 →
      exec (.retransmit m.id 0) s = .next (s.setEp m.args.ep { e with state := 2, since := s.clk }))

namespace Sys2Proof.Machine

/-- The entry of the endpoint table is one that a packet from `src` for `job` matches (R376). -/
def EpMatches (src : BitVec 128) (job : BitVec 24) (x : Nat × Ep) : Prop :=
  (x.2.state = 1 ∨ x.2.state = 2) ∧ x.2.addr1 ++ x.2.addr0 = src ∧ x.2.job = job.toNat

end Sys2Proof.Machine

/-- R320, R376: a packet matches the endpoint that is READY or RETRYING, whose peer address is its source and whose JOB is its
own; with none it is refused. It is placed under the endpoint's context's translation and acknowledged; one already placed is
only acknowledged; one for a tile of scratch arrives there, and one for a barrier at it. One for a tile of another package of
the polder is forwarded, and acknowledged or refused as that package answers.
It rests on the model's choices of log entry 49. -/
def Obligations.PacketsArePlaced : Prop :=
  (∀ (s : State) id pre i e seqNo post ok bytes, (∀ a ∈ s.accesses, a.id ≠ id) → s.eps = pre ++ (i, e) :: post →
    (∀ x ∈ pre, x.1 ≠ i ∧ ∀ y ∈ x.2.sent, y.2 ≠ id) → e.sent = [(seqNo, id)] → s.allHold polderLinks = false →
    ∃ t, exec (.remoteResponse id ok bytes) s = .next t ∧ (t.ep i).sent = [] ∧ t.teams = s.teams ∧ t.mem = s.mem ∧
      ((ok = true ∧ s.polderCut = false) → t.wires = s.wires ++ [.ack i seqNo] ∧ seqNo ∈ (t.ep i).placed) ∧
      ((ok = false ∨ s.polderCut = true) → t.wires = s.wires ++ [.refuse i seqNo] ∧ (t.ep i).placed = e.placed)) ∧
  ∀ (s : State) src job seqNo (dst : BitVec 64) body,
    ((∀ x ∈ s.eps, ¬EpMatches src job x) → ∀ kind,
      exec (.packetPlacement ⟨src, job⟩ seqNo kind dst body) s = .next { s with wires := s.wires ++ [.refuse 16384 seqNo] }) ∧
    ∀ pre i e post, s.eps = pre ++ (i, e) :: post → (∀ x ∈ pre, ¬EpMatches src job x ∧ x.1 ≠ i) → EpMatches src job (i, e) →
      s.portHolds e = false →
      (e.placed.contains seqNo = true → ∀ kind,
        exec (.packetPlacement ⟨src, job⟩ seqNo kind dst body) s = .next { s with wires := s.wires ++ [.ack i seqNo] }) ∧
      (e.placed.contains seqNo = false → ∀ s0 pa, body ≠ [] →
        dst.toNat % 4096 + body.length ≤ 4096 → DevAt s e.ctx dst.toNat 1 s0 pa body.length → s0.hbmFailed pa body.length = false →
        ∃ t, exec (.packetPlacement ⟨src, job⟩ seqNo 0 dst body) s = .next t ∧ readBytes t.mem pa body.length = body ∧
          (∀ a, ¬Inside pa body.length a → ¬hotRing s a → readByte t.mem a = readByte s0.mem a) ∧
          t.wires = s.wires ++ [.ack i seqNo] ∧ (t.ep i).placed.contains seqNo = true) ∧
      (e.placed.contains seqNo = false → ∀ u off, s.teams = [u] → s.ctxOf u = e.ctx →
        vaClass dst.toNat = .aperture s.pkg u.handle off → off + body.length ≤ (s.kernelOf u).scratch →
        u.refuses off body.length = false → u.waits off body.length = false →
        ∃ t, exec (.packetPlacement ⟨src, job⟩ seqNo 1 dst body) s = .next t ∧ t.wires = s.wires ++ [.ack i seqNo] ∧
          t.teams = [u.deposit off body] ∧ t.mem = s.mem) ∧
      (e.placed.contains seqNo = false → (∀ x ∈ e.sent, x.1 ≠ seqNo) → ∀ p h off, vaClass dst.toNat = .aperture p h off → p ≠ s.pkg →
        p ∈ s.members → (s.ctx e.ctx).tag ≠ 0 →
        ∃ t, exec (.packetPlacement ⟨src, job⟩ seqNo 1 dst body) s = .next t ∧ t.wires = s.wires ++ [.scratch p h off body] ∧
          (t.ep i).sent = e.sent ++ [(seqNo, s.nextId)] ∧ (t.ep i).placed = e.placed ∧ t.teams = s.teams ∧ t.mem = s.mem) ∧
      (e.placed.contains seqNo = false → ∀ u, s.teams = [u] →
        u.handle = fieldOf dst.toNat 25 16 → s.ctxOf u = e.ctx →
        ∃ t, exec (.packetPlacement ⟨src, job⟩ seqNo 2 dst body) s = .next t ∧ t.wires = s.wires ++ [.ack i seqNo] ∧
          t.teams = (s.arriveBar u.id (fieldOf dst.toNat 0 4)).teams ∧ t.mem = s.mem)

/-! ### The debugger and the profiler -/

namespace Sys2Proof.Machine

/-- The one team of the package, of the debugger's context, with one group and one thread set. -/
structure OneSet (s : State) (t : Team) (g : Group) (ts : TSet) : Prop where
  team : s.teams = [t]
  group : t.groups = [g]
  set : g.tsets = [ts]
  ctx : s.ctxOf t = fieldOf s.dbg.ctl.toNat 10 6
  here : t.out = none

/-- The debugger selects group `g` of team `t` (R338). -/
def SelectsGroup (s : State) (t : Team) (g : Group) : Prop :=
  ∃ l, s.launch? t.launch = some l ∧ l.num.toNat = fieldOf s.dbg.selg.toNat 0 32 ∧ l.ctx = fieldOf s.dbg.ctl.toNat 10 6 ∧
    t.index = fieldOf s.dbg.sel.toNat 32 32 ∧ g.index = fieldOf s.dbg.sel.toNat 24 8

end Sys2Proof.Machine

/-- R327 to R331, R335, R338: `DBG_CTL` attaches; `DBG_TXT` sets or clears the DBG bit of a word of a kernel; `DBG_VAL` reads a
register of a stopped group, or 0, and a write of it waits for the resumption, which performs it; CONTINUE and
CONTINUE_GROUP resume a stopped set, STEP marks it to stop again, at its next boundary once a run of it has committed, and STOP stops a set that stands at one;
HEAD of the debug ring advances. It rests on the model's choices of log entries 35, 38 and 61. -/
def Sys2Proof.Claim.DebugCommands : Prop :=
  (∀ (s : State) (v : BitVec 64), exec (.debugAttach v) s = .next { s with dbg := { s.dbg with ctl := v &&& 0xFF03 } }) ∧
  (∀ (s : State) (v : BitVec 64) slot k,
    let h := fieldOf v.toNat 32 32
    let word := fieldOf v.toNat 4 28
    let ctx := fieldOf h 26 6
    s.handleKernel ctx h = some (slot, k) →
    (fieldOf v.toNat 2 2 = 1 → word < k.text.length →
      ∃ t k1, exec (.dbgSet v) s = .next t ∧ (t.kslot ctx slot).kernel = some k1 ∧ { k1 with dbg := k.dbg } = k ∧
        (∀ i, k1.dbg.contains i = true ↔ i = word ∨ k.dbg.contains i = true) ∧ t.dbg = { s.dbg with txtRes := 0 } ∧
        t.teams = s.teams ∧ t.mem = s.mem) ∧
    (fieldOf v.toNat 2 2 = 2 → word < k.text.length →
      ∃ t k1, exec (.dbgClear v) s = .next t ∧ (t.kslot ctx slot).kernel = some k1 ∧ { k1 with dbg := k.dbg } = k ∧
        (∀ i, k1.dbg.contains i = true ↔ i ≠ word ∧ k.dbg.contains i = true) ∧ t.dbg = { s.dbg with txtRes := 0 } ∧
        t.teams = s.teams ∧ t.mem = s.mem) ∧
    (fieldOf v.toNat 2 2 = 1 → k.text.length ≤ word →
      exec (.dbgSet v) s = .next { s with dbg := { s.dbg with txtRes := 2 } })) ∧
  (∀ (s : State) t g ts n, OneSet s t g ts → SelectsGroup s t g →
    Opd.ofBits (BitVec.ofNat 20 (fieldOf s.dbg.selg.toNat 32 20)) = some (.v n) →
    let lane := fieldOf s.dbg.sel.toNat 19 5
    (ts.stop = true → exec .debugRegisterRead s =
      .next { s with dbg := { s.dbg with val := aget marker g.v (laneKey n.toNat lane) } }) ∧
    (ts.stop = false → exec .debugRegisterRead s = .next { s with dbg := { s.dbg with val := 0 } }) ∧
    (ts.stop = false → ∀ v, exec (.debugRegisterWrite v) s = .next s) ∧
    (ts.stop = true → s.dbg.waiting = [] → s.dbg.edits = [] → ts.phase = .ready → ∀ v,
      ∃ s1 s2 t2 g2 ts2, exec (.debugRegisterWrite v) s = .next s1 ∧ s1.teams = s.teams ∧ exec .continueGroup s1 = .next s2 ∧
        s2.view (t.id, g.index, ts.id) = some (t2, g2, ts2) ∧ ts2.stop = false ∧
        aget marker g2.v (laneKey n.toNat lane) = v ∧
        ∀ j, j ≠ laneKey n.toNat lane → aget marker g2.v j = aget marker g.v j)) ∧
  (∀ (s : State) t g ts i, OneSet s t g ts → SelectsGroup s t g →
    Opd.ofBits (BitVec.ofNat 20 (fieldOf s.dbg.selg.toNat 32 20)) = some (.nx i) → ts.stop = true → ts.held = [] →
    exec .debugRegisterRead s = .next { s with dbg := { s.dbg with
      val := BitVec.ofNat 64 (nx (t.nest (s.tcore t g.index)).shadow i.val) } }) ∧
  (∀ (s : State) t g ts, OneSet s t g ts → s.dbg.waiting = [] → s.dbg.edits = [] → ts.stop = true → ts.phase = .ready →
    let after (next : Nat) (s1 : State) : Prop :=
      ∃ t1 g1, s1.view (t.id, g.index, ts.id) =
          some (t1, g1, { ts with stop := false, stopNext := next, resumed := some ts.pc, readyAt := s.clk }) ∧
        g1.v = g.v ∧ g1.p = g.p ∧ s1.mem = s.mem
    (∃ s1, exec .continueAll s = .next s1 ∧ after 0 s1) ∧
    (SelectsGroup s t g → ∃ s1, exec .continueGroup s = .next s1 ∧ after 0 s1) ∧
    (SelectsGroup s t g → ts.committed = true → ∃ s1, exec .stepRun s = .next s1 ∧ after 10 s1) ∧
    (SelectsGroup s t g → ts.committed = false → ∃ s1, exec .stepRun s = .next s1 ∧ after stepMark s1)) ∧
  (∀ (s : State) t g ts, OneSet s t g ts → ts.stop = false → ts.phase = .ready →
    (ts.fresh = true → ∃ s1 t1 g1, exec .stopAll s = .next s1 ∧
      s1.view (t.id, g.index, ts.id) = some (t1, g1, { ts with stop := true, stopNext := 0 }) ∧ g1.v = g.v) ∧
    (ts.fresh = false → ∃ s1 t1 g1, exec .stopAll s = .next s1 ∧
      s1.view (t.id, g.index, ts.id) = some (t1, g1, { ts with stopNext := 10 }) ∧ g1.v = g.v)) ∧
  ∀ (s : State) (v : BitVec 64), s.dbg.waiting = [] →
    (BitVec.ofNat 32 (v.toNat / 2 ^ 32) - s.dbg.head).toNat ≤ (s.dbg.tail - s.dbg.head).toNat →
    exec (.dbgSptrHeadWrite v) s = .next { s with dbg := { s.dbg with head := BitVec.ofNat 32 (v.toNat / 2 ^ 32) } }

/-- R332 to R335: every PERIOD ac, 256 at least, a core takes a sample of the attached context: for a set that waits on a tile,
a record of class 3 in the next slot of the ring. Before the period has passed, or with samples off, nothing happens.
It rests on the model's choices of log entries 38 and 63. -/
def Sys2Proof.Claim.Samples : Prop :=
  ∀ s : State,
    let period := max (fieldOf s.dbg.smp.toNat 8 24) 256
    ((s.dbg.smp.getLsbD 0 = false ∨ s.clk < s.dbg.last + period) → exec .samplePeriod s = .next s) ∧
    (s.dbg.smp.getLsbD 0 = true → s.dbg.last + period ≤ s.clk → s.dbg.ctl.getLsbD 0 = false →
      exec .samplePeriod s = .next { s with dbg := { s.dbg with last := s.clk } }) ∧
    (s.dbg.smp.getLsbD 0 = true → s.dbg.last + period ≤ s.clk → s.dbg.ctl.getLsbD 0 = true → ∀ t g ts n, OneSet s t g ts →
      t.resident = true → g.slotAt = 0 → ts.phase = .parked .tile → (∀ l ∈ s.launches, l.phase ≠ 0) →
      fieldOf s.dbg.sring.toNat 0 5 = n → 4 ≤ n → n ≤ 20 → (s.dbg.tail - s.dbg.head).toNat < 2 ^ n →
      let at_ := fieldOf s.dbg.sring.toNat 12 44 * 4096 + 32 * (s.dbg.tail.toNat % 2 ^ n)
      s.shut at_ = false →
      ∃ s1, exec .samplePeriod s = .next s1 ∧ s1.dbg.tail = s.dbg.tail + 1 ∧ s1.dbg.last = s.clk ∧
        readBytes s1.mem at_ 32 = leBytes 32 (s.setRec t g ts 3) ∧
        (∀ a, ¬Inside at_ 32 a → readByte s1.mem a = readByte s.mem a) ∧ s1.teams = s.teams)

/-- The debugger and the profiler. -/
def Obligations.DebugCommandsAndSamplesComplete : Prop := Sys2Proof.Claim.DebugCommands ∧ Sys2Proof.Claim.Samples

/-! ### Firmware, errors and power -/

namespace Sys2Proof.Machine

/-- An image passes (R341): it has the length that its header gives, both signatures over the header and its bytes verify, both public
keys have the fused digests, and its VER is at the floor or above. The three standards are tables of the state (log entry 7). -/
def ImagePasses (f : Fw) (i : Image) : Prop :=
  let message := leBytes 8 i.ver ++ leBytes 8 i.len ++ i.bytes
  let digest (key : List Byte) : Option (List Byte) := (f.verifier.sha.find? fun x => x.1 == key).map (·.2)
  i.bytes.length = i.len ∧ (i.rsaKey, message, i.rsaSig) ∈ f.verifier.rsa ∧ (i.slhKey, message, i.slhSig) ∈ f.verifier.slh ∧
    digest i.rsaKey = some f.rsaFuse ∧ digest i.slhKey = some f.slhFuse ∧ f.floor ≤ i.ver

/-- The images of a slot pass (R341): all four do, as the slot's bytes in flash give them. -/
def SlotPasses (f : Fw) (slot : Nat) : Prop :=
  (if slot = 0 then f.slotA else f.slotB).length = 4 ∧
    ∀ m ∈ (if slot = 0 then f.slotA else f.slotB), ImagePasses f (imageAt (aget 0 m)).1

end Sys2Proof.Machine

/-- R6, R305, R325, R340 to R342, R344, R372: a package reset leaves every register at its reset value but those of the floor,
the flash, the fuses and what the monitor fixes, every link in TRAINING, no byte of this package's memory, and other packages' memory as it
was (which memory is lost is the model's reading, log entry 2). It boots from the slot that the one valid marker names when
that passes, else from the other, else RECOVERY; where a slot passes, its monitor fixes the windows, the places that it keeps for itself
and for the translator, in whole pages, and the egress allowlist, which the model leaves open (log entry 7). Where a die is at 110 °C a shutdown
leaves the module off. It rests on the model's choices of log entries 2, 7 and 50. -/
def Sys2Proof.Claim.PackageResets : Prop :=
  ∀ s : State,
    (∃ t, exec .packageReset s = .next t ∧
      { t with pkg := 0, members := [0], mem := [], links := [], nt := {}, fw := {}, wires := [], nextId := 1, inputs := [],
               picks := [], free := 0 } = State.reset ∧
      t.pkg = s.pkg ∧ t.members = s.members ∧
      (t.fw.state = 1 → t.nt = { allow := Config.allowlist, rates := t.nt.rates } ∧ (∀ p, p < 8 → aget 0 t.nt.rates p = Config.portRate p) ∧
        ∀ k, k < 8 → aget 0 t.fw.win k = windowOf (Config.window k)) ∧
      (t.fw.state = 1 → t.fw.monitor = Config.monitorMemory.map wholePages ∧ t.fw.sealed = Config.translatorMemory.map wholePages ∧
        t.fw.areaLen = (Config.areaBytes + 4095) / 4096 * 4096) ∧
      (t.fw.state ≠ 1 → t.nt = {} ∧ t.fw.win = [] ∧ t.fw.monitor = [] ∧ t.fw.sealed = []) ∧
      (t.links = allLinks.map fun n => (n, { state := 1 })) ∧
      (∀ a, paPkg a = s.pkg → readByte t.mem a = 0) ∧ (∀ a, paPkg a ≠ s.pkg → readByte t.mem a = readByte s.mem a) ∧
      t.fw.floor = s.fw.floor ∧ t.fw.slotA = s.fw.slotA ∧ t.fw.slotB = s.fw.slotB ∧ t.fw.marker0 = s.fw.marker0 ∧
      t.fw.marker1 = s.fw.marker1 ∧ t.fw.rsaFuse = s.fw.rsaFuse ∧ t.fw.slhFuse = s.fw.slhFuse ∧ t.fw.verifier = s.fw.verifier ∧
      t.fw.frozen = [] ∧ t.fw.keySlots = 0 ∧
      ∀ slot, slot < 2 →
        ((markerOk s.fw.marker0 = true ∧ markerOk s.fw.marker1 = false ∧ markerSlot s.fw.marker0 = slot) ∨
          (markerOk s.fw.marker0 = false ∧ markerOk s.fw.marker1 = true ∧ markerSlot s.fw.marker1 = slot) ∨
          (markerOk s.fw.marker0 = false ∧ markerOk s.fw.marker1 = false ∧ slot = 0)) →
        (SlotPasses s.fw slot → t.fw.state = 1 ∧ t.fw.slot = slot ∧ t.fw.fallback = false ∧ t.fw.running = s.fw.images slot) ∧
        (¬SlotPasses s.fw slot → SlotPasses s.fw (1 - slot) →
          t.fw.state = 1 ∧ t.fw.slot = 1 - slot ∧ t.fw.fallback = true ∧ t.fw.running = s.fw.images (1 - slot)) ∧
        (¬SlotPasses s.fw slot → ¬SlotPasses s.fw (1 - slot) → t.fw.state = 2 ∧ t.fw.slot = slot)) ∧
    ((∀ d, d < 20 → aget 25 s.pwr.temps d < 110) → exec .thermalShutdown s = .next s) ∧
    ∀ d, d < 20 → 110 ≤ aget 25 s.pwr.temps d → ∃ t, exec .thermalShutdown s = .next t ∧ t.pwr.off = true ∧ t.teams = [] ∧ t.ctxs = [] ∧ t.launches = [] ∧
      (∀ a, paPkg a = s.pkg → readByte t.mem a = 0) ∧ ∀ a, paPkg a ≠ s.pkg → readByte t.mem a = readByte s.mem a

/-- R67, R341, R343, R345, R350: a live update that was asked for verifies the images in the update area, and gives 3 and goes no
further where they do not pass. Where they do, taking stops, then the table of preserved state is written, and then the images
take over, with every frozen master restarted, or refuse (4); either way the `CXQ_` writes that were held meanwhile are the next
inputs, in their order. The floor rises to the least version of the running slot and never falls; a key is created in a free slot
and destroyed in a held one, where its bytes read 0. It rests on the model's choices of log entries 2, 7 and 50. -/
def Sys2Proof.Claim.FirmwareAndKeys : Prop :=
  ∀ s : State,
    let f := s.fw
    let passes := ∀ i ∈ s.areaImages, ImagePasses f i
    let done (status : Nat) : Fw := { f with updS := status, phase := 0, staged := [], heldWrites := [] }
    let served (t : State) : Prop :=
      t.inputs = f.heldWrites.map (fun i => (⟨0, i⟩ : Input)) ++ s.inputs ∧ t.mem = s.mem ∧ t.teams = s.teams
    (f.updS ≠ 1 → exec .liveUpdate s = .next s) ∧
    (f.state = 1 → f.updS = 1 → f.phase = 0 → ¬passes → exec .liveUpdate s = .next { s with fw := { f with updS := 3 } }) ∧
    (f.state = 1 → f.updS = 1 → f.phase = 0 → passes →
      exec .liveUpdate s = .next { s with fw := { f with phase := 1, staged := s.areaImages } }) ∧
    (f.state = 1 → f.updS = 1 → f.phase = 1 →
      exec .liveUpdate s = .next { s with fw := { f with phase := 2, kept := some s.preserved } }) ∧
    (f.state = 1 → f.updS = 1 → f.phase = 2 → NoWaiters s → s.queues = [] →
      (f.accepts = false → ∃ t, exec .liveUpdate s = .next t ∧ t.fw = done 4 ∧ served t) ∧
      (f.accepts = true → ∃ t, exec .liveUpdate s = .next t ∧ t.fw = { done 2 with frozen := [], running := f.staged } ∧
        served t)) ∧
    (∀ a b c d, f.state = 1 → (if f.slot = 0 then f.slotA else f.slotB) = [a, b, c, d] →
      let ver (m : AMap Byte) : Nat := leNat ((List.range 8).map (aget 0 m))
      exec .raiseFloor s = .next { s with fw := { f with
        floor := max f.floor (min (min (min (ver a) (ver b)) (ver c)) (ver d)) } }) ∧
    ∀ v : BitVec 64,
      let k := fieldOf v.toNat 8 6
      (fieldOf v.toNat 0 2 = 1 → f.keySlots.getLsbD k = false →
        ∃ t, exec (.keyCreate v) s = .next t ∧ t.fw.keyS = 1 ∧
          (∀ i, i < 64 → t.fw.keySlots.getLsbD i = (f.keySlots.getLsbD i || decide (i = k))) ∧ { t with fw := f } = s) ∧
      (fieldOf v.toNat 0 2 = 1 → f.keySlots.getLsbD k = true →
        exec (.keyCreate v) s = .next { s with fw := { f with keyS := 2 } }) ∧
      (fieldOf v.toNat 0 2 = 2 → f.keySlots.getLsbD k = false →
        exec (.keyDestroy v) s = .next { s with fw := { f with keyS := 2 } }) ∧
      (fieldOf v.toNat 0 2 = 2 → f.keySlots.getLsbD k = true →
        ∃ t, exec (.keyDestroy v) s = .next t ∧ t.fw.keyS = 1 ∧
          (∀ i, i < 64 → t.fw.keySlots.getLsbD i = (f.keySlots.getLsbD i && decide (i ≠ k))) ∧
          (∀ a, paPkg a = s.pkg → paKey a = k → readByte t.mem a = 0) ∧
          (∀ a, ¬(paPkg a = s.pkg ∧ paKey a = k) → readByte t.mem a = readByte s.mem a) ∧ { t with fw := f, mem := s.mem } = s)

/-- Resets, boot, updates and keys. -/
def Obligations.ResetFirmwareAndKeysComplete : Prop := Sys2Proof.Claim.PackageResets ∧ Sys2Proof.Claim.FirmwareAndKeys

/-- R17, R225, R344 to R348, R351: a master that breaks a bound is frozen, and the monitor records it; a transient correctable
error counts in CORR and a lasting one in LAST, an SRAM error holds its core for 12 ac and a lasting one marks its bank, or reports its
frame of memory; an
uncorrectable one is reported, with its frame, and stays with its byte; a line lost on its way back is reported to its key's context; a bank
that is retired is listed OFFLINE. It rests on the model's choices of log entry 51. -/
def Obligations.ErrorsAreContained : Prop :=
  ∀ s : State,
    (∀ m (cause : Fin 5) (addr : BitVec 64), (m < 7 ∨ (16 ≤ m ∧ m < 256)) → s.fw.frozen.contains m = false →
      let pa := fieldOf addr.toNat 0 56
      let covers (w : BitVec 64) : Prop := 12 ≤ fieldOf w.toNat 56 8 ∧ fieldOf w.toNat 56 8 ≤ 50 ∧ w.getLsbD 0 = true ∧
        fieldOf w.toNat 12 38 * 4096 / 2 ^ fieldOf w.toNat 56 8 = pa % 2 ^ 50 / 2 ^ fieldOf w.toNat 56 8
      let inSome (rs : List (Nat × Nat)) : Prop := ∃ r ∈ rs, r.1 ≤ pa % 2 ^ 43 ∧ pa % 2 ^ 43 < r.1 + r.2
      (cause.val = 2 ∨ cause.val = 4 ∨ (cause.val = 3 ∧ (paXcache pa = true ∨ inSome s.fw.sealed)) ∨
        (cause.val = 1 ∧ m < 7 ∧ (paXcache pa = true ∨ inSome s.fw.sealed ∨ inSome s.fw.monitor ∨
          inSome [(fieldOf s.fw.upd.toNat 12 31 * 4096, s.fw.areaLen)] ∨ ∀ k, k < 8 → ¬covers (aget 0 s.fw.win k)))) →
      ∃ t, exec (.freezeMaster m cause addr) s = .next t ∧ t.fw.frozen.contains m = true ∧
        t.fw.frz = BitVec.ofNat 64 (m * 2 ^ 56 + pa) ∧ t.fw.frzc = cause.val ∧
        t.irqs = s.irqs ++ [.freeze] ∧ t.mem = s.mem ∧ t.teams = s.teams) ∧
    (∀ (core : Fin 256) (kind : Fin 4) (bank : Fin 32) (addr : BitVec 64), (kind.val = 3 → s.paHole (fieldOf addr.toNat 0 56) = false) →
      ∃ t, exec (.correctableError ⟨core, kind, bank, addr⟩) s = .next t ∧ t.mem = s.mem ∧ t.teams = s.teams ∧
      ((kind.val = 0 ∨ kind.val = 2) → (t.core core.val).frozen = s.clk + 12) ∧
      ((kind.val = 1 ∨ kind.val = 3) → t.cores = s.cores) ∧
      (kind.val < 2 → t.fw.corr.toNat = min (s.fw.corr.toNat + 1) (2 ^ 32 - 1) ∧ t.fw.last = s.fw.last ∧ t.irqs = s.irqs) ∧
      (2 ≤ kind.val → t.fw.last.toNat = min (s.fw.last.toNat + 1) (2 ^ 32 - 1) ∧ t.fw.corr = s.fw.corr) ∧
      (kind.val = 2 → (t.core core.val).offline.contains bank.val = true ∧ t.irqs = s.irqs ++ [.uncorrectable]) ∧
      (kind.val = 3 → t.irqs = s.irqs ++ [.uncorrectable, .frame (fieldOf addr.toNat 12 44)])) ∧
    (∀ core : Fin 256,
      ((s.core core.val).frozen ≠ 0 → (s.core core.val).frozen ≤ s.clk →
        exec (.eccFreezeEnd core) s = .next (s.setCore core.val { s.core core.val with frozen := 0 })) ∧
      (s.clk < (s.core core.val).frozen → exec (.eccFreezeEnd core) s = .next s)) ∧
    (∀ addr : BitVec 64, addr.getLsbD 63 = false → s.paHole (fieldOf addr.toNat 0 56) = false →
      ∃ t, exec (.uncorrectableError addr) s = .next t ∧ t.locBad (.mem (fieldOf addr.toNat 0 56)) 1 = true ∧
        t.fw.last.toNat = min (s.fw.last.toNat + 1) (2 ^ 32 - 1) ∧
        t.irqs = s.irqs ++ [.uncorrectable, .frame (fieldOf addr.toNat 12 44)] ∧ t.mem = s.mem) ∧
    (∀ (ctx : Fin 64) (addr : BitVec 64), s.keyOwner (paKey (fieldOf addr.toNat 0 56 / 128 * 128)) = some ctx.val →
      s.paHole (fieldOf addr.toNat 0 56 / 128 * 128) = false →
      ∃ t, exec (.writebackDataError ctx addr) s = .next t ∧ t.irqs = s.irqs ++ [.uncorrectable] ∧
        (t.ctx ctx.val).fwait = (s.ctx ctx.val).fwait ++
          [⟨0, 0, 0, 0, 0, ctx.val, { code := 8, addr := fieldOf addr.toNat 0 56 / 128 * 128, detail := 1 }, [], 0⟩] ∧
        ∀ a, ¬Inside (fieldOf addr.toNat 0 56 / 128 * 128) 128 a → readByte t.mem a = readByte s.mem a) ∧
    ∀ (core : Fin 256) (bank : Fin 32),
      exec (.bankRetire core bank) s =
        .next (s.setCore core.val { s.core core.val with offline := sinsert bank.val (s.core core.val).offline })

/-- R371 to R373: a die that has been above 95 °C for 2 ms lowers its clock by 100 MHz, and one below 90 °C for 2 ms raises it, between
300 and 600 MHz and 2 ms apart; at 105 °C a compute die's clock stops, and below 95 °C it runs again; the quay dies are not stopped.
A cap lies between 1,500 W and 3,600 W, and while the module's power exceeds it the clock that it sets falls, a step each 2 ms
(log entry 52). A monitor read gives the sensors' values, as they now are, and every die's clock.
It rests on the model's choices of log entries 8 and 52. -/
def Obligations.ClocksAndPowerComplete : Prop :=
  ∀ s : State,
    (∀ die : Fin 20,
      let f := aget 600 s.pwr.step die.val
      let temp := aget 25 s.pwr.temps die.val
      let passed (since : Nat) : Prop := since + 1200000 ≤ s.clk + 1 ∧ aget 0 s.pwr.since die.val + 1200000 ≤ s.clk + 1
      let step (mhz : Nat) : State := { s with pwr := { s.pwr with
        step := aset 600 s.pwr.step die.val mhz, since := aset 0 s.pwr.since die.val (s.clk + 1) } }
      (95 < temp → passed (aget 0 s.pwr.hotAt die.val) → 300 < f → exec (.thermalStepDown die) s = .next (step (f - 100))) ∧
      ((temp ≤ 95 ∨ ¬passed (aget 0 s.pwr.hotAt die.val) ∨ f ≤ 300) → exec (.thermalStepDown die) s = .next s) ∧
      (temp < 90 → passed (aget 0 s.pwr.coolAt die.val) → f < 600 → exec (.thermalStepUp die) s = .next (step (f + 100))) ∧
      ((90 ≤ temp ∨ ¬passed (aget 0 s.pwr.coolAt die.val) ∨ 600 ≤ f) → exec (.thermalStepUp die) s = .next s) ∧
      (105 ≤ temp → die.val < 16 → s.pwr.stopped.contains die.val = false → ∃ t, exec (.clockStop die) s = .next t ∧
        (∀ d, t.pwr.stopped.contains d = true ↔ d = die.val ∨ s.pwr.stopped.contains d = true) ∧
        { t with pwr := { t.pwr with stopped := s.pwr.stopped } } = { s with pwr := { s.pwr with
          stopAt := aset 0 s.pwr.stopAt die.val (s.clk + 1) } }) ∧
      ((temp < 105 ∨ 16 ≤ die.val ∨ s.pwr.stopped.contains die.val = true) → exec (.clockStop die) s = .next s) ∧
      (temp < 95 → s.pwr.stopped.contains die.val = true → ∃ t, exec (.clockResume die) s = .next t ∧
        (∀ d, t.pwr.stopped.contains d = true ↔ d ≠ die.val ∧ s.pwr.stopped.contains d = true) ∧
        { t with pwr := { t.pwr with stopped := s.pwr.stopped } } = { s with pwr := { s.pwr with
          stopAt := aset 0 s.pwr.stopAt die.val 0 } }) ∧
      ((95 ≤ temp ∨ s.pwr.stopped.contains die.val = false) → exec (.clockResume die) s = .next s)) ∧
    (∀ w, 1500 ≤ w → w ≤ 3600 → exec (.powerCapSet w) s = .next { s with pwr := { s.pwr with
      cap := w, capClock := 600, overAt := if w < s.pwr.rails.sum then s.clk + 1 else 0 } }) ∧
    (∀ w, (w < 1500 ∨ 3600 < w) → exec (.powerCapSet w) s = .next s) ∧
    (s.pwr.cap < s.pwr.rails.sum → s.pwr.overAt ≤ s.clk + 1 → 300 < s.pwr.capClock →
      exec .powerCapClockStep s = .next { s with pwr := { s.pwr with
        capClock := s.pwr.capClock - 100, overAt := s.clk + 1 + 1200000 } }) ∧
    ((s.pwr.rails.sum ≤ s.pwr.cap ∨ s.clk + 1 < s.pwr.overAt ∨ s.pwr.capClock ≤ 300) → exec .powerCapClockStep s = .next s) ∧
    ∀ rails temps inlet flow, rails.length = 5 → temps.length = 20 →
      ∃ t, exec (.pldmMonitorRead (rails ++ temps ++ [inlet, flow])) s = .next t ∧ { t with pwr := s.pwr } = s ∧
        t.pwr.rails = rails ∧ (∀ d, d < 20 → aget 25 t.pwr.temps d = temps.getD d 0) ∧
        t.pwr.reading = rails ++ temps ++ ((List.range 20).map fun d =>
          if s.clockStopped d then 0 else min (aget 600 s.pwr.step d) s.pwr.capClock) ++ [inlet, flow]

namespace Sys2Proof.Machine

/-- Registers that a write sets whatever the state, with the fields of each that are RW (R6). -/
def plainRegs : List (RegId × RegName × BitVec 64) :=
  [(.cxqCsel, .cxqCsel, 0x3F), (.cxqQsel, .cxqQsel, 0x3FF), (.cxqKlen, .cxqKlen, 0xFFFFFFFF),
   (.cxqKdiag, .cxqKdiag, 0x01FFFFFFFFFFFFE0), (.cxqKpbuf, .cxqKpbuf, 0x01FFFFFFFFFFFF00), (.cxqQuant, .cxqQuant, 0xFFFFFFFF),
   (.pgCthr, .pgCthr, 0xFFFFFFFF), (.lkSel, .lkSel, 0x3FFFF), (.ntEpsel, .ntEpsel, 0x3FFF), (.ntPkt, .ntPkt, 0xFFFFFFFFFF),
   (.ntFab, .ntFab, 0xFFFFFFFFFFFF), (.dbgSel, .dbgSel, 0xFFFFFFFFFFFF0000), (.dbgSelg, .dbgSelg, 0xFFFFFFFFFFFFF)] ++
  (List.finRange 4).flatMap fun k =>
    [(.pgMsrc k, .pgMsrc k, 0x00FFFFFFFFFFF000), (.pgMdst k, .pgMdst k, 0x00FFFFFFFFFFF000),
     (.pgMpte k, .pgMpte k, 0x00FFFFFFFFFFFFF8)]

/-- The value that an AMO of RISC-V leaves in memory, of the old value and the operand, both of `w` bits. -/
def amoSays (op w old x : Nat) : Nat :=
  match op with
  | 2 => x
  | 3 => old + x
  | 4 => old ^^^ x
  | 5 => old &&& x
  | 6 => old ||| x
  | 7 => if (BitVec.ofNat w old).toInt ≤ (BitVec.ofNat w x).toInt then old else x
  | 8 => if (BitVec.ofNat w old).toInt ≤ (BitVec.ofNat w x).toInt then x else old
  | 9 => min old x
  | _ => max old x

end Sys2Proof.Machine

/-- R6, R10, R70 to R72, R85, R103, R198, R206, R351: every register write completes and touches no team; memory changes only where
a ring's new register frees slots for what waits. A read of a plain register then gives the value's RW fields, and zero for its
other bits; a context's or queue's register takes a write only while that is FREE or DISABLED; `FW_ID` reads PART 0x16 and REV
1, and registers of WO fields alone read zero. It rests on the model's choices of log entries 54 and 63. -/
def Obligations.RegisterWritesComplete : Prop :=
  (∀ (s : State) reg (v : BitVec 64), ∃ t, exec (.registerWrite reg v) s = .next t ∧ t.teams = s.teams ∧
    t.launches = s.launches ∧ (reg ≠ .pgFq → reg ≠ .dbgSring → t.mem = s.mem ∧ t.irqs = s.irqs)) ∧
  (∀ (s : State) (v : BitVec 64), ∀ x ∈ plainRegs,
    ∃ t, exec (.registerWrite x.1 v) s = .next t ∧ t.readRegister x.2.1 = v &&& x.2.2) ∧
  (∀ (s : State) (v : BitVec 64),
    let c := s.ctx s.cxq.csel
    let x := s.queue s.cxq.qsel
    (c.state = 0 → exec (.registerWrite .cxqCkeys v) s = .next (s.setCtx s.cxq.csel { c with keys := v }) ∧
      exec (.registerWrite .cxqCtag v) s = .next (s.setCtx s.cxq.csel { c with tag := v.extractLsb' 0 16 }) ∧
      exec (.registerWrite .cxqCswlen v) s = .next (s.setCtx s.cxq.csel { c with swlen := v &&& 0xFFFFFFFF })) ∧
    (c.state ≠ 0 → exec (.registerWrite .cxqCkeys v) s = .next s ∧ exec (.registerWrite .cxqCfring v) s = .next s ∧
      exec (.registerWrite .cxqCtag v) s = .next s ∧ exec (.registerWrite .cxqCswlen v) s = .next s) ∧
    (x.state = 0 → exec (.registerWrite .cxqQring v) s =
      .next (s.setQueue s.cxq.qsel { x with ring := v &&& 0x01FFFFFFFFFFF01F })) ∧
    (s.preqs = [] → exec (.registerWrite .pgFq v) s = .next { s with pg := { s.pg with fq := v &&& 0x00FFFFFFFFFFF01F } }) ∧
    (∀ r n, s.preqs = [r] → r.written = false → fieldOf v.toNat 0 5 = n → 4 ≤ n → n ≤ 16 →
      (s.pg.fqt - s.pg.fqh).toNat < 2 ^ n →
      let at_ := fieldOf v.toNat 12 44 * 4096 + 32 * (s.pg.fqt.toNat % 2 ^ n)
      s.shut at_ = false →
      ∃ t, exec (.registerWrite .pgFq v) s = .next t ∧ readBytes t.mem at_ 32 = r.bytes ∧ t.irqs = s.irqs ++ [.page] ∧
        t.preqs = [{ r with written := true }] ∧ ∀ a, ¬Inside at_ 32 a → readByte t.mem a = readByte s.mem a) ∧
    (s.dbg.waiting = [] → exec (.registerWrite .dbgSring v) s =
      .next { s with dbg := { s.dbg with sring := v &&& 0x00FFFFFFFFFFF01F } }) ∧
    (fieldOf v.toNat 0 2 = 1 → ∃ t, exec (.registerWrite .fwUpd v) s = .next t ∧ t.fw.updS = 1)) ∧
  ∀ s : State, s.readRegister .fwId = 0x1601 ∧ s.readRegister .cxqCancel = 0 ∧ s.readRegister .cxqKunld = 0 ∧
    s.readRegister .pgFres = 0 ∧ s.readRegister .dbgCmd = 0

namespace Sys2Proof.Machine

/-- The leaf of a hart's five-level walk, when it reaches one: the entries read at each level, which can be read, lead from the root to
an entry with a leaf permission, which lets the access in the hart's mode (R16, R195). -/
def HartLeaf (s : State) (w : HartWalk) (va : Nat) (store : Bool) (level leaf : Nat) : Prop :=
  ∃ base : Nat → Nat, base 4 = w.root.toNat * 4096 ∧
    let at_ (k : Nat) : Nat := base k + 8 * fieldOf va (12 + 9 * k) 9
    let entry (k : Nat) : Nat := s.entryAt (at_ k)
    level ≤ 4 ∧ entry level = leaf ∧ (∀ k, level ≤ k → k ≤ 4 → s.entryStop 1024 (at_ k) = none) ∧
    (∀ k, level < k → k ≤ 4 → entry k % 16 = 1 ∧ pteReserved (entry k) = false ∧ (entry k).testBit 63 = false ∧
      base (k - 1) = fieldOf (entry k) 10 44 * 4096) ∧
    leaf.testBit 0 = true ∧ leaf.testBit 6 = true ∧ pteMalformed leaf level = false ∧
    (w.user = true → leaf.testBit 4 = true) ∧ (w.user = false → leaf.testBit 4 = true → w.sum = true) ∧
    (leaf.testBit 1 = true ∨ (store = false ∧ w.mxr = true ∧ leaf.testBit 3 = true)) ∧
    (store = true → leaf.testBit 2 = true ∧ leaf.testBit 7 = true)

end Sys2Proof.Machine

/-- R16, R17, R200, R301 to R303, R305, R308, R343 to R345, R348: every access of a system core's hart completes, by physical address
or through the hart's own page tables, which give the place that its leaf maps, of each page that it touches. A store writes its bytes there and nothing else; a
load returns them; an AMO returns them and writes what RISC-V gives for it. One of lost bytes does neither. A hart that accesses
the translation cache or the translator's memory is frozen and its access not performed; a frozen hart issues none; one to a
hole, or under a key slot that holds no key, is not performed, and one over a link in training is not performed yet (log entry
53). It rests on the model's choices of log entries 30 and 53. -/
def Obligations.SystemCoreAccessesComplete : Prop :=
  (∀ (s : State) place size op v, ∃ t, exec (.systemCoreAccess place size op v) s = .next t ∧ t.teams = s.teams ∧
    t.launches = s.launches) ∧
  (∀ (s : State) (hart : Fin 240) (addr v : BitVec 64) w size op level leaf, op ≤ 10 →
    HartLeaf s w addr.toNat (op != 0) level leaf → (addr.toNat / 2 ^ 56 = 0 ∨ addr.toNat / 2 ^ 56 = 255) →
    addr.toNat % 4096 + size ≤ 4096 →
    exec (.systemCoreAccess ⟨hart, addr, some w⟩ size op v) s =
      exec (.systemCoreAccess ⟨hart, BitVec.ofNat 64 (leafPage leaf level addr.toNat + addr.toNat % 4096), none⟩ size op v) s) ∧
  (∀ (s : State) (hart : Fin 240) (addr : BitVec 64) w size store l1 p1 l2 p2,
    let n := 4096 - addr.toNat % 4096
    n < size → size ≤ 8 → HartLeaf s w addr.toNat store l1 p1 → HartLeaf s w (addr.toNat + n) store l2 p2 →
    addr.toNat / 2 ^ 56 = 0 → (addr.toNat + n) / 2 ^ 56 = 0 →
    s.hartPlace ⟨hart, addr, some w⟩ store size =
      some [(leafPage p1 l1 addr.toNat + addr.toNat % 4096, n), (leafPage p2 l2 (addr.toNat + n), size - n)]) ∧
  ∀ (s : State) (hart : Fin 240) (addr v : BitVec 64) size, (size = 1 ∨ size = 2 ∨ size = 4 ∨ size = 8) →
    let pa := fieldOf addr.toNat 0 56
    let go (op : Nat) : Res := exec (.systemCoreAccess ⟨hart, addr, none⟩ size op v) s
    (s.fw.frozen.contains (16 + hart.val) = true → ∀ op, go op = .next s) ∧
    (s.paHole pa = true → s.inArea pa = false → ∀ op, go op = .next s) ∧
    (s.fw.frozen.contains (16 + hart.val) = false → s.inArea pa = false → s.paHole pa = false → s.paHole (pa + size - 1) = false →
      (s.sealed pa = true → ∀ op, op ≤ 1 → ∃ t, go op = .next t ∧ t.mem = s.mem ∧
        t.fw.frozen.contains (16 + hart.val) = true ∧ t.fw.frz = BitVec.ofNat 64 ((16 + hart.val) * 2 ^ 56 + pa) ∧
        t.fw.frzc = 3 ∧ t.irqs = s.irqs ++ [.freeze]) ∧
      (s.sealed pa = false → s.sealed (pa + size - 1) = false →
        (s.fw.keySlots.getLsbD (paKey pa) = false → ∀ op, go op = .next s) ∧
        (s.linkHeld 1024 pa size = true → ∀ op, go op = .next s) ∧
        (s.locBad (.mem pa) size = true → ∀ op, op ≠ 1 → go op = .next s) ∧
        (s.fw.keySlots.getLsbD (paKey pa) = true → s.links = [] →
          let reads := aset 0 s.harts hart.val (BitVec.ofNat 64 (leNat (readBytes s.mem pa size)))
          let done (op new : Nat) (harts : AMap (BitVec 64)) : Prop :=
            ∃ t, go op = .next t ∧ readBytes t.mem pa size = leBytes size new ∧
              (∀ a, ¬Inside pa size a → readByte t.mem a = readByte s.mem a) ∧ t.fw = s.fw ∧ t.harts = harts
          done 1 v.toNat s.harts ∧
          (s.locBad (.mem pa) size = false →
            go 0 = .next { s with harts := reads } ∧
            ∀ op, 2 ≤ op → op ≤ 10 → 4 ≤ size → pa % size = 0 →
              done op (amoSays op (8 * size) (leNat (readBytes s.mem pa size)) (v.toNat % 2 ^ (8 * size))) reads))))

/-! ### Encoding, the step, and what every step keeps -/

namespace Sys2Proof

/-- A format-R word whose every field is zero (R43, R44). -/
def blankR : RWord :=
  { dbg := false, typ := .i8, mod := 0, grd := 0, dst := .v 0, sa := .v 0, sb := .v 0, sc := .v 0, aux := 0 }
/-- A format-I word whose every field is zero (R43, R44). -/
def blankI : IWord :=
  { dbg := false, typ := .i8, mod := 0, grd := 0, dst := .v 0, sa := .v 0, sb := .v 0, imm := 0, aux6 := 0 }
/-- A trailer whose every field is zero (R53). -/
def blankT : TWord := { dbg := false, await := 0, grd := 0, conv := false, reg := .v 0, tgt := 0 }

end Sys2Proof

/-- R42 to R47, R53, R54, R58: decoding the word of a well-formed instruction or trailer gives it back, with every field at
every value that its card admits. -/
def Obligations.DecodeUndoesEncode : Prop :=
  ∀ i w, WellFormed i → encode i = some w → decode w = .ok i

/-- R42 to R47, R53, R54, R58: a word that decodes is the word of what it decodes to, which is well formed: no bit of it is
dropped, and no two words stand for one instruction. -/
def Obligations.EncodeUndoesDecode : Prop :=
  ∀ w i, decode w = .ok i → WellFormed i ∧ encode i = some w

/-- Words written out in the specification's examples decode to the instructions that they stand for, one of every class and
a trailer (R42 to R46, R53, R58). -/
def Obligations.DecodesSpecWords : Prop :=
  decode 0x00082000000040000700004000000000 =
    .ok (.add { blankR with typ := .i32, dst := .v 1, sa := .v 1, sb := .imm 1 }) ∧
  decode 0x0094208204004000070000C000000000 =
    .ok (.cmp { blankR with typ := .i32, mod := 2, dst := .p 1, sa := .v 1, sb := .imm 3 }) ∧
  decode 0x107100000001C00004000080001800B8 =
    .ok (.qcvt { blankR with typ := .md8, dst := .v 7, sa := .v 1, sb := .v 2, sc := .v 6, aux := 0xB8 }) ∧
  decode 0x2000B000000040000C00000000000200 =
    .ok (.ld { blankI with typ := .b64, dst := .v 1, sa := .v 3, imm := 8 }) ∧
  decode 0x3010A0C0000140001300006080000000 =
    .ok (.shfl { blankR with typ := .b32, mod := 3, dst := .v 5, sa := .v 4, sb := .imm 1, sc := .ls 0 }) ∧
  decode 0x48040000000000000220024000000100 = .ok (.mxseti { blankI with sb := .nx 9, imm := 4 }) ∧
  decode 0x5418000000002100060C00B0000C0000 = .ok (.barm { blankR with sa := .b 1, sb := .s 2, sc := .imm 3 }) ∧
  decode 0x720000100000000000000000FFFFFFFE = .ok (.brc { blankT with grd := 1, tgt := 0xFFFFFFFE })

/-- R42, R44, R46, R53, R54, R58, R59: reserved encodings decode to no instruction: the class 0b110, trailer kinds 9 to 15,
opcodes that their class does not list, reserved types and reserved operand kinds. A word that is no trailer and that does
not decode is issued as an illegal word. -/
def Obligations.ReservedEncodingsAreRefused : Prop :=
  ∀ w : Word,
    let cls := (w.extractLsb' 124 3).toNat
    let opc := (w.extractLsb' 114 10).toNat
    (cls = 6 → decode w = .error .reservedClass) ∧
    (cls = 7 → 9 ≤ (w.extractLsb' 120 4).toNat → decode w = .error .malformedTrailer) ∧
    (cls = 7 → (w.extractLsb' 32 46 ≠ 0 ∨ w.getLsbD 99 = true) → decode w = .error .malformedTrailer) ∧
    (cls = 0 → 0x2D ≤ opc → decode w = .error .unassignedOpcode) ∧
    (cls = 1 → 0x20 ≤ opc → decode w = .error .unassignedOpcode) ∧
    (cls = 2 → 0x0E ≤ opc → decode w = .error .unassignedOpcode) ∧
    (cls = 3 → 0x0D ≤ opc → decode w = .error .unassignedOpcode) ∧
    (cls < 6 → Typ.ofCode (w.extractLsb' 108 6).toNat = none → ∃ e, decode w = .error e) ∧
    (cls < 6 → (w.extractLsb' 96 2 = 2 ∧ 9 ≤ (w.extractLsb' 90 6).toNat ∧ (w.extractLsb' 90 6).toNat ≤ 62) →
      ∃ e, decode w = .error e) ∧
    ∀ e, cls ≠ 7 → decode w = .error e → decodeRun w = .illegalWord w

namespace Sys2Proof.Machine

/-- The firmware runs, no input is due and no timer changes anything. -/
structure Quietly (s : State) : Prop where
  runs : s.fw.state = 1
  power : s.pwr.off = false
  inputs : dueInput s.inputs = none
  timers : s.timers.find? (s.changes exec) = none

end Sys2Proof.Machine

/-- R42, R53, R59, R128: when a core issues, the step executes the instruction or trailer that the word at the set's PC
decodes to, or the illegal word that it is, in the state in which the set has taken its slot and is the current one. Before it only
the clock, the accounts of launches, the ages of inputs and what issuing counts in the sets and cores have changed: no memory, no
register, no PC. An event that is due, or that happens of itself, is executed likewise; a write of a `CXQ_` register is held while
a live update goes on; and a package that has not booted resets (which of several moves is made is the model's schedule).
It rests on the model's choices of log entries 12 and 53. -/
def Obligations.StepRunsTheDecodedInstruction : Prop :=
  ∀ s : State,
    let a := s.tick
    (s.fw.state = 0 → s.pwr.off = false → step s = exec .packageReset a) ∧
    (∀ i rest, s.fw.state = 1 → s.pwr.off = false → dueInput a.inputs = some (i, rest) →
      ((s.fw.phase = 0 ∨ Sys2Proof.Machine.Instr.cxqWrite i = false) → step s = exec i { a with inputs := rest }) ∧
      (s.fw.phase ≠ 0 → Sys2Proof.Machine.Instr.cxqWrite i = true →
        step s = .next { a with inputs := rest, fw := { s.fw with heldWrites := s.fw.heldWrites ++ [i] } })) ∧
    (∀ i, s.fw.state = 1 → s.pwr.off = false → dueInput a.inputs = none → a.timers.find? (a.changes exec) = some i →
      step s = exec i a) ∧
    (∀ i rest, Quietly a → a.choice exec = (some (.event i), rest) → step s = exec i { a with picks := rest }) ∧
    ∀ c core new rest t g ts w, Quietly a → a.choice exec = (some (.word c core new), rest) →
      a.view c = some (t, g, ts) → a.dbgHit t g ts = false → (a.kernelOf t).text[ts.pc]? = some w →
      let b := ({ a with picks := rest } : State).giveSlot c core new
      b.cur = some c ∧ b.clk = s.clk + 1 ∧
        { b with clk := s.clk, launches := s.launches, teams := s.teams, inputs := s.inputs, cur := s.cur, issue := s.issue
                 free := s.free, picks := s.picks } = s ∧
        (∃ t1 g1 ts1, b.view c = some (t1, g1, ts1) ∧ ts1.pc = ts.pc ∧ ts1.lanes = ts.lanes ∧ ts1.held = ts.held ∧
          g1.v = g.v ∧ g1.g = g.g ∧ g1.p = g.p ∧ g1.ls = g.ls ∧ g1.sig = g.sig ∧ g1.fflg = g.fflg) ∧
        (∀ i, decode w = .ok i → step s = exec i b) ∧
        ∀ e, isTrailerWord w = false → decode w = .error e → step s = exec (.illegalWord w) b

/-- Memory stays in its canonical form: addresses strictly rising, and no byte listed that equals what an unlisted byte
reads as (an invariant of the model's own representation of memory). It rests on the model's choices of log entry 2. -/
def Obligations.EveryStepKeepsMemoryCanonical : Prop :=
  ∀ s s1 : State, s.mem.wf = true → step s = .next s1 → s1.mem.wf = true

/-- R70, R85, R316: reset leaves memory in its canonical form, every context FREE, every queue DISABLED, every endpoint INVALID, and no launch, team, walk or message; the first step boots the package.
It rests on the model's choices of log entries 6 and 7. -/
def Obligations.ResetStateIsIdle : Prop :=
  State.reset.mem.wf = true ∧ (∀ n, (State.reset.ctx n).state = 0) ∧ (∀ n, (State.reset.queue n).state = 0) ∧
    (∀ n, (State.reset.ep n).state = 0) ∧ State.reset.launches = [] ∧ State.reset.teams = [] ∧ State.reset.walks = [] ∧
    State.reset.msgs = [] ∧ step State.reset = exec .packageReset State.reset.tick
end

