-- ==== Sys2Proof/Laws/Sparse.lean ====
section
/-!
SUPPORT. Laws of sparse tables: a key that was set reads as its value, every other key reads as before, and the canonical
form is kept.
-/
namespace Sys2Proof.Machine

variable {α : Type}

theorem aget_adel (d : α) (m : AMap α) (i j : Nat) : aget d (adel m i) j = if j = i then d else aget d m j := by
  induction m with
  | nil => simp [adel, aget]
  | cons e m ih =>
    obtain ⟨k, v⟩ := e
    unfold adel at ih ⊢
    by_cases hk : k = i
    · subst hk
      simp only [List.filter_cons, bne_self_eq_false, Bool.false_eq_true, if_false, ih, aget]
      split <;> simp_all
    · simp only [List.filter_cons, bne_iff_ne, ne_eq, hk, not_false_eq_true, if_true, aget, ih]
      by_cases hj : j = k
      · simp [hj, hk]
      · simp [hj]

variable [DecidableEq α]

/-- A table reads the value set at its key, and every other key as before. -/
theorem aget_aset (d : α) (m : AMap α) (i : Nat) (x : α) (j : Nat) :
    aget d (aset d m i x) j = if j = i then x else aget d m j := by
  induction m with
  | nil => by_cases hx : x = d <;> by_cases hj : j = i <;> simp [aset, aget, hx, hj]
  | cons e m ih =>
    obtain ⟨k, v⟩ := e
    unfold aset
    by_cases hk : i = k
    · subst hk
      by_cases hx : x = d <;> by_cases hj : j = i <;> simp [aget, aget_adel, hx, hj]
    · by_cases hl : i < k
      · by_cases hx : x = d <;> by_cases hj : j = i <;> by_cases hjk : j = k <;>
          simp_all [aget, aget_adel]
      · by_cases hjk : j = k
        · subst hjk; simp [hk, hl, aget, Ne.symm hk]
        · simp [hk, hl, aget, hjk, ih]

@[simp] theorem aget_aset_same (d : α) (m : AMap α) (i : Nat) (x : α) : aget d (aset d m i x) i = x := by
  simp [aget_aset]

theorem aget_aset_ne (d : α) (m : AMap α) {i j : Nat} (x : α) (h : j ≠ i) :
    aget d (aset d m i x) j = aget d m j := by
  simp [aget_aset, h]

/-! ### The canonical form -/

/-- Keys above a lower bound are above every smaller one. -/
theorem awfFrom_mono (d : α) {b : Nat} {lo : Option Nat} {m : AMap α} (hlo : ∀ c, lo = some c → c ≤ b)
    (h : awfFrom d (some b) m = true) : awfFrom d lo m = true := by
  cases m with
  | nil => simp [awfFrom]
  | cons e m =>
    obtain ⟨k, v⟩ := e
    simp only [awfFrom, Bool.and_eq_true, decide_eq_true_eq] at h ⊢
    refine ⟨⟨?_, h.1.2⟩, h.2⟩
    cases lo with
    | none => rfl
    | some c => have := hlo c rfl; simp only [decide_eq_true_eq]; omega

theorem awfFrom_filter (d : α) (p : Nat × α → Bool) (lo : Option Nat) (m : AMap α)
    (h : awfFrom d lo m = true) : awfFrom d lo (m.filter p) = true := by
  induction m generalizing lo with
  | nil => simp [awfFrom]
  | cons e m ih =>
    obtain ⟨k, v⟩ := e
    simp only [awfFrom, Bool.and_eq_true, decide_eq_true_eq] at h
    rw [List.filter_cons]
    split
    · simp only [awfFrom, Bool.and_eq_true, decide_eq_true_eq]
      exact ⟨h.1, ih _ h.2⟩
    · refine ih lo (awfFrom_mono d (b := k) ?_ h.2)
      intro c hc
      subst hc
      have := h.1.1
      simp only [decide_eq_true_eq] at this
      omega

theorem awf_akeep (d : α) (p : Nat → Bool) (m : AMap α) (h : awf d m = true) : awf d (akeep p m) = true :=
  awfFrom_filter d _ none m h

theorem awf_above (i : Nat) : ∀ lo : Option Nat, (∀ b, lo = some b → b < i) →
    (match lo with | none => true | some b => decide (b < i)) = true
  | none, _ => rfl
  | some b, h => by simpa using h b rfl

theorem awfFrom_aset (d : α) (lo : Option Nat) (m : AMap α) (i : Nat) (x : α)
    (hi : ∀ b, lo = some b → b < i) (h : awfFrom d lo m = true) : awfFrom d lo (aset d m i x) = true := by
  induction m generalizing lo with
  | nil =>
    unfold aset
    split
    · simp [awfFrom]
    · cases lo with
      | none => simp_all [awfFrom]
      | some b => have := hi b rfl; simp_all [awfFrom]
  | cons e m ih =>
    obtain ⟨k, v⟩ := e
    have h0 := h
    simp only [awfFrom, Bool.and_eq_true, decide_eq_true_eq] at h
    have hdel (c : Option Nat) (hc : ∀ b, c = some b → b ≤ k) : awfFrom d c (adel m i) = true :=
      awfFrom_filter d _ c m (awfFrom_mono d hc h.2)
    unfold aset
    by_cases hk : i = k
    · subst hk
      rw [if_pos rfl]
      split
      · exact hdel lo fun b hb => by have := hi b hb; omega
      · simp only [awfFrom, Bool.and_eq_true, decide_eq_true_eq]
        exact ⟨⟨awf_above i lo hi, ‹_›⟩, hdel (some i) fun b hb => by simp_all⟩
    · rw [if_neg hk]
      by_cases hl : i < k
      · rw [if_pos hl]
        split
        · simp only [awfFrom, Bool.and_eq_true, decide_eq_true_eq]
          exact ⟨h.1, hdel (some k) fun b hb => by simp_all⟩
        · simp only [awfFrom, Bool.and_eq_true, decide_eq_true_eq]
          exact ⟨⟨awf_above i lo hi, ‹_›⟩, ⟨by simpa using hl, h.1.2⟩, hdel (some k) fun b hb => by simp_all⟩
      · rw [if_neg hl]
        simp only [awfFrom, Bool.and_eq_true, decide_eq_true_eq]
        exact ⟨h.1, ih (some k) (fun b hb => by simp_all; omega) h.2⟩

/-- Setting a key keeps the canonical form. -/
theorem awf_aset (d : α) (m : AMap α) (i : Nat) (x : α) (h : awf d m = true) : awf d (aset d m i x) = true :=
  awfFrom_aset d none m i x (fun _ hb => by simp at hb) h

end Sys2Proof.Machine
end

