-- ==== Sys2Proof/Laws/Memory.lean ====
section
/-!
SUPPORT. Laws of memory: a byte that was written reads as written, every other byte reads as before, and every operation
that writes memory keeps its canonical form.
-/
namespace Sys2Proof.Machine

/-! ### Bytes -/

theorem readByte_writeByte (m : Memory) (a : Nat) (b : Byte) (x : Nat) :
    readByte (writeByte m a b) x = if x = a then b else readByte m x := aget_aset memDefault m a b x

@[simp] theorem readByte_writeByte_same (m : Memory) (a : Nat) (b : Byte) : readByte (writeByte m a b) a = b := by
  simp [readByte_writeByte]

theorem readByte_writeByte_ne (m : Memory) {a x : Nat} (b : Byte) (h : x ≠ a) :
    readByte (writeByte m a b) x = readByte m x := by
  simp [readByte_writeByte, h]

/-- Bytes written from `a` read as written; outside them memory reads as before. -/
theorem readByte_writeBytes (bs : List Byte) (m : Memory) (a x : Nat) :
    readByte (writeBytes m a bs) x = if a ≤ x ∧ x < a + bs.length then bs.getD (x - a) 0 else readByte m x := by
  induction bs generalizing m a with
  | nil => simp [writeBytes]
  | cons b bs ih =>
    rw [writeBytes, ih]
    by_cases hx : x = a
    · subst hx; simp
    · by_cases hin : a + 1 ≤ x ∧ x < a + 1 + bs.length
      · have h1 : a ≤ x ∧ x < a + (b :: bs).length := by simp only [List.length_cons]; omega
        have h2 : x - a = (x - (a + 1)) + 1 := by omega
        simp only [hin, and_self, if_true, h1, h2, List.getD_cons_succ]
      · have h1 : ¬(a ≤ x ∧ x < a + (b :: bs).length) := by simp only [List.length_cons]; omega
        simp only [hin, h1, if_false, readByte_writeByte_ne m b hx]

@[simp] theorem readBytes_length (m : Memory) (a n : Nat) : (readBytes m a n).length = n := by simp [readBytes]
@[simp] theorem leBytes_length (n v : Nat) : (leBytes n v).length = n := by simp [leBytes]

/-- What was written is what is read. -/
theorem readBytes_writeBytes (m : Memory) (a : Nat) (bs : List Byte) : readBytes (writeBytes m a bs) a bs.length = bs := by
  apply List.ext_getElem
  · simp
  · intro k h1 h2
    simp only [readBytes, List.getElem_map, List.getElem_range, readByte_writeBytes]
    have : a ≤ a + k ∧ a + k < a + bs.length := by omega
    simp [this, h2]

/-! ### The canonical form -/

theorem wf_writeByte (m : Memory) (a : Nat) (b : Byte) (h : m.wf = true) : (writeByte m a b).wf = true :=
  awf_aset memDefault m a b h

theorem wf_writeBytes (bs : List Byte) (m : Memory) (a : Nat) (h : m.wf = true) : (writeBytes m a bs).wf = true := by
  induction bs generalizing m a with
  | nil => exact h
  | cons b bs ih => exact ih _ _ (wf_writeByte m a b h)

theorem wf_poke (s : State) (pa : Nat) (bs : List Byte) (h : s.mem.wf = true) : (s.poke pa bs).mem.wf = true :=
  wf_writeBytes bs s.mem pa h

theorem wf_putNat (s : State) (pa n v : Nat) (h : s.mem.wf = true) : (s.putNat pa n v).mem.wf = true := wf_poke s pa _ h

theorem wf_foldl_writeByte {β : Type} (f : β → Nat × Byte) (l : List β) (m : Memory) (h : m.wf = true) :
    Memory.wf (l.foldl (fun m e => writeByte m (f e).1 (f e).2) m) = true := by
  induction l generalizing m with
  | nil => exact h
  | cons e l ih => exact ih _ (wf_writeByte m _ _ h)

theorem wf_destroyKey (s : State) (k : Nat) (h : s.mem.wf = true) : (s.destroyKey k).mem.wf = true :=
  awf_akeep memDefault (fun a => !(paPkg a == s.pkg && paKey a == k)) s.mem h

theorem wf_moveRange (m : Memory) (src dst n : Nat) (h : m.wf = true) : (moveRange m src dst n).wf = true :=
  wf_foldl_writeByte (fun e : Nat × Byte => (dst + (e.1 - src), e.2)) _ _ (awf_akeep memDefault _ m h)

theorem wf_mixRange (m : Memory) (draw src dst n : Nat) (h : m.wf = true) : (mixRange m draw src dst n).wf = true :=
  wf_foldl_writeByte
    (fun k : Nat => (dst + k, choose (Config.freePick draw k) 0 [readByte m (dst + k), readByte m (src + k)])) _ m h

/-! ### Writes at an address of the package -/

theorem readByte_poke (s : State) (pa : Nat) (bs : List Byte) (x : Nat) :
    readByte (s.poke pa bs).mem x = if pa ≤ x ∧ x < pa + bs.length then bs.getD (x - pa) 0 else readByte s.mem x :=
  readByte_writeBytes bs s.mem pa x

theorem readBytes_poke (s : State) (pa : Nat) (bs : List Byte) : readBytes (s.poke pa bs).mem pa bs.length = bs :=
  readBytes_writeBytes s.mem pa bs

theorem readBytes_putNat (s : State) (pa n v : Nat) : readBytes (s.putNat pa n v).mem pa n = leBytes n v := by
  have h := readBytes_poke s pa (leBytes n v)
  rwa [leBytes_length] at h

end Sys2Proof.Machine
end

