-- ==== Sys2Proof/Laws/PerInstr.lean ====
section
/-!
SUPPORT. What is said of every instruction, one lemma for each: the word that the encoder gives an instruction carries the
class and opcode, or the trailer kind, under which the decoder finds that instruction.
-/
namespace Sys2Proof.Laws.Encoding

open Sys2Proof

/-- The word of an instruction carries its fields under the class and opcode, or trailer kind, that the decoder's tables give
to it. -/
def Statement (i : Instr) : Prop :=
  ∀ w, encode i = some w →
    (∃ (c : BitVec 3) (o : BitVec 10) (mk : RWord → Instr) (x : RWord),
      c ≠ 7 ∧ formOf c.toNat o.toNat = .ok (.r mk) ∧ i = mk x ∧ w = packR c o x) ∨
    (∃ (c : BitVec 3) (o : BitVec 10) (mk : IWord → Instr) (x : IWord),
      c ≠ 7 ∧ formOf c.toNat o.toNat = .ok (.i mk) ∧ i = mk x ∧ w = packI c o x) ∨
    ∃ (k : BitVec 4) (mk : TWord → Instr) (x : TWord), trailerOf k.toNat = some mk ∧ i = mk x ∧ w = packT k x

/-- A format-R word. -/
theorem ofR {i : Instr} (c : BitVec 3) (o : BitVec 10) (mk : RWord → Instr) (x : RWord) (hc : c ≠ 7)
    (hf : formOf c.toNat o.toNat = .ok (.r mk)) (hi : i = mk x) (he : encode i = some (packR c o x)) : Statement i :=
  fun _ h => .inl ⟨c, o, mk, x, hc, hf, hi, Option.some.inj (h.symm.trans he)⟩

/-- A format-I word. -/
theorem ofI {i : Instr} (c : BitVec 3) (o : BitVec 10) (mk : IWord → Instr) (x : IWord) (hc : c ≠ 7)
    (hf : formOf c.toNat o.toNat = .ok (.i mk)) (hi : i = mk x) (he : encode i = some (packI c o x)) : Statement i :=
  fun _ h => .inr (.inl ⟨c, o, mk, x, hc, hf, hi, Option.some.inj (h.symm.trans he)⟩)

/-- A trailer. -/
theorem ofT {i : Instr} (k : BitVec 4) (mk : TWord → Instr) (x : TWord) (hf : trailerOf k.toNat = some mk) (hi : i = mk x)
    (he : encode i = some (packT k x)) : Statement i :=
  fun _ h => .inr (.inr ⟨k, mk, x, hf, hi, Option.some.inj (h.symm.trans he)⟩)

/-- An instruction without a word. -/
theorem ofNone {i : Instr} (h : encode i = none) : Statement i := fun w hw => by rw [h] at hw; cases hw

theorem mov (x : RWord) : Statement (.mov x) := ofR 0 0x000 .mov x (by decide) rfl rfl rfl
theorem movi (x : IWord) : Statement (.movi x) := ofI 0 0x001 .movi x (by decide) rfl rfl rfl
theorem add (x : RWord) : Statement (.add x) := ofR 0 0x002 .add x (by decide) rfl rfl rfl
theorem sub (x : RWord) : Statement (.sub x) := ofR 0 0x003 .sub x (by decide) rfl rfl rfl
theorem neg (x : RWord) : Statement (.neg x) := ofR 0 0x004 .neg x (by decide) rfl rfl rfl
theorem abs (x : RWord) : Statement (.abs x) := ofR 0 0x005 .abs x (by decide) rfl rfl rfl
theorem min (x : RWord) : Statement (.min x) := ofR 0 0x006 .min x (by decide) rfl rfl rfl
theorem max (x : RWord) : Statement (.max x) := ofR 0 0x007 .max x (by decide) rfl rfl rfl
theorem mul (x : RWord) : Statement (.mul x) := ofR 0 0x008 .mul x (by decide) rfl rfl rfl
theorem mulhi (x : RWord) : Statement (.mulhi x) := ofR 0 0x009 .mulhi x (by decide) rfl rfl rfl
theorem mad (x : RWord) : Statement (.mad x) := ofR 0 0x00A .mad x (by decide) rfl rfl rfl
theorem madw (x : RWord) : Statement (.madw x) := ofR 0 0x00B .madw x (by decide) rfl rfl rfl
theorem div (x : RWord) : Statement (.div x) := ofR 0 0x00C .div x (by decide) rfl rfl rfl
theorem rem (x : RWord) : Statement (.rem x) := ofR 0 0x00D .rem x (by decide) rfl rfl rfl
theorem sad (x : RWord) : Statement (.sad x) := ofR 0 0x00E .sad x (by decide) rfl rfl rfl
theorem dot4 (x : RWord) : Statement (.dot4 x) := ofR 0 0x00F .dot4 x (by decide) rfl rfl rfl
theorem and (x : RWord) : Statement (.and x) := ofR 0 0x010 .and x (by decide) rfl rfl rfl
theorem or (x : RWord) : Statement (.or x) := ofR 0 0x011 .or x (by decide) rfl rfl rfl
theorem xor (x : RWord) : Statement (.xor x) := ofR 0 0x012 .xor x (by decide) rfl rfl rfl
theorem not (x : RWord) : Statement (.not x) := ofR 0 0x013 .not x (by decide) rfl rfl rfl
theorem andn (x : RWord) : Statement (.andn x) := ofR 0 0x014 .andn x (by decide) rfl rfl rfl
theorem shl (x : RWord) : Statement (.shl x) := ofR 0 0x015 .shl x (by decide) rfl rfl rfl
theorem shr (x : RWord) : Statement (.shr x) := ofR 0 0x016 .shr x (by decide) rfl rfl rfl
theorem sar (x : RWord) : Statement (.sar x) := ofR 0 0x017 .sar x (by decide) rfl rfl rfl
theorem rot (x : RWord) : Statement (.rot x) := ofR 0 0x018 .rot x (by decide) rfl rfl rfl
theorem bfx (x : RWord) : Statement (.bfx x) := ofR 0 0x019 .bfx x (by decide) rfl rfl rfl
theorem bfi (x : RWord) : Statement (.bfi x) := ofR 0 0x01A .bfi x (by decide) rfl rfl rfl
theorem popc (x : RWord) : Statement (.popc x) := ofR 0 0x01B .popc x (by decide) rfl rfl rfl
theorem clz (x : RWord) : Statement (.clz x) := ofR 0 0x01C .clz x (by decide) rfl rfl rfl
theorem ctz (x : RWord) : Statement (.ctz x) := ofR 0 0x01D .ctz x (by decide) rfl rfl rfl
theorem brev (x : RWord) : Statement (.brev x) := ofR 0 0x01E .brev x (by decide) rfl rfl rfl
theorem perm (x : RWord) : Statement (.perm x) := ofR 0 0x01F .perm x (by decide) rfl rfl rfl
theorem swz (x : RWord) : Statement (.swz x) := ofR 0 0x020 .swz x (by decide) rfl rfl rfl
theorem pack (x : RWord) : Statement (.pack x) := ofR 0 0x021 .pack x (by decide) rfl rfl rfl
theorem unpk (x : RWord) : Statement (.unpk x) := ofR 0 0x022 .unpk x (by decide) rfl rfl rfl
theorem lea (x : IWord) : Statement (.lea x) := ofI 0 0x023 .lea x (by decide) rfl rfl rfl
theorem sel (x : RWord) : Statement (.sel x) := ofR 0 0x024 .sel x (by decide) rfl rfl rfl
theorem cmp (x : RWord) : Statement (.cmp x) := ofR 0 0x025 .cmp x (by decide) rfl rfl rfl
theorem cmpv (x : RWord) : Statement (.cmpv x) := ofR 0 0x026 .cmpv x (by decide) rfl rfl rfl
theorem cvt (x : RWord) : Statement (.cvt x) := ofR 0 0x027 .cvt x (by decide) rfl rfl rfl
theorem pand (x : RWord) : Statement (.pand x) := ofR 0 0x028 .pand x (by decide) rfl rfl rfl
theorem por (x : RWord) : Statement (.por x) := ofR 0 0x029 .por x (by decide) rfl rfl rfl
theorem pxor (x : RWord) : Statement (.pxor x) := ofR 0 0x02A .pxor x (by decide) rfl rfl rfl
theorem pnot (x : RWord) : Statement (.pnot x) := ofR 0 0x02B .pnot x (by decide) rfl rfl rfl
theorem pmov (x : RWord) : Statement (.pmov x) := ofR 0 0x02C .pmov x (by decide) rfl rfl rfl
theorem fadd (x : RWord) : Statement (.fadd x) := ofR 1 0x000 .fadd x (by decide) rfl rfl rfl
theorem fsub (x : RWord) : Statement (.fsub x) := ofR 1 0x001 .fsub x (by decide) rfl rfl rfl
theorem fmul (x : RWord) : Statement (.fmul x) := ofR 1 0x002 .fmul x (by decide) rfl rfl rfl
theorem fma (x : RWord) : Statement (.fma x) := ofR 1 0x003 .fma x (by decide) rfl rfl rfl
theorem fmin (x : RWord) : Statement (.fmin x) := ofR 1 0x004 .fmin x (by decide) rfl rfl rfl
theorem fmax (x : RWord) : Statement (.fmax x) := ofR 1 0x005 .fmax x (by decide) rfl rfl rfl
theorem fabs (x : RWord) : Statement (.fabs x) := ofR 1 0x006 .fabs x (by decide) rfl rfl rfl
theorem fneg (x : RWord) : Statement (.fneg x) := ofR 1 0x007 .fneg x (by decide) rfl rfl rfl
theorem fdiv (x : RWord) : Statement (.fdiv x) := ofR 1 0x008 .fdiv x (by decide) rfl rfl rfl
theorem fsqrt (x : RWord) : Statement (.fsqrt x) := ofR 1 0x009 .fsqrt x (by decide) rfl rfl rfl
theorem frcp (x : RWord) : Statement (.frcp x) := ofR 1 0x00A .frcp x (by decide) rfl rfl rfl
theorem frsq (x : RWord) : Statement (.frsq x) := ofR 1 0x00B .frsq x (by decide) rfl rfl rfl
theorem ex2 (x : RWord) : Statement (.ex2 x) := ofR 1 0x00C .ex2 x (by decide) rfl rfl rfl
theorem lg2 (x : RWord) : Statement (.lg2 x) := ofR 1 0x00D .lg2 x (by decide) rfl rfl rfl
theorem fexp (x : RWord) : Statement (.fexp x) := ofR 1 0x00E .fexp x (by decide) rfl rfl rfl
theorem flog (x : RWord) : Statement (.flog x) := ofR 1 0x00F .flog x (by decide) rfl rfl rfl
theorem fsin (x : RWord) : Statement (.fsin x) := ofR 1 0x010 .fsin x (by decide) rfl rfl rfl
theorem fcos (x : RWord) : Statement (.fcos x) := ofR 1 0x011 .fcos x (by decide) rfl rfl rfl
theorem ftanh (x : RWord) : Statement (.ftanh x) := ofR 1 0x012 .ftanh x (by decide) rfl rfl rfl
theorem fsigm (x : RWord) : Statement (.fsigm x) := ofR 1 0x013 .fsigm x (by decide) rfl rfl rfl
theorem fcmp (x : RWord) : Statement (.fcmp x) := ofR 1 0x014 .fcmp x (by decide) rfl rfl rfl
theorem fclass (x : RWord) : Statement (.fclass x) := ofR 1 0x015 .fclass x (by decide) rfl rfl rfl
theorem frnd (x : RWord) : Statement (.frnd x) := ofR 1 0x016 .frnd x (by decide) rfl rfl rfl
theorem fcvt (x : RWord) : Statement (.fcvt x) := ofR 1 0x017 .fcvt x (by decide) rfl rfl rfl
theorem f2i (x : RWord) : Statement (.f2i x) := ofR 1 0x018 .f2i x (by decide) rfl rfl rfl
theorem i2f (x : RWord) : Statement (.i2f x) := ofR 1 0x019 .i2f x (by decide) rfl rfl rfl
theorem qmax (x : RWord) : Statement (.qmax x) := ofR 1 0x01A .qmax x (by decide) rfl rfl rfl
theorem qscl (x : RWord) : Statement (.qscl x) := ofR 1 0x01B .qscl x (by decide) rfl rfl rfl
theorem qcvt (x : RWord) : Statement (.qcvt x) := ofR 1 0x01C .qcvt x (by decide) rfl rfl rfl
theorem dqcvt (x : RWord) : Statement (.dqcvt x) := ofR 1 0x01D .dqcvt x (by decide) rfl rfl rfl
theorem fdot2 (x : RWord) : Statement (.fdot2 x) := ofR 1 0x01E .fdot2 x (by decide) rfl rfl rfl
theorem flg (x : RWord) : Statement (.flg x) := ofR 1 0x01F .flg x (by decide) rfl rfl rfl
theorem ld (x : IWord) : Statement (.ld x) := ofI 2 0x000 .ld x (by decide) rfl rfl rfl
theorem st (x : IWord) : Statement (.st x) := ofI 2 0x001 .st x (by decide) rfl rfl rfl
theorem ldv (x : IWord) : Statement (.ldv x) := ofI 2 0x002 .ldv x (by decide) rfl rfl rfl
theorem stv (x : IWord) : Statement (.stv x) := ofI 2 0x003 .stv x (by decide) rfl rfl rfl
theorem ldk (x : IWord) : Statement (.ldk x) := ofI 2 0x004 .ldk x (by decide) rfl rfl rfl
theorem atom (x : RWord) : Statement (.atom x) := ofR 2 0x005 .atom x (by decide) rfl rfl rfl
theorem atomc (x : RWord) : Statement (.atomc x) := ofR 2 0x006 .atomc x (by decide) rfl rfl rfl
theorem red (x : RWord) : Statement (.red x) := ofR 2 0x007 .red x (by decide) rfl rfl rfl
theorem fence (x : RWord) : Statement (.fence x) := ofR 2 0x008 .fence x (by decide) rfl rfl rfl
theorem pref (x : IWord) : Statement (.pref x) := ofI 2 0x009 .pref x (by decide) rfl rfl rfl
theorem probe (x : IWord) : Statement (.probe x) := ofI 2 0x00A .probe x (by decide) rfl rfl rfl
theorem prinv (x : RWord) : Statement (.prinv x) := ofR 2 0x00B .prinv x (by decide) rfl rfl rfl
theorem stmc (x : IWord) : Statement (.stmc x) := ofI 2 0x00C .stmc x (by decide) rfl rfl rfl
theorem cctl (x : RWord) : Statement (.cctl x) := ofR 2 0x00D .cctl x (by decide) rfl rfl rfl
theorem lsplit (x : RWord) : Statement (.lsplit x) := ofR 3 0x000 .lsplit x (by decide) rfl rfl rfl
theorem lsjoin (x : RWord) : Statement (.lsjoin x) := ofR 3 0x001 .lsjoin x (by decide) rfl rfl rfl
theorem vote (x : RWord) : Statement (.vote x) := ofR 3 0x002 .vote x (by decide) rfl rfl rfl
theorem ballot (x : RWord) : Statement (.ballot x) := ofR 3 0x003 .ballot x (by decide) rfl rfl rfl
theorem shfl (x : RWord) : Statement (.shfl x) := ofR 3 0x004 .shfl x (by decide) rfl rfl rfl
theorem bcast (x : RWord) : Statement (.bcast x) := ofR 3 0x005 .bcast x (by decide) rfl rfl rfl
theorem gred (x : RWord) : Statement (.gred x) := ofR 3 0x006 .gred x (by decide) rfl rfl rfl
theorem gscan (x : RWord) : Statement (.gscan x) := ofR 3 0x007 .gscan x (by decide) rfl rfl rfl
theorem matchEq (x : RWord) : Statement (.matchEq x) := ofR 3 0x008 .matchEq x (by decide) rfl rfl rfl
theorem elect (x : RWord) : Statement (.elect x) := ofR 3 0x009 .elect x (by decide) rfl rfl rfl
theorem lmask (x : RWord) : Statement (.lmask x) := ofR 3 0x00A .lmask x (by decide) rfl rfl rfl
theorem lsync (x : RWord) : Statement (.lsync x) := ofR 3 0x00B .lsync x (by decide) rfl rfl rfl
theorem rdfl (x : RWord) : Statement (.rdfl x) := ofR 3 0x00C .rdfl x (by decide) rfl rfl rfl
theorem tpost (x : RWord) : Statement (.tpost x) := ofR 4 0x000 .tpost x (by decide) rfl rfl rfl
theorem twait (x : RWord) : Statement (.twait x) := ofR 4 0x001 .twait x (by decide) rfl rfl rfl
theorem ttake (x : RWord) : Statement (.ttake x) := ofR 4 0x002 .ttake x (by decide) rfl rfl rfl
theorem ttst (x : RWord) : Statement (.ttst x) := ofR 4 0x003 .ttst x (by decide) rfl rfl rfl
theorem tmark (x : RWord) : Statement (.tmark x) := ofR 4 0x004 .tmark x (by decide) rfl rfl rfl
theorem tmask (x : RWord) : Statement (.tmask x) := ofR 4 0x005 .tmask x (by decide) rfl rfl rfl
theorem tbind (x : RWord) : Statement (.tbind x) := ofR 4 0x006 .tbind x (by decide) rfl rfl rfl
theorem bank (x : RWord) : Statement (.bank x) := ofR 4 0x007 .bank x (by decide) rfl rfl rfl
theorem cp (x : RWord) : Statement (.cp x) := ofR 4 0x100 .cp x (by decide) rfl rfl rfl
theorem cpmc (x : RWord) : Statement (.cpmc x) := ofR 4 0x101 .cpmc x (by decide) rfl rfl rfl
theorem cpgat (x : RWord) : Statement (.cpgat x) := ofR 4 0x102 .cpgat x (by decide) rfl rfl rfl
theorem cpst (x : RWord) : Statement (.cpst x) := ofR 4 0x103 .cpst x (by decide) rfl rfl rfl
theorem cpcan (x : RWord) : Statement (.cpcan x) := ofR 4 0x104 .cpcan x (by decide) rfl rfl rfl
theorem ffcfg (x : RWord) : Statement (.ffcfg x) := ofR 4 0x105 .ffcfg x (by decide) rfl rfl rfl
theorem ffst (x : RWord) : Statement (.ffst x) := ofR 4 0x106 .ffst x (by decide) rfl rfl rfl
theorem sigt (x : RWord) : Statement (.sigt x) := ofR 4 0x107 .sigt x (by decide) rfl rfl rfl
theorem mxset (x : RWord) : Statement (.mxset x) := ofR 4 0x200 .mxset x (by decide) rfl rfl rfl
theorem mxseti (x : IWord) : Statement (.mxseti x) := ofI 4 0x201 .mxseti x (by decide) rfl rfl rfl
theorem mxgo (x : RWord) : Statement (.mxgo x) := ofR 4 0x202 .mxgo x (by decide) rfl rfl rfl
theorem mxab (x : RWord) : Statement (.mxab x) := ofR 4 0x203 .mxab x (by decide) rfl rfl rfl
theorem mxst (x : RWord) : Statement (.mxst x) := ofR 4 0x204 .mxst x (by decide) rfl rfl rfl
theorem acld (x : RWord) : Statement (.acld x) := ofR 4 0x205 .acld x (by decide) rfl rfl rfl
theorem acst (x : RWord) : Statement (.acst x) := ofR 4 0x206 .acst x (by decide) rfl rfl rfl
theorem acclr (x : RWord) : Statement (.acclr x) := ofR 4 0x207 .acclr x (by decide) rfl rfl rfl
theorem acred (x : RWord) : Statement (.acred x) := ofR 4 0x208 .acred x (by decide) rfl rfl rfl
theorem acflg (x : RWord) : Statement (.acflg x) := ofR 4 0x209 .acflg x (by decide) rfl rfl rfl
theorem nsend (x : RWord) : Statement (.nsend x) := ofR 4 0x300 .nsend x (by decide) rfl rfl rfl
theorem ncc (x : RWord) : Statement (.ncc x) := ofR 4 0x301 .ncc x (by decide) rfl rfl rfl
theorem nst (x : RWord) : Statement (.nst x) := ofR 4 0x302 .nst x (by decide) rfl rfl rfl
theorem nop (x : RWord) : Statement (.nop x) := ofR 5 0x000 .nop x (by decide) rfl rfl rfl
theorem rdsr (x : RWord) : Statement (.rdsr x) := ofR 5 0x001 .rdsr x (by decide) rfl rfl rfl
theorem wrsr (x : RWord) : Statement (.wrsr x) := ofR 5 0x002 .wrsr x (by decide) rfl rfl rfl
theorem sys (x : IWord) : Statement (.sys x) := ofI 5 0x003 .sys x (by decide) rfl rfl rfl
theorem trap (x : IWord) : Statement (.trap x) := ofI 5 0x004 .trap x (by decide) rfl rfl rfl
theorem brk (x : IWord) : Statement (.brk x) := ofI 5 0x005 .brk x (by decide) rfl rfl rfl
theorem hint (x : IWord) : Statement (.hint x) := ofI 5 0x006 .hint x (by decide) rfl rfl rfl
theorem prof (x : RWord) : Statement (.prof x) := ofR 5 0x007 .prof x (by decide) rfl rfl rfl
theorem emuwr (x : RWord) : Statement (.emuwr x) := ofR 5 0x008 .emuwr x (by decide) rfl rfl rfl
theorem emuret (x : RWord) : Statement (.emuret x) := ofR 5 0x009 .emuret x (by decide) rfl rfl rfl
theorem clk (x : RWord) : Statement (.clk x) := ofR 5 0x00A .clk x (by decide) rfl rfl rfl
theorem binit (x : RWord) : Statement (.binit x) := ofR 5 0x100 .binit x (by decide) rfl rfl rfl
theorem barr (x : RWord) : Statement (.barr x) := ofR 5 0x101 .barr x (by decide) rfl rfl rfl
theorem bwait (x : RWord) : Statement (.bwait x) := ofR 5 0x102 .bwait x (by decide) rfl rfl rfl
theorem bsync (x : RWord) : Statement (.bsync x) := ofR 5 0x103 .bsync x (by decide) rfl rfl rfl
theorem bdrop (x : RWord) : Statement (.bdrop x) := ofR 5 0x104 .bdrop x (by decide) rfl rfl rfl
theorem bphase (x : RWord) : Statement (.bphase x) := ofR 5 0x105 .bphase x (by decide) rfl rfl rfl
theorem barm (x : RWord) : Statement (.barm x) := ofR 5 0x106 .barm x (by decide) rfl rfl rfl
theorem gbar (x : RWord) : Statement (.gbar x) := ofR 5 0x107 .gbar x (by decide) rfl rfl rfl
theorem qrec (x : RWord) : Statement (.qrec x) := ofR 5 0x200 .qrec x (by decide) rfl rfl rfl
theorem qpush (x : RWord) : Statement (.qpush x) := ofR 5 0x201 .qpush x (by decide) rfl rfl rfl
theorem qjoin (x : RWord) : Statement (.qjoin x) := ofR 5 0x202 .qjoin x (by decide) rfl rfl rfl
theorem qsig (x : RWord) : Statement (.qsig x) := ofR 5 0x203 .qsig x (by decide) rfl rfl rfl
theorem endRun (x : TWord) : Statement (.endRun x) := ofT 0 .endRun x rfl rfl rfl
theorem bra (x : TWord) : Statement (.bra x) := ofT 1 .bra x rfl rfl rfl
theorem brc (x : TWord) : Statement (.brc x) := ofT 2 .brc x rfl rfl rfl
theorem brx (x : TWord) : Statement (.brx x) := ofT 3 .brx x rfl rfl rfl
theorem call (x : TWord) : Statement (.call x) := ofT 4 .call x rfl rfl rfl
theorem callx (x : TWord) : Statement (.callx x) := ofT 5 .callx x rfl rfl rfl
theorem ret (x : TWord) : Statement (.ret x) := ofT 6 .ret x rfl rfl rfl
theorem exit (x : TWord) : Statement (.exit x) := ofT 7 .exit x rfl rfl rfl
theorem yield (x : TWord) : Statement (.yield x) := ofT 8 .yield x rfl rfl rfl
theorem illegalWord (w : BitVec 128) : Statement (.illegalWord w) := ofNone rfl
theorem faultRecordWrite (ctx : Fin 64) : Statement (.faultRecordWrite ctx) := ofNone rfl
theorem engineFaultDelivery (team : Nat) : Statement (.engineFaultDelivery team) := ofNone rfl
theorem debugStop (team group tset : Nat) : Statement (.debugStop team group tset) := ofNone rfl
theorem awaitRelease (team group tset : Nat) : Statement (.awaitRelease team group tset) := ofNone rfl
theorem convWaitExpiry (team group tset : Nat) : Statement (.convWaitExpiry team group tset) := ofNone rfl
theorem promotion (team group tset : Nat) : Statement (.promotion team group tset) := ofNone rfl
theorem yieldExpiry (team group tset : Nat) : Statement (.yieldExpiry team group tset) := ofNone rfl
theorem lsyncRelease (team group : Nat) (ls : Fin 8) : Statement (.lsyncRelease team group ls) := ofNone rfl
theorem sysResult (team group tset : Nat) (results : List (BitVec 64)) : Statement (.sysResult team group tset results) := ofNone rfl
theorem atomicPerform (team group tset : Nat) : Statement (.atomicPerform team group tset) := ofNone rfl
theorem queueWake (q : Fin 1024) : Statement (.queueWake q) := ofNone rfl
theorem packetTake (q : Fin 1024) : Statement (.packetTake q) := ofNone rfl
theorem launchPacket (q : Fin 1024) : Statement (.launchPacket q) := ofNone rfl
theorem copyPacket (q : Fin 1024) : Statement (.copyPacket q) := ofNone rfl
theorem copyPacketSegmentEnd (q : Fin 1024) (pkt seg : Nat) (ok : Bool) : Statement (.copyPacketSegmentEnd q pkt seg ok) := ofNone rfl
theorem waitPacket (q : Fin 1024) : Statement (.waitPacket q) := ofNone rfl
theorem waitComplete (q : Fin 1024) (pkt : Nat) : Statement (.waitComplete q pkt) := ofNone rfl
theorem signalPacket (q : Fin 1024) : Statement (.signalPacket q) := ofNone rfl
theorem markPacket (q : Fin 1024) : Statement (.markPacket q) := ofNone rfl
theorem counterPoll : Statement (.counterPoll) := ofNone rfl
theorem qjoinRelease (team group tset : Nat) : Statement (.qjoinRelease team group tset) := ofNone rfl
theorem childLaunch (team : Nat) : Statement (.childLaunch team) := ofNone rfl
theorem translationComplete (ctx : Fin 64) (slot : Fin 4096) : Statement (.translationComplete ctx slot) := ofNone rfl
theorem polderKeyLookup (ctx : Fin 64) (slot : Fin 4096) (hit : Bool) : Statement (.polderKeyLookup ctx slot hit) := ofNone rfl
theorem hotRunCount (entry : Nat) : Statement (.hotRunCount entry) := ofNone rfl
theorem reoptimisationStart (entry : Nat) : Statement (.reoptimisationStart entry) := ofNone rfl
theorem reoptimisationComplete (entry : Nat) (replaced : Bool) : Statement (.reoptimisationComplete entry replaced) := ofNone rfl
theorem teamPlacement (launch : Nat) (cores : List Nat) : Statement (.teamPlacement launch cores) := ofNone rfl
theorem quantumExpiry (team : Nat) : Statement (.quantumExpiry team) := ofNone rfl
theorem waitPriorityBoost (team : Nat) : Statement (.waitPriorityBoost team) := ofNone rfl
theorem parkedRestoreTimeout (team : Nat) : Statement (.parkedRestoreTimeout team) := ofNone rfl
theorem teamSwapOut (team : Nat) : Statement (.teamSwapOut team) := ofNone rfl
theorem teamRestore (team : Nat) (cores : List Nat) : Statement (.teamRestore team cores) := ofNone rfl
theorem teamRetire (team : Nat) : Statement (.teamRetire team) := ofNone rfl
theorem suspendComplete (ctx : Fin 64) : Statement (.suspendComplete ctx) := ofNone rfl
theorem contextDestroyed (ctx : Fin 64) : Statement (.contextDestroyed ctx) := ofNone rfl
theorem kernelLoadDone (ctx : Fin 64) (slot : Fin 4096) : Statement (.kernelLoadDone ctx slot) := ofNone rfl
theorem pageWalk (walk : Nat) : Statement (.pageWalk walk) := ofNone rfl
theorem invalidateComplete : Statement (.invalidateComplete) := ofNone rfl
theorem counterEpoch : Statement (.counterEpoch) := ofNone rfl
theorem migrationCopyEnd (quay : Fin 4) (ok : Bool) : Statement (.migrationCopyEnd quay ok) := ofNone rfl
theorem tileArrival (frag : Nat) (beats : BitVec 16) : Statement (.tileArrival frag beats) := ofNone rfl
theorem fragmentFailure (frag : Nat) : Statement (.fragmentFailure frag) := ofNone rfl
theorem probeFillComplete (fill : Nat) (ok : Bool) : Statement (.probeFillComplete fill ok) := ofNone rfl
theorem windowFillComplete (fill : Nat) (ok : Bool) : Statement (.windowFillComplete fill ok) := ofNone rfl
theorem copySegmentEnd (cmd seg : Nat) (ok : Bool) : Statement (.copySegmentEnd cmd seg ok) := ofNone rfl
theorem nestStart (team core : Nat) : Statement (.nestStart team core) := ofNone rfl
theorem kblockRetire (team core : Nat) : Statement (.kblockRetire team core) := ofNone rfl
theorem acredComplete (acred : Nat) : Statement (.acredComplete acred) := ofNone rfl
theorem trainingSuccess (link width : Nat) : Statement (.trainingSuccess link width) := ofNone rfl
theorem trainingTimeout (link : Nat) : Statement (.trainingTimeout link) := ofNone rfl
theorem correctedErrorBurst (link : Nat) : Statement (.correctedErrorBurst link) := ofNone rfl
theorem spillwayTimer (access : Nat) : Statement (.spillwayTimer access) := ofNone rfl
theorem wcAgeDrain (core : Fin 256) (entry : Nat) : Statement (.wcAgeDrain core entry) := ofNone rfl
theorem remoteResponse (access : Nat) (ok : Bool) (bytes : List (BitVec 8)) : Statement (.remoteResponse access ok bytes) := ofNone rfl
theorem linkTimeout (access : Nat) : Statement (.linkTimeout access) := ofNone rfl
theorem packetAck (msg pkt : Nat) : Statement (.packetAck msg pkt) := ofNone rfl
theorem retransmit (msg pkt : Nat) : Statement (.retransmit msg pkt) := ofNone rfl
theorem messageTimeout (ep : Fin 16384) : Statement (.messageTimeout ep) := ofNone rfl
theorem samplePeriod : Statement (.samplePeriod) := ofNone rfl
theorem packageReset : Statement (.packageReset) := ofNone rfl
theorem eccFreezeEnd (core : Fin 256) : Statement (.eccFreezeEnd core) := ofNone rfl
theorem aliasRollback (team group tset : Nat) : Statement (.aliasRollback team group tset) := ofNone rfl
theorem eviction : Statement (.eviction) := ofNone rfl
theorem translationCoreFailure (ctx : Fin 64) (slot : Fin 4096) : Statement (.translationCoreFailure ctx slot) := ofNone rfl
theorem thermalStepDown (die : Fin 20) : Statement (.thermalStepDown die) := ofNone rfl
theorem thermalStepUp (die : Fin 20) : Statement (.thermalStepUp die) := ofNone rfl
theorem clockStop (die : Fin 20) : Statement (.clockStop die) := ofNone rfl
theorem clockResume (die : Fin 20) : Statement (.clockResume die) := ofNone rfl
theorem thermalShutdown : Statement (.thermalShutdown) := ofNone rfl
theorem powerCapClockStep : Statement (.powerCapClockStep) := ofNone rfl
theorem contextCreate : Statement (.contextCreate) := ofNone rfl
theorem contextStart : Statement (.contextStart) := ofNone rfl
theorem contextSuspend : Statement (.contextSuspend) := ofNone rfl
theorem contextResume : Statement (.contextResume) := ofNone rfl
theorem contextAcknowledge : Statement (.contextAcknowledge) := ofNone rfl
theorem contextDestroy : Statement (.contextDestroy) := ofNone rfl
theorem contextReclaim : Statement (.contextReclaim) := ofNone rfl
theorem faultRingHeadWrite (head : BitVec 32) : Statement (.faultRingHeadWrite head) := ofNone rfl
theorem queueEnable (value : BitVec 64) : Statement (.queueEnable value) := ofNone rfl
theorem queueDisable (value : BitVec 64) : Statement (.queueDisable value) := ofNone rfl
theorem kernelLoad : Statement (.kernelLoad) := ofNone rfl
theorem kernelUnload (handle : BitVec 32) : Statement (.kernelUnload handle) := ofNone rfl
theorem profileRequest (handle : BitVec 32) : Statement (.profileRequest handle) := ofNone rfl
theorem cancelLaunch (q : Fin 1024) (slot : BitVec 16) : Statement (.cancelLaunch q slot) := ofNone rfl
theorem cancelAbort (q : Fin 1024) (slot : BitVec 16) : Statement (.cancelAbort q slot) := ofNone rfl
theorem pgRootWrite (value : BitVec 64) : Statement (.pgRootWrite value) := ofNone rfl
theorem pageReplay (value : BitVec 64) : Statement (.pageReplay value) := ofNone rfl
theorem pageFail (value : BitVec 64) : Statement (.pageFail value) := ofNone rfl
theorem invalidatePage (value : BitVec 64) : Statement (.invalidatePage value) := ofNone rfl
theorem invalidateAll (value : BitVec 64) : Statement (.invalidateAll value) := ofNone rfl
theorem migrationStart (quay : Fin 4) (value : BitVec 64) : Statement (.migrationStart quay value) := ofNone rfl
theorem replicaAdd (value : BitVec 64) : Statement (.replicaAdd value) := ofNone rfl
theorem replicaRemove (value : BitVec 64) : Statement (.replicaRemove value) := ofNone rfl
theorem linkIrqClear : Statement (.linkIrqClear) := ofNone rfl
theorem linkReset : Statement (.linkReset) := ofNone rfl
theorem linkRepair : Statement (.linkRepair) := ofNone rfl
theorem linkRetrain (link : Nat) : Statement (.linkRetrain link) := ofNone rfl
theorem marginInterrupt (link lane hgt wid : Nat) : Statement (.marginInterrupt link lane hgt wid) := ofNone rfl
theorem laneFailure (link lane : Nat) : Statement (.laneFailure link lane) := ofNone rfl
theorem flitRetry (link : Nat) : Statement (.flitRetry link) := ofNone rfl
theorem endpointCreate (value : BitVec 64) : Statement (.endpointCreate value) := ofNone rfl
theorem endpointDestroy (value : BitVec 64) : Statement (.endpointDestroy value) := ofNone rfl
theorem packetPlacement (sender : Sender) (seqNo : Nat) (kind : Fin 3) (dst : BitVec 64) (body : List (BitVec 8)) : Statement (.packetPlacement sender seqNo kind dst body) := ofNone rfl
theorem packetRefusal (msg pkt : Nat) : Statement (.packetRefusal msg pkt) := ofNone rfl
theorem debugAttach (value : BitVec 64) : Statement (.debugAttach value) := ofNone rfl
theorem dbgSet (value : BitVec 64) : Statement (.dbgSet value) := ofNone rfl
theorem dbgClear (value : BitVec 64) : Statement (.dbgClear value) := ofNone rfl
theorem debugRegisterRead : Statement (.debugRegisterRead) := ofNone rfl
theorem debugRegisterWrite (value : BitVec 64) : Statement (.debugRegisterWrite value) := ofNone rfl
theorem continueAll : Statement (.continueAll) := ofNone rfl
theorem stepRun : Statement (.stepRun) := ofNone rfl
theorem stopAll : Statement (.stopAll) := ofNone rfl
theorem continueGroup : Statement (.continueGroup) := ofNone rfl
theorem liveUpdate : Statement (.liveUpdate) := ofNone rfl
theorem raiseFloor : Statement (.raiseFloor) := ofNone rfl
theorem keyCreate (value : BitVec 64) : Statement (.keyCreate value) := ofNone rfl
theorem keyDestroy (value : BitVec 64) : Statement (.keyDestroy value) := ofNone rfl
theorem freezeMaster (m : Nat) (cause : Fin 5) (addr : BitVec 64) : Statement (.freezeMaster m cause addr) := ofNone rfl
theorem correctableError (error : CoreError) : Statement (.correctableError error) := ofNone rfl
theorem uncorrectableError (addr : BitVec 64) : Statement (.uncorrectableError addr) := ofNone rfl
theorem writebackDataError (ctx : Fin 64) (addr : BitVec 64) : Statement (.writebackDataError ctx addr) := ofNone rfl
theorem bankRetire (core : Fin 256) (bank : Fin 32) : Statement (.bankRetire core bank) := ofNone rfl
theorem powerCapSet (watts : Nat) : Statement (.powerCapSet watts) := ofNone rfl
theorem pldmMonitorRead (reading : List Nat) : Statement (.pldmMonitorRead reading) := ofNone rfl
theorem registerWrite (reg : RegId) (value : BitVec 64) : Statement (.registerWrite reg value) := ofNone rfl
theorem pgFqhHeadWrite (value : BitVec 64) : Statement (.pgFqhHeadWrite value) := ofNone rfl
theorem dbgSptrHeadWrite (value : BitVec 64) : Statement (.dbgSptrHeadWrite value) := ofNone rfl
theorem peerPackageReset (pkg : Fin 128) : Statement (.peerPackageReset pkg) := ofNone rfl
theorem systemCoreAccess (place : HartAddr) (size : Nat) (op : Nat) (value : BitVec 64) : Statement (.systemCoreAccess place size op value) := ofNone rfl

end Sys2Proof.Laws.Encoding
end

