-- ==== Sys2Proof/Laws/Placing.lean ====
section
/-! SUPPORT. Stores held by address: what their placing, a fault after them, and the merging of a run begun again come to. -/

namespace Sys2Proof.Machine

variable {s : State} {c : Cur} {t : Team} {g : Group} {ts : TSet}

/-- A set that holds no store by address has nothing to place. -/
theorem placeRun_none (h : s.view c = some (t, g, ts)) (hm : ts.mustPlace = false) : s.placeRun c = .ok s := by
  simp [State.placeRun, h, hm]

/-- A set that holds nothing has nothing to place. -/
theorem mustPlace_nil (h : ts.held = []) : ts.mustPlace = false := by simp [TSet.mustPlace, h]

/-- Its fault is then taken at once (R52). -/
theorem faultAt_none (h : s.view c = some (t, g, ts)) (hm : ts.mustPlace = false) (pc : Nat) (e : FInfo) :
    s.faultAt c pc e = s.takeFault c pc e := by
  simp [State.faultAt, placeRun_none h hm, Placing.once]

/-- So is that of a set that is parked inside its run, once what failed is removed. -/
theorem faultParked_none (h : s.view c = some (t, g, ts)) (hm : ts.mustPlace = false) (pc : Nat) (e : FInfo) (drop : State → State) :
    s.faultParked c pc e drop = (drop s).takeFault c pc e := by
  simp [State.faultParked, placeRun_none h hm]

/-- A set that holds nothing goes on at once (R60, R291). -/
theorem whenClear_nil (h : s.view c = some (t, g, ts)) (hh : ts.held = []) (k : State → State) : s.whenClear c k = k s := by
  simp [State.whenClear, State.clearRun, placeRun_none h (mustPlace_nil hh), h, hh, Placing.once]

/-- Placing the stores of a run, when it does, leaves the machine as it was but for the acts that the set holds. -/
theorem placeRun_ok {s1 : State} (h : s.view c = some (t, g, ts)) (hp : s.placeRun c = .ok s1) :
    ∃ hs, s1 = s ∨ s1 = s.onTset c fun y => { y with held := hs } := by
  simp only [State.placeRun, h] at hp
  split at hp
  · exact ⟨[], .inl (by simpa using hp.symm)⟩
  · split at hp <;> first | exact ⟨_, .inr (Placing.ok.inj hp).symm⟩ | cases hp

/-- A set that may not merge stays as it is (R125). -/
theorem rejoin_none (h : s.view c = some (t, g, ts)) (hj : ts.joinable = false) : s.rejoin c = s := by
  simp [State.rejoin, h, hj]

/-- A group without a mate keeps every other set, and takes the set at its end (R125). -/
theorem join_alone (n : TSet) (clk : Nat) (hr : n.phase = .ready)
    (hm : ∀ x ∈ g.tsets, x.joinable = true → x.pc = n.pc → x.emu = n.emu → x.id = n.id) :
    g.join clk n = { g with tsets := (g.tsets.filter fun y => y.id != n.id) ++ [n] } := by
  unfold Group.join
  split
  · have : g.tsets.find? (fun x => x.joinable && x.pc == n.pc && x.emu == n.emu && x.id != n.id) = none := by
      rw [List.find?_eq_none]
      intro x hx hp
      simp only [Bool.and_eq_true, beq_iff_eq, bne_iff_ne] at hp
      exact hp.2 (hm x hx hp.1.1.1 hp.1.1.2 hp.1.2)
    simp [this, hr]
  · rfl

end Sys2Proof.Machine
end

