-- ==== Sys2Proof/Laws/State.lean ====
section
/-!
SUPPORT. What each update of the state leaves: one law for every field that it does not write, and the value of the fields
that it does.
-/
namespace Sys2Proof.Machine

/-! ### `setCtx` -/

@[simp] theorem State.setCtx_clk (s : State) (n : Nat) (x : Ctx) : (s.setCtx n x).clk = s.clk := rfl
@[simp] theorem State.setCtx_pkg (s : State) (n : Nat) (x : Ctx) : (s.setCtx n x).pkg = s.pkg := rfl
@[simp] theorem State.setCtx_members (s : State) (n : Nat) (x : Ctx) : (s.setCtx n x).members = s.members := rfl
@[simp] theorem State.setCtx_mem (s : State) (n : Nat) (x : Ctx) : (s.setCtx n x).mem = s.mem := rfl
@[simp] theorem State.setCtx_badBytes (s : State) (n : Nat) (x : Ctx) : (s.setCtx n x).badBytes = s.badBytes := rfl
@[simp] theorem State.setCtx_wlog (s : State) (n : Nat) (x : Ctx) : (s.setCtx n x).wlog = s.wlog := rfl
@[simp] theorem State.setCtx_wseq (s : State) (n : Nat) (x : Ctx) : (s.setCtx n x).wseq = s.wseq := rfl
@[simp] theorem State.setCtx_slog (s : State) (n : Nat) (x : Ctx) : (s.setCtx n x).slog = s.slog := rfl
@[simp] theorem State.setCtx_counters (s : State) (n : Nat) (x : Ctx) : (s.setCtx n x).counters = s.counters := rfl
@[simp] theorem State.setCtx_irqs (s : State) (n : Nat) (x : Ctx) : (s.setCtx n x).irqs = s.irqs := rfl
@[simp] theorem State.setCtx_queues (s : State) (n : Nat) (x : Ctx) : (s.setCtx n x).queues = s.queues := rfl
@[simp] theorem State.setCtx_kslots (s : State) (n : Nat) (x : Ctx) : (s.setCtx n x).kslots = s.kslots := rfl
@[simp] theorem State.setCtx_tcache (s : State) (n : Nat) (x : Ctx) : (s.setCtx n x).tcache = s.tcache := rfl
@[simp] theorem State.setCtx_xlates (s : State) (n : Nat) (x : Ctx) : (s.setCtx n x).xlates = s.xlates := rfl
@[simp] theorem State.setCtx_launches (s : State) (n : Nat) (x : Ctx) : (s.setCtx n x).launches = s.launches := rfl
@[simp] theorem State.setCtx_teams (s : State) (n : Nat) (x : Ctx) : (s.setCtx n x).teams = s.teams := rfl
@[simp] theorem State.setCtx_cores (s : State) (n : Nat) (x : Ctx) : (s.setCtx n x).cores = s.cores := rfl
@[simp] theorem State.setCtx_cmds (s : State) (n : Nat) (x : Ctx) : (s.setCtx n x).cmds = s.cmds := rfl
@[simp] theorem State.setCtx_frags (s : State) (n : Nat) (x : Ctx) : (s.setCtx n x).frags = s.frags := rfl
@[simp] theorem State.setCtx_fills (s : State) (n : Nat) (x : Ctx) : (s.setCtx n x).fills = s.fills := rfl
@[simp] theorem State.setCtx_acreds (s : State) (n : Nat) (x : Ctx) : (s.setCtx n x).acreds = s.acreds := rfl
@[simp] theorem State.setCtx_msgs (s : State) (n : Nat) (x : Ctx) : (s.setCtx n x).msgs = s.msgs := rfl
@[simp] theorem State.setCtx_accesses (s : State) (n : Nat) (x : Ctx) : (s.setCtx n x).accesses = s.accesses := rfl
@[simp] theorem State.setCtx_tlbs (s : State) (n : Nat) (x : Ctx) : (s.setCtx n x).tlbs = s.tlbs := rfl
@[simp] theorem State.setCtx_walks (s : State) (n : Nat) (x : Ctx) : (s.setCtx n x).walks = s.walks := rfl
@[simp] theorem State.setCtx_preqs (s : State) (n : Nat) (x : Ctx) : (s.setCtx n x).preqs = s.preqs := rfl
@[simp] theorem State.setCtx_walkEnds (s : State) (n : Nat) (x : Ctx) : (s.setCtx n x).walkEnds = s.walkEnds := rfl
@[simp] theorem State.setCtx_repls (s : State) (n : Nat) (x : Ctx) : (s.setCtx n x).repls = s.repls := rfl
@[simp] theorem State.setCtx_cxq (s : State) (n : Nat) (x : Ctx) : (s.setCtx n x).cxq = s.cxq := rfl
@[simp] theorem State.setCtx_pg (s : State) (n : Nat) (x : Ctx) : (s.setCtx n x).pg = s.pg := rfl
@[simp] theorem State.setCtx_links (s : State) (n : Nat) (x : Ctx) : (s.setCtx n x).links = s.links := rfl
@[simp] theorem State.setCtx_eps (s : State) (n : Nat) (x : Ctx) : (s.setCtx n x).eps = s.eps := rfl
@[simp] theorem State.setCtx_nt (s : State) (n : Nat) (x : Ctx) : (s.setCtx n x).nt = s.nt := rfl
@[simp] theorem State.setCtx_dbg (s : State) (n : Nat) (x : Ctx) : (s.setCtx n x).dbg = s.dbg := rfl
@[simp] theorem State.setCtx_fw (s : State) (n : Nat) (x : Ctx) : (s.setCtx n x).fw = s.fw := rfl
@[simp] theorem State.setCtx_pwr (s : State) (n : Nat) (x : Ctx) : (s.setCtx n x).pwr = s.pwr := rfl
@[simp] theorem State.setCtx_harts (s : State) (n : Nat) (x : Ctx) : (s.setCtx n x).harts = s.harts := rfl
@[simp] theorem State.setCtx_wires (s : State) (n : Nat) (x : Ctx) : (s.setCtx n x).wires = s.wires := rfl
@[simp] theorem State.setCtx_nextId (s : State) (n : Nat) (x : Ctx) : (s.setCtx n x).nextId = s.nextId := rfl
@[simp] theorem State.setCtx_nextReq (s : State) (n : Nat) (x : Ctx) : (s.setCtx n x).nextReq = s.nextReq := rfl
@[simp] theorem State.setCtx_rr (s : State) (n : Nat) (x : Ctx) : (s.setCtx n x).rr = s.rr := rfl
@[simp] theorem State.setCtx_issue (s : State) (n : Nat) (x : Ctx) : (s.setCtx n x).issue = s.issue := rfl
@[simp] theorem State.setCtx_inputs (s : State) (n : Nat) (x : Ctx) : (s.setCtx n x).inputs = s.inputs := rfl
@[simp] theorem State.setCtx_picks (s : State) (n : Nat) (x : Ctx) : (s.setCtx n x).picks = s.picks := rfl
@[simp] theorem State.setCtx_cur (s : State) (n : Nat) (x : Ctx) : (s.setCtx n x).cur = s.cur := rfl
@[simp] theorem State.setCtx_free (s : State) (n : Nat) (x : Ctx) : (s.setCtx n x).free = s.free := rfl

/-! ### `setQueue` -/

@[simp] theorem State.setQueue_clk (s : State) (n : Nat) (x : Queue) : (s.setQueue n x).clk = s.clk := rfl
@[simp] theorem State.setQueue_pkg (s : State) (n : Nat) (x : Queue) : (s.setQueue n x).pkg = s.pkg := rfl
@[simp] theorem State.setQueue_members (s : State) (n : Nat) (x : Queue) : (s.setQueue n x).members = s.members := rfl
@[simp] theorem State.setQueue_mem (s : State) (n : Nat) (x : Queue) : (s.setQueue n x).mem = s.mem := rfl
@[simp] theorem State.setQueue_badBytes (s : State) (n : Nat) (x : Queue) : (s.setQueue n x).badBytes = s.badBytes := rfl
@[simp] theorem State.setQueue_wlog (s : State) (n : Nat) (x : Queue) : (s.setQueue n x).wlog = s.wlog := rfl
@[simp] theorem State.setQueue_wseq (s : State) (n : Nat) (x : Queue) : (s.setQueue n x).wseq = s.wseq := rfl
@[simp] theorem State.setQueue_slog (s : State) (n : Nat) (x : Queue) : (s.setQueue n x).slog = s.slog := rfl
@[simp] theorem State.setQueue_counters (s : State) (n : Nat) (x : Queue) : (s.setQueue n x).counters = s.counters := rfl
@[simp] theorem State.setQueue_irqs (s : State) (n : Nat) (x : Queue) : (s.setQueue n x).irqs = s.irqs := rfl
@[simp] theorem State.setQueue_ctxs (s : State) (n : Nat) (x : Queue) : (s.setQueue n x).ctxs = s.ctxs := rfl
@[simp] theorem State.setQueue_kslots (s : State) (n : Nat) (x : Queue) : (s.setQueue n x).kslots = s.kslots := rfl
@[simp] theorem State.setQueue_tcache (s : State) (n : Nat) (x : Queue) : (s.setQueue n x).tcache = s.tcache := rfl
@[simp] theorem State.setQueue_xlates (s : State) (n : Nat) (x : Queue) : (s.setQueue n x).xlates = s.xlates := rfl
@[simp] theorem State.setQueue_launches (s : State) (n : Nat) (x : Queue) : (s.setQueue n x).launches = s.launches := rfl
@[simp] theorem State.setQueue_teams (s : State) (n : Nat) (x : Queue) : (s.setQueue n x).teams = s.teams := rfl
@[simp] theorem State.setQueue_cores (s : State) (n : Nat) (x : Queue) : (s.setQueue n x).cores = s.cores := rfl
@[simp] theorem State.setQueue_cmds (s : State) (n : Nat) (x : Queue) : (s.setQueue n x).cmds = s.cmds := rfl
@[simp] theorem State.setQueue_frags (s : State) (n : Nat) (x : Queue) : (s.setQueue n x).frags = s.frags := rfl
@[simp] theorem State.setQueue_fills (s : State) (n : Nat) (x : Queue) : (s.setQueue n x).fills = s.fills := rfl
@[simp] theorem State.setQueue_acreds (s : State) (n : Nat) (x : Queue) : (s.setQueue n x).acreds = s.acreds := rfl
@[simp] theorem State.setQueue_msgs (s : State) (n : Nat) (x : Queue) : (s.setQueue n x).msgs = s.msgs := rfl
@[simp] theorem State.setQueue_accesses (s : State) (n : Nat) (x : Queue) : (s.setQueue n x).accesses = s.accesses := rfl
@[simp] theorem State.setQueue_tlbs (s : State) (n : Nat) (x : Queue) : (s.setQueue n x).tlbs = s.tlbs := rfl
@[simp] theorem State.setQueue_walks (s : State) (n : Nat) (x : Queue) : (s.setQueue n x).walks = s.walks := rfl
@[simp] theorem State.setQueue_preqs (s : State) (n : Nat) (x : Queue) : (s.setQueue n x).preqs = s.preqs := rfl
@[simp] theorem State.setQueue_walkEnds (s : State) (n : Nat) (x : Queue) : (s.setQueue n x).walkEnds = s.walkEnds := rfl
@[simp] theorem State.setQueue_repls (s : State) (n : Nat) (x : Queue) : (s.setQueue n x).repls = s.repls := rfl
@[simp] theorem State.setQueue_cxq (s : State) (n : Nat) (x : Queue) : (s.setQueue n x).cxq = s.cxq := rfl
@[simp] theorem State.setQueue_pg (s : State) (n : Nat) (x : Queue) : (s.setQueue n x).pg = s.pg := rfl
@[simp] theorem State.setQueue_links (s : State) (n : Nat) (x : Queue) : (s.setQueue n x).links = s.links := rfl
@[simp] theorem State.setQueue_eps (s : State) (n : Nat) (x : Queue) : (s.setQueue n x).eps = s.eps := rfl
@[simp] theorem State.setQueue_nt (s : State) (n : Nat) (x : Queue) : (s.setQueue n x).nt = s.nt := rfl
@[simp] theorem State.setQueue_dbg (s : State) (n : Nat) (x : Queue) : (s.setQueue n x).dbg = s.dbg := rfl
@[simp] theorem State.setQueue_fw (s : State) (n : Nat) (x : Queue) : (s.setQueue n x).fw = s.fw := rfl
@[simp] theorem State.setQueue_pwr (s : State) (n : Nat) (x : Queue) : (s.setQueue n x).pwr = s.pwr := rfl
@[simp] theorem State.setQueue_harts (s : State) (n : Nat) (x : Queue) : (s.setQueue n x).harts = s.harts := rfl
@[simp] theorem State.setQueue_wires (s : State) (n : Nat) (x : Queue) : (s.setQueue n x).wires = s.wires := rfl
@[simp] theorem State.setQueue_nextId (s : State) (n : Nat) (x : Queue) : (s.setQueue n x).nextId = s.nextId := rfl
@[simp] theorem State.setQueue_nextReq (s : State) (n : Nat) (x : Queue) : (s.setQueue n x).nextReq = s.nextReq := rfl
@[simp] theorem State.setQueue_rr (s : State) (n : Nat) (x : Queue) : (s.setQueue n x).rr = s.rr := rfl
@[simp] theorem State.setQueue_issue (s : State) (n : Nat) (x : Queue) : (s.setQueue n x).issue = s.issue := rfl
@[simp] theorem State.setQueue_inputs (s : State) (n : Nat) (x : Queue) : (s.setQueue n x).inputs = s.inputs := rfl
@[simp] theorem State.setQueue_picks (s : State) (n : Nat) (x : Queue) : (s.setQueue n x).picks = s.picks := rfl
@[simp] theorem State.setQueue_cur (s : State) (n : Nat) (x : Queue) : (s.setQueue n x).cur = s.cur := rfl
@[simp] theorem State.setQueue_free (s : State) (n : Nat) (x : Queue) : (s.setQueue n x).free = s.free := rfl

/-! ### `setKslot` -/

@[simp] theorem State.setKslot_clk (s : State) (c n : Nat) (x : KSlot) : (s.setKslot c n x).clk = s.clk := rfl
@[simp] theorem State.setKslot_pkg (s : State) (c n : Nat) (x : KSlot) : (s.setKslot c n x).pkg = s.pkg := rfl
@[simp] theorem State.setKslot_members (s : State) (c n : Nat) (x : KSlot) : (s.setKslot c n x).members = s.members := rfl
@[simp] theorem State.setKslot_mem (s : State) (c n : Nat) (x : KSlot) : (s.setKslot c n x).mem = s.mem := rfl
@[simp] theorem State.setKslot_badBytes (s : State) (c n : Nat) (x : KSlot) : (s.setKslot c n x).badBytes = s.badBytes := rfl
@[simp] theorem State.setKslot_wlog (s : State) (c n : Nat) (x : KSlot) : (s.setKslot c n x).wlog = s.wlog := rfl
@[simp] theorem State.setKslot_wseq (s : State) (c n : Nat) (x : KSlot) : (s.setKslot c n x).wseq = s.wseq := rfl
@[simp] theorem State.setKslot_slog (s : State) (c n : Nat) (x : KSlot) : (s.setKslot c n x).slog = s.slog := rfl
@[simp] theorem State.setKslot_counters (s : State) (c n : Nat) (x : KSlot) : (s.setKslot c n x).counters = s.counters := rfl
@[simp] theorem State.setKslot_irqs (s : State) (c n : Nat) (x : KSlot) : (s.setKslot c n x).irqs = s.irqs := rfl
@[simp] theorem State.setKslot_ctxs (s : State) (c n : Nat) (x : KSlot) : (s.setKslot c n x).ctxs = s.ctxs := rfl
@[simp] theorem State.setKslot_queues (s : State) (c n : Nat) (x : KSlot) : (s.setKslot c n x).queues = s.queues := rfl
@[simp] theorem State.setKslot_tcache (s : State) (c n : Nat) (x : KSlot) : (s.setKslot c n x).tcache = s.tcache := rfl
@[simp] theorem State.setKslot_xlates (s : State) (c n : Nat) (x : KSlot) : (s.setKslot c n x).xlates = s.xlates := rfl
@[simp] theorem State.setKslot_launches (s : State) (c n : Nat) (x : KSlot) : (s.setKslot c n x).launches = s.launches := rfl
@[simp] theorem State.setKslot_teams (s : State) (c n : Nat) (x : KSlot) : (s.setKslot c n x).teams = s.teams := rfl
@[simp] theorem State.setKslot_cores (s : State) (c n : Nat) (x : KSlot) : (s.setKslot c n x).cores = s.cores := rfl
@[simp] theorem State.setKslot_cmds (s : State) (c n : Nat) (x : KSlot) : (s.setKslot c n x).cmds = s.cmds := rfl
@[simp] theorem State.setKslot_frags (s : State) (c n : Nat) (x : KSlot) : (s.setKslot c n x).frags = s.frags := rfl
@[simp] theorem State.setKslot_fills (s : State) (c n : Nat) (x : KSlot) : (s.setKslot c n x).fills = s.fills := rfl
@[simp] theorem State.setKslot_acreds (s : State) (c n : Nat) (x : KSlot) : (s.setKslot c n x).acreds = s.acreds := rfl
@[simp] theorem State.setKslot_msgs (s : State) (c n : Nat) (x : KSlot) : (s.setKslot c n x).msgs = s.msgs := rfl
@[simp] theorem State.setKslot_accesses (s : State) (c n : Nat) (x : KSlot) : (s.setKslot c n x).accesses = s.accesses := rfl
@[simp] theorem State.setKslot_tlbs (s : State) (c n : Nat) (x : KSlot) : (s.setKslot c n x).tlbs = s.tlbs := rfl
@[simp] theorem State.setKslot_walks (s : State) (c n : Nat) (x : KSlot) : (s.setKslot c n x).walks = s.walks := rfl
@[simp] theorem State.setKslot_preqs (s : State) (c n : Nat) (x : KSlot) : (s.setKslot c n x).preqs = s.preqs := rfl
@[simp] theorem State.setKslot_walkEnds (s : State) (c n : Nat) (x : KSlot) : (s.setKslot c n x).walkEnds = s.walkEnds := rfl
@[simp] theorem State.setKslot_repls (s : State) (c n : Nat) (x : KSlot) : (s.setKslot c n x).repls = s.repls := rfl
@[simp] theorem State.setKslot_cxq (s : State) (c n : Nat) (x : KSlot) : (s.setKslot c n x).cxq = s.cxq := rfl
@[simp] theorem State.setKslot_pg (s : State) (c n : Nat) (x : KSlot) : (s.setKslot c n x).pg = s.pg := rfl
@[simp] theorem State.setKslot_links (s : State) (c n : Nat) (x : KSlot) : (s.setKslot c n x).links = s.links := rfl
@[simp] theorem State.setKslot_eps (s : State) (c n : Nat) (x : KSlot) : (s.setKslot c n x).eps = s.eps := rfl
@[simp] theorem State.setKslot_nt (s : State) (c n : Nat) (x : KSlot) : (s.setKslot c n x).nt = s.nt := rfl
@[simp] theorem State.setKslot_dbg (s : State) (c n : Nat) (x : KSlot) : (s.setKslot c n x).dbg = s.dbg := rfl
@[simp] theorem State.setKslot_fw (s : State) (c n : Nat) (x : KSlot) : (s.setKslot c n x).fw = s.fw := rfl
@[simp] theorem State.setKslot_pwr (s : State) (c n : Nat) (x : KSlot) : (s.setKslot c n x).pwr = s.pwr := rfl
@[simp] theorem State.setKslot_harts (s : State) (c n : Nat) (x : KSlot) : (s.setKslot c n x).harts = s.harts := rfl
@[simp] theorem State.setKslot_wires (s : State) (c n : Nat) (x : KSlot) : (s.setKslot c n x).wires = s.wires := rfl
@[simp] theorem State.setKslot_nextId (s : State) (c n : Nat) (x : KSlot) : (s.setKslot c n x).nextId = s.nextId := rfl
@[simp] theorem State.setKslot_nextReq (s : State) (c n : Nat) (x : KSlot) : (s.setKslot c n x).nextReq = s.nextReq := rfl
@[simp] theorem State.setKslot_rr (s : State) (c n : Nat) (x : KSlot) : (s.setKslot c n x).rr = s.rr := rfl
@[simp] theorem State.setKslot_issue (s : State) (c n : Nat) (x : KSlot) : (s.setKslot c n x).issue = s.issue := rfl
@[simp] theorem State.setKslot_inputs (s : State) (c n : Nat) (x : KSlot) : (s.setKslot c n x).inputs = s.inputs := rfl
@[simp] theorem State.setKslot_picks (s : State) (c n : Nat) (x : KSlot) : (s.setKslot c n x).picks = s.picks := rfl
@[simp] theorem State.setKslot_cur (s : State) (c n : Nat) (x : KSlot) : (s.setKslot c n x).cur = s.cur := rfl
@[simp] theorem State.setKslot_free (s : State) (c n : Nat) (x : KSlot) : (s.setKslot c n x).free = s.free := rfl

/-! ### `setCore` -/

@[simp] theorem State.setCore_clk (s : State) (n : Nat) (x : Core) : (s.setCore n x).clk = s.clk := rfl
@[simp] theorem State.setCore_pkg (s : State) (n : Nat) (x : Core) : (s.setCore n x).pkg = s.pkg := rfl
@[simp] theorem State.setCore_members (s : State) (n : Nat) (x : Core) : (s.setCore n x).members = s.members := rfl
@[simp] theorem State.setCore_mem (s : State) (n : Nat) (x : Core) : (s.setCore n x).mem = s.mem := rfl
@[simp] theorem State.setCore_badBytes (s : State) (n : Nat) (x : Core) : (s.setCore n x).badBytes = s.badBytes := rfl
@[simp] theorem State.setCore_wlog (s : State) (n : Nat) (x : Core) : (s.setCore n x).wlog = s.wlog := rfl
@[simp] theorem State.setCore_wseq (s : State) (n : Nat) (x : Core) : (s.setCore n x).wseq = s.wseq := rfl
@[simp] theorem State.setCore_slog (s : State) (n : Nat) (x : Core) : (s.setCore n x).slog = s.slog := rfl
@[simp] theorem State.setCore_counters (s : State) (n : Nat) (x : Core) : (s.setCore n x).counters = s.counters := rfl
@[simp] theorem State.setCore_irqs (s : State) (n : Nat) (x : Core) : (s.setCore n x).irqs = s.irqs := rfl
@[simp] theorem State.setCore_ctxs (s : State) (n : Nat) (x : Core) : (s.setCore n x).ctxs = s.ctxs := rfl
@[simp] theorem State.setCore_queues (s : State) (n : Nat) (x : Core) : (s.setCore n x).queues = s.queues := rfl
@[simp] theorem State.setCore_kslots (s : State) (n : Nat) (x : Core) : (s.setCore n x).kslots = s.kslots := rfl
@[simp] theorem State.setCore_tcache (s : State) (n : Nat) (x : Core) : (s.setCore n x).tcache = s.tcache := rfl
@[simp] theorem State.setCore_xlates (s : State) (n : Nat) (x : Core) : (s.setCore n x).xlates = s.xlates := rfl
@[simp] theorem State.setCore_launches (s : State) (n : Nat) (x : Core) : (s.setCore n x).launches = s.launches := rfl
@[simp] theorem State.setCore_teams (s : State) (n : Nat) (x : Core) : (s.setCore n x).teams = s.teams := rfl
@[simp] theorem State.setCore_cmds (s : State) (n : Nat) (x : Core) : (s.setCore n x).cmds = s.cmds := rfl
@[simp] theorem State.setCore_frags (s : State) (n : Nat) (x : Core) : (s.setCore n x).frags = s.frags := rfl
@[simp] theorem State.setCore_fills (s : State) (n : Nat) (x : Core) : (s.setCore n x).fills = s.fills := rfl
@[simp] theorem State.setCore_acreds (s : State) (n : Nat) (x : Core) : (s.setCore n x).acreds = s.acreds := rfl
@[simp] theorem State.setCore_msgs (s : State) (n : Nat) (x : Core) : (s.setCore n x).msgs = s.msgs := rfl
@[simp] theorem State.setCore_accesses (s : State) (n : Nat) (x : Core) : (s.setCore n x).accesses = s.accesses := rfl
@[simp] theorem State.setCore_tlbs (s : State) (n : Nat) (x : Core) : (s.setCore n x).tlbs = s.tlbs := rfl
@[simp] theorem State.setCore_walks (s : State) (n : Nat) (x : Core) : (s.setCore n x).walks = s.walks := rfl
@[simp] theorem State.setCore_preqs (s : State) (n : Nat) (x : Core) : (s.setCore n x).preqs = s.preqs := rfl
@[simp] theorem State.setCore_walkEnds (s : State) (n : Nat) (x : Core) : (s.setCore n x).walkEnds = s.walkEnds := rfl
@[simp] theorem State.setCore_repls (s : State) (n : Nat) (x : Core) : (s.setCore n x).repls = s.repls := rfl
@[simp] theorem State.setCore_cxq (s : State) (n : Nat) (x : Core) : (s.setCore n x).cxq = s.cxq := rfl
@[simp] theorem State.setCore_pg (s : State) (n : Nat) (x : Core) : (s.setCore n x).pg = s.pg := rfl
@[simp] theorem State.setCore_links (s : State) (n : Nat) (x : Core) : (s.setCore n x).links = s.links := rfl
@[simp] theorem State.setCore_eps (s : State) (n : Nat) (x : Core) : (s.setCore n x).eps = s.eps := rfl
@[simp] theorem State.setCore_nt (s : State) (n : Nat) (x : Core) : (s.setCore n x).nt = s.nt := rfl
@[simp] theorem State.setCore_dbg (s : State) (n : Nat) (x : Core) : (s.setCore n x).dbg = s.dbg := rfl
@[simp] theorem State.setCore_fw (s : State) (n : Nat) (x : Core) : (s.setCore n x).fw = s.fw := rfl
@[simp] theorem State.setCore_pwr (s : State) (n : Nat) (x : Core) : (s.setCore n x).pwr = s.pwr := rfl
@[simp] theorem State.setCore_harts (s : State) (n : Nat) (x : Core) : (s.setCore n x).harts = s.harts := rfl
@[simp] theorem State.setCore_wires (s : State) (n : Nat) (x : Core) : (s.setCore n x).wires = s.wires := rfl
@[simp] theorem State.setCore_nextId (s : State) (n : Nat) (x : Core) : (s.setCore n x).nextId = s.nextId := rfl
@[simp] theorem State.setCore_nextReq (s : State) (n : Nat) (x : Core) : (s.setCore n x).nextReq = s.nextReq := rfl
@[simp] theorem State.setCore_rr (s : State) (n : Nat) (x : Core) : (s.setCore n x).rr = s.rr := rfl
@[simp] theorem State.setCore_issue (s : State) (n : Nat) (x : Core) : (s.setCore n x).issue = s.issue := rfl
@[simp] theorem State.setCore_inputs (s : State) (n : Nat) (x : Core) : (s.setCore n x).inputs = s.inputs := rfl
@[simp] theorem State.setCore_picks (s : State) (n : Nat) (x : Core) : (s.setCore n x).picks = s.picks := rfl
@[simp] theorem State.setCore_cur (s : State) (n : Nat) (x : Core) : (s.setCore n x).cur = s.cur := rfl
@[simp] theorem State.setCore_free (s : State) (n : Nat) (x : Core) : (s.setCore n x).free = s.free := rfl

/-! ### `setLink` -/

@[simp] theorem State.setLink_clk (s : State) (n : Nat) (x : Link) : (s.setLink n x).clk = s.clk := rfl
@[simp] theorem State.setLink_pkg (s : State) (n : Nat) (x : Link) : (s.setLink n x).pkg = s.pkg := rfl
@[simp] theorem State.setLink_members (s : State) (n : Nat) (x : Link) : (s.setLink n x).members = s.members := rfl
@[simp] theorem State.setLink_mem (s : State) (n : Nat) (x : Link) : (s.setLink n x).mem = s.mem := rfl
@[simp] theorem State.setLink_badBytes (s : State) (n : Nat) (x : Link) : (s.setLink n x).badBytes = s.badBytes := rfl
@[simp] theorem State.setLink_wlog (s : State) (n : Nat) (x : Link) : (s.setLink n x).wlog = s.wlog := rfl
@[simp] theorem State.setLink_wseq (s : State) (n : Nat) (x : Link) : (s.setLink n x).wseq = s.wseq := rfl
@[simp] theorem State.setLink_slog (s : State) (n : Nat) (x : Link) : (s.setLink n x).slog = s.slog := rfl
@[simp] theorem State.setLink_counters (s : State) (n : Nat) (x : Link) : (s.setLink n x).counters = s.counters := rfl
@[simp] theorem State.setLink_irqs (s : State) (n : Nat) (x : Link) : (s.setLink n x).irqs = s.irqs := rfl
@[simp] theorem State.setLink_ctxs (s : State) (n : Nat) (x : Link) : (s.setLink n x).ctxs = s.ctxs := rfl
@[simp] theorem State.setLink_queues (s : State) (n : Nat) (x : Link) : (s.setLink n x).queues = s.queues := rfl
@[simp] theorem State.setLink_kslots (s : State) (n : Nat) (x : Link) : (s.setLink n x).kslots = s.kslots := rfl
@[simp] theorem State.setLink_tcache (s : State) (n : Nat) (x : Link) : (s.setLink n x).tcache = s.tcache := rfl
@[simp] theorem State.setLink_xlates (s : State) (n : Nat) (x : Link) : (s.setLink n x).xlates = s.xlates := rfl
@[simp] theorem State.setLink_launches (s : State) (n : Nat) (x : Link) : (s.setLink n x).launches = s.launches := rfl
@[simp] theorem State.setLink_teams (s : State) (n : Nat) (x : Link) : (s.setLink n x).teams = s.teams := rfl
@[simp] theorem State.setLink_cores (s : State) (n : Nat) (x : Link) : (s.setLink n x).cores = s.cores := rfl
@[simp] theorem State.setLink_cmds (s : State) (n : Nat) (x : Link) : (s.setLink n x).cmds = s.cmds := rfl
@[simp] theorem State.setLink_frags (s : State) (n : Nat) (x : Link) : (s.setLink n x).frags = s.frags := rfl
@[simp] theorem State.setLink_fills (s : State) (n : Nat) (x : Link) : (s.setLink n x).fills = s.fills := rfl
@[simp] theorem State.setLink_acreds (s : State) (n : Nat) (x : Link) : (s.setLink n x).acreds = s.acreds := rfl
@[simp] theorem State.setLink_msgs (s : State) (n : Nat) (x : Link) : (s.setLink n x).msgs = s.msgs := rfl
@[simp] theorem State.setLink_accesses (s : State) (n : Nat) (x : Link) : (s.setLink n x).accesses = s.accesses := rfl
@[simp] theorem State.setLink_tlbs (s : State) (n : Nat) (x : Link) : (s.setLink n x).tlbs = s.tlbs := rfl
@[simp] theorem State.setLink_walks (s : State) (n : Nat) (x : Link) : (s.setLink n x).walks = s.walks := rfl
@[simp] theorem State.setLink_preqs (s : State) (n : Nat) (x : Link) : (s.setLink n x).preqs = s.preqs := rfl
@[simp] theorem State.setLink_walkEnds (s : State) (n : Nat) (x : Link) : (s.setLink n x).walkEnds = s.walkEnds := rfl
@[simp] theorem State.setLink_repls (s : State) (n : Nat) (x : Link) : (s.setLink n x).repls = s.repls := rfl
@[simp] theorem State.setLink_cxq (s : State) (n : Nat) (x : Link) : (s.setLink n x).cxq = s.cxq := rfl
@[simp] theorem State.setLink_pg (s : State) (n : Nat) (x : Link) : (s.setLink n x).pg = s.pg := rfl
@[simp] theorem State.setLink_eps (s : State) (n : Nat) (x : Link) : (s.setLink n x).eps = s.eps := rfl
@[simp] theorem State.setLink_nt (s : State) (n : Nat) (x : Link) : (s.setLink n x).nt = s.nt := rfl
@[simp] theorem State.setLink_dbg (s : State) (n : Nat) (x : Link) : (s.setLink n x).dbg = s.dbg := rfl
@[simp] theorem State.setLink_fw (s : State) (n : Nat) (x : Link) : (s.setLink n x).fw = s.fw := rfl
@[simp] theorem State.setLink_pwr (s : State) (n : Nat) (x : Link) : (s.setLink n x).pwr = s.pwr := rfl
@[simp] theorem State.setLink_harts (s : State) (n : Nat) (x : Link) : (s.setLink n x).harts = s.harts := rfl
@[simp] theorem State.setLink_wires (s : State) (n : Nat) (x : Link) : (s.setLink n x).wires = s.wires := rfl
@[simp] theorem State.setLink_nextId (s : State) (n : Nat) (x : Link) : (s.setLink n x).nextId = s.nextId := rfl
@[simp] theorem State.setLink_nextReq (s : State) (n : Nat) (x : Link) : (s.setLink n x).nextReq = s.nextReq := rfl
@[simp] theorem State.setLink_rr (s : State) (n : Nat) (x : Link) : (s.setLink n x).rr = s.rr := rfl
@[simp] theorem State.setLink_issue (s : State) (n : Nat) (x : Link) : (s.setLink n x).issue = s.issue := rfl
@[simp] theorem State.setLink_inputs (s : State) (n : Nat) (x : Link) : (s.setLink n x).inputs = s.inputs := rfl
@[simp] theorem State.setLink_picks (s : State) (n : Nat) (x : Link) : (s.setLink n x).picks = s.picks := rfl
@[simp] theorem State.setLink_cur (s : State) (n : Nat) (x : Link) : (s.setLink n x).cur = s.cur := rfl
@[simp] theorem State.setLink_free (s : State) (n : Nat) (x : Link) : (s.setLink n x).free = s.free := rfl

/-! ### `setEp` -/

@[simp] theorem State.setEp_clk (s : State) (n : Nat) (x : Ep) : (s.setEp n x).clk = s.clk := rfl
@[simp] theorem State.setEp_pkg (s : State) (n : Nat) (x : Ep) : (s.setEp n x).pkg = s.pkg := rfl
@[simp] theorem State.setEp_members (s : State) (n : Nat) (x : Ep) : (s.setEp n x).members = s.members := rfl
@[simp] theorem State.setEp_mem (s : State) (n : Nat) (x : Ep) : (s.setEp n x).mem = s.mem := rfl
@[simp] theorem State.setEp_badBytes (s : State) (n : Nat) (x : Ep) : (s.setEp n x).badBytes = s.badBytes := rfl
@[simp] theorem State.setEp_wlog (s : State) (n : Nat) (x : Ep) : (s.setEp n x).wlog = s.wlog := rfl
@[simp] theorem State.setEp_wseq (s : State) (n : Nat) (x : Ep) : (s.setEp n x).wseq = s.wseq := rfl
@[simp] theorem State.setEp_slog (s : State) (n : Nat) (x : Ep) : (s.setEp n x).slog = s.slog := rfl
@[simp] theorem State.setEp_counters (s : State) (n : Nat) (x : Ep) : (s.setEp n x).counters = s.counters := rfl
@[simp] theorem State.setEp_irqs (s : State) (n : Nat) (x : Ep) : (s.setEp n x).irqs = s.irqs := rfl
@[simp] theorem State.setEp_ctxs (s : State) (n : Nat) (x : Ep) : (s.setEp n x).ctxs = s.ctxs := rfl
@[simp] theorem State.setEp_queues (s : State) (n : Nat) (x : Ep) : (s.setEp n x).queues = s.queues := rfl
@[simp] theorem State.setEp_kslots (s : State) (n : Nat) (x : Ep) : (s.setEp n x).kslots = s.kslots := rfl
@[simp] theorem State.setEp_tcache (s : State) (n : Nat) (x : Ep) : (s.setEp n x).tcache = s.tcache := rfl
@[simp] theorem State.setEp_xlates (s : State) (n : Nat) (x : Ep) : (s.setEp n x).xlates = s.xlates := rfl
@[simp] theorem State.setEp_launches (s : State) (n : Nat) (x : Ep) : (s.setEp n x).launches = s.launches := rfl
@[simp] theorem State.setEp_teams (s : State) (n : Nat) (x : Ep) : (s.setEp n x).teams = s.teams := rfl
@[simp] theorem State.setEp_cores (s : State) (n : Nat) (x : Ep) : (s.setEp n x).cores = s.cores := rfl
@[simp] theorem State.setEp_cmds (s : State) (n : Nat) (x : Ep) : (s.setEp n x).cmds = s.cmds := rfl
@[simp] theorem State.setEp_frags (s : State) (n : Nat) (x : Ep) : (s.setEp n x).frags = s.frags := rfl
@[simp] theorem State.setEp_fills (s : State) (n : Nat) (x : Ep) : (s.setEp n x).fills = s.fills := rfl
@[simp] theorem State.setEp_acreds (s : State) (n : Nat) (x : Ep) : (s.setEp n x).acreds = s.acreds := rfl
@[simp] theorem State.setEp_msgs (s : State) (n : Nat) (x : Ep) : (s.setEp n x).msgs = s.msgs := rfl
@[simp] theorem State.setEp_accesses (s : State) (n : Nat) (x : Ep) : (s.setEp n x).accesses = s.accesses := rfl
@[simp] theorem State.setEp_tlbs (s : State) (n : Nat) (x : Ep) : (s.setEp n x).tlbs = s.tlbs := rfl
@[simp] theorem State.setEp_walks (s : State) (n : Nat) (x : Ep) : (s.setEp n x).walks = s.walks := rfl
@[simp] theorem State.setEp_preqs (s : State) (n : Nat) (x : Ep) : (s.setEp n x).preqs = s.preqs := rfl
@[simp] theorem State.setEp_walkEnds (s : State) (n : Nat) (x : Ep) : (s.setEp n x).walkEnds = s.walkEnds := rfl
@[simp] theorem State.setEp_repls (s : State) (n : Nat) (x : Ep) : (s.setEp n x).repls = s.repls := rfl
@[simp] theorem State.setEp_cxq (s : State) (n : Nat) (x : Ep) : (s.setEp n x).cxq = s.cxq := rfl
@[simp] theorem State.setEp_pg (s : State) (n : Nat) (x : Ep) : (s.setEp n x).pg = s.pg := rfl
@[simp] theorem State.setEp_links (s : State) (n : Nat) (x : Ep) : (s.setEp n x).links = s.links := rfl
@[simp] theorem State.setEp_nt (s : State) (n : Nat) (x : Ep) : (s.setEp n x).nt = s.nt := rfl
@[simp] theorem State.setEp_dbg (s : State) (n : Nat) (x : Ep) : (s.setEp n x).dbg = s.dbg := rfl
@[simp] theorem State.setEp_fw (s : State) (n : Nat) (x : Ep) : (s.setEp n x).fw = s.fw := rfl
@[simp] theorem State.setEp_pwr (s : State) (n : Nat) (x : Ep) : (s.setEp n x).pwr = s.pwr := rfl
@[simp] theorem State.setEp_harts (s : State) (n : Nat) (x : Ep) : (s.setEp n x).harts = s.harts := rfl
@[simp] theorem State.setEp_wires (s : State) (n : Nat) (x : Ep) : (s.setEp n x).wires = s.wires := rfl
@[simp] theorem State.setEp_nextId (s : State) (n : Nat) (x : Ep) : (s.setEp n x).nextId = s.nextId := rfl
@[simp] theorem State.setEp_nextReq (s : State) (n : Nat) (x : Ep) : (s.setEp n x).nextReq = s.nextReq := rfl
@[simp] theorem State.setEp_rr (s : State) (n : Nat) (x : Ep) : (s.setEp n x).rr = s.rr := rfl
@[simp] theorem State.setEp_issue (s : State) (n : Nat) (x : Ep) : (s.setEp n x).issue = s.issue := rfl
@[simp] theorem State.setEp_inputs (s : State) (n : Nat) (x : Ep) : (s.setEp n x).inputs = s.inputs := rfl
@[simp] theorem State.setEp_picks (s : State) (n : Nat) (x : Ep) : (s.setEp n x).picks = s.picks := rfl
@[simp] theorem State.setEp_cur (s : State) (n : Nat) (x : Ep) : (s.setEp n x).cur = s.cur := rfl
@[simp] theorem State.setEp_free (s : State) (n : Nat) (x : Ep) : (s.setEp n x).free = s.free := rfl

/-! ### `setTeam` -/

@[simp] theorem State.setTeam_clk (s : State) (t : Team) : (s.setTeam t).clk = s.clk := rfl
@[simp] theorem State.setTeam_pkg (s : State) (t : Team) : (s.setTeam t).pkg = s.pkg := rfl
@[simp] theorem State.setTeam_members (s : State) (t : Team) : (s.setTeam t).members = s.members := rfl
@[simp] theorem State.setTeam_mem (s : State) (t : Team) : (s.setTeam t).mem = s.mem := rfl
@[simp] theorem State.setTeam_badBytes (s : State) (t : Team) : (s.setTeam t).badBytes = s.badBytes := rfl
@[simp] theorem State.setTeam_wlog (s : State) (t : Team) : (s.setTeam t).wlog = s.wlog := rfl
@[simp] theorem State.setTeam_wseq (s : State) (t : Team) : (s.setTeam t).wseq = s.wseq := rfl
@[simp] theorem State.setTeam_slog (s : State) (t : Team) : (s.setTeam t).slog = s.slog := rfl
@[simp] theorem State.setTeam_counters (s : State) (t : Team) : (s.setTeam t).counters = s.counters := rfl
@[simp] theorem State.setTeam_irqs (s : State) (t : Team) : (s.setTeam t).irqs = s.irqs := rfl
@[simp] theorem State.setTeam_ctxs (s : State) (t : Team) : (s.setTeam t).ctxs = s.ctxs := rfl
@[simp] theorem State.setTeam_queues (s : State) (t : Team) : (s.setTeam t).queues = s.queues := rfl
@[simp] theorem State.setTeam_kslots (s : State) (t : Team) : (s.setTeam t).kslots = s.kslots := rfl
@[simp] theorem State.setTeam_tcache (s : State) (t : Team) : (s.setTeam t).tcache = s.tcache := rfl
@[simp] theorem State.setTeam_xlates (s : State) (t : Team) : (s.setTeam t).xlates = s.xlates := rfl
@[simp] theorem State.setTeam_launches (s : State) (t : Team) : (s.setTeam t).launches = s.launches := rfl
@[simp] theorem State.setTeam_cores (s : State) (t : Team) : (s.setTeam t).cores = s.cores := rfl
@[simp] theorem State.setTeam_cmds (s : State) (t : Team) : (s.setTeam t).cmds = s.cmds := rfl
@[simp] theorem State.setTeam_frags (s : State) (t : Team) : (s.setTeam t).frags = s.frags := rfl
@[simp] theorem State.setTeam_fills (s : State) (t : Team) : (s.setTeam t).fills = s.fills := rfl
@[simp] theorem State.setTeam_acreds (s : State) (t : Team) : (s.setTeam t).acreds = s.acreds := rfl
@[simp] theorem State.setTeam_msgs (s : State) (t : Team) : (s.setTeam t).msgs = s.msgs := rfl
@[simp] theorem State.setTeam_accesses (s : State) (t : Team) : (s.setTeam t).accesses = s.accesses := rfl
@[simp] theorem State.setTeam_tlbs (s : State) (t : Team) : (s.setTeam t).tlbs = s.tlbs := rfl
@[simp] theorem State.setTeam_walks (s : State) (t : Team) : (s.setTeam t).walks = s.walks := rfl
@[simp] theorem State.setTeam_preqs (s : State) (t : Team) : (s.setTeam t).preqs = s.preqs := rfl
@[simp] theorem State.setTeam_walkEnds (s : State) (t : Team) : (s.setTeam t).walkEnds = s.walkEnds := rfl
@[simp] theorem State.setTeam_repls (s : State) (t : Team) : (s.setTeam t).repls = s.repls := rfl
@[simp] theorem State.setTeam_cxq (s : State) (t : Team) : (s.setTeam t).cxq = s.cxq := rfl
@[simp] theorem State.setTeam_pg (s : State) (t : Team) : (s.setTeam t).pg = s.pg := rfl
@[simp] theorem State.setTeam_links (s : State) (t : Team) : (s.setTeam t).links = s.links := rfl
@[simp] theorem State.setTeam_eps (s : State) (t : Team) : (s.setTeam t).eps = s.eps := rfl
@[simp] theorem State.setTeam_nt (s : State) (t : Team) : (s.setTeam t).nt = s.nt := rfl
@[simp] theorem State.setTeam_dbg (s : State) (t : Team) : (s.setTeam t).dbg = s.dbg := rfl
@[simp] theorem State.setTeam_fw (s : State) (t : Team) : (s.setTeam t).fw = s.fw := rfl
@[simp] theorem State.setTeam_pwr (s : State) (t : Team) : (s.setTeam t).pwr = s.pwr := rfl
@[simp] theorem State.setTeam_harts (s : State) (t : Team) : (s.setTeam t).harts = s.harts := rfl
@[simp] theorem State.setTeam_wires (s : State) (t : Team) : (s.setTeam t).wires = s.wires := rfl
@[simp] theorem State.setTeam_nextId (s : State) (t : Team) : (s.setTeam t).nextId = s.nextId := rfl
@[simp] theorem State.setTeam_nextReq (s : State) (t : Team) : (s.setTeam t).nextReq = s.nextReq := rfl
@[simp] theorem State.setTeam_rr (s : State) (t : Team) : (s.setTeam t).rr = s.rr := rfl
@[simp] theorem State.setTeam_issue (s : State) (t : Team) : (s.setTeam t).issue = s.issue := rfl
@[simp] theorem State.setTeam_inputs (s : State) (t : Team) : (s.setTeam t).inputs = s.inputs := rfl
@[simp] theorem State.setTeam_picks (s : State) (t : Team) : (s.setTeam t).picks = s.picks := rfl
@[simp] theorem State.setTeam_cur (s : State) (t : Team) : (s.setTeam t).cur = s.cur := rfl
@[simp] theorem State.setTeam_free (s : State) (t : Team) : (s.setTeam t).free = s.free := rfl

/-! ### `setLaunch` -/

@[simp] theorem State.setLaunch_clk (s : State) (l : Launch) : (s.setLaunch l).clk = s.clk := rfl
@[simp] theorem State.setLaunch_pkg (s : State) (l : Launch) : (s.setLaunch l).pkg = s.pkg := rfl
@[simp] theorem State.setLaunch_members (s : State) (l : Launch) : (s.setLaunch l).members = s.members := rfl
@[simp] theorem State.setLaunch_mem (s : State) (l : Launch) : (s.setLaunch l).mem = s.mem := rfl
@[simp] theorem State.setLaunch_badBytes (s : State) (l : Launch) : (s.setLaunch l).badBytes = s.badBytes := rfl
@[simp] theorem State.setLaunch_wlog (s : State) (l : Launch) : (s.setLaunch l).wlog = s.wlog := rfl
@[simp] theorem State.setLaunch_wseq (s : State) (l : Launch) : (s.setLaunch l).wseq = s.wseq := rfl
@[simp] theorem State.setLaunch_slog (s : State) (l : Launch) : (s.setLaunch l).slog = s.slog := rfl
@[simp] theorem State.setLaunch_counters (s : State) (l : Launch) : (s.setLaunch l).counters = s.counters := rfl
@[simp] theorem State.setLaunch_irqs (s : State) (l : Launch) : (s.setLaunch l).irqs = s.irqs := rfl
@[simp] theorem State.setLaunch_ctxs (s : State) (l : Launch) : (s.setLaunch l).ctxs = s.ctxs := rfl
@[simp] theorem State.setLaunch_queues (s : State) (l : Launch) : (s.setLaunch l).queues = s.queues := rfl
@[simp] theorem State.setLaunch_kslots (s : State) (l : Launch) : (s.setLaunch l).kslots = s.kslots := rfl
@[simp] theorem State.setLaunch_tcache (s : State) (l : Launch) : (s.setLaunch l).tcache = s.tcache := rfl
@[simp] theorem State.setLaunch_xlates (s : State) (l : Launch) : (s.setLaunch l).xlates = s.xlates := rfl
@[simp] theorem State.setLaunch_teams (s : State) (l : Launch) : (s.setLaunch l).teams = s.teams := rfl
@[simp] theorem State.setLaunch_cores (s : State) (l : Launch) : (s.setLaunch l).cores = s.cores := rfl
@[simp] theorem State.setLaunch_cmds (s : State) (l : Launch) : (s.setLaunch l).cmds = s.cmds := rfl
@[simp] theorem State.setLaunch_frags (s : State) (l : Launch) : (s.setLaunch l).frags = s.frags := rfl
@[simp] theorem State.setLaunch_fills (s : State) (l : Launch) : (s.setLaunch l).fills = s.fills := rfl
@[simp] theorem State.setLaunch_acreds (s : State) (l : Launch) : (s.setLaunch l).acreds = s.acreds := rfl
@[simp] theorem State.setLaunch_msgs (s : State) (l : Launch) : (s.setLaunch l).msgs = s.msgs := rfl
@[simp] theorem State.setLaunch_accesses (s : State) (l : Launch) : (s.setLaunch l).accesses = s.accesses := rfl
@[simp] theorem State.setLaunch_tlbs (s : State) (l : Launch) : (s.setLaunch l).tlbs = s.tlbs := rfl
@[simp] theorem State.setLaunch_walks (s : State) (l : Launch) : (s.setLaunch l).walks = s.walks := rfl
@[simp] theorem State.setLaunch_preqs (s : State) (l : Launch) : (s.setLaunch l).preqs = s.preqs := rfl
@[simp] theorem State.setLaunch_walkEnds (s : State) (l : Launch) : (s.setLaunch l).walkEnds = s.walkEnds := rfl
@[simp] theorem State.setLaunch_repls (s : State) (l : Launch) : (s.setLaunch l).repls = s.repls := rfl
@[simp] theorem State.setLaunch_cxq (s : State) (l : Launch) : (s.setLaunch l).cxq = s.cxq := rfl
@[simp] theorem State.setLaunch_pg (s : State) (l : Launch) : (s.setLaunch l).pg = s.pg := rfl
@[simp] theorem State.setLaunch_links (s : State) (l : Launch) : (s.setLaunch l).links = s.links := rfl
@[simp] theorem State.setLaunch_eps (s : State) (l : Launch) : (s.setLaunch l).eps = s.eps := rfl
@[simp] theorem State.setLaunch_nt (s : State) (l : Launch) : (s.setLaunch l).nt = s.nt := rfl
@[simp] theorem State.setLaunch_dbg (s : State) (l : Launch) : (s.setLaunch l).dbg = s.dbg := rfl
@[simp] theorem State.setLaunch_fw (s : State) (l : Launch) : (s.setLaunch l).fw = s.fw := rfl
@[simp] theorem State.setLaunch_pwr (s : State) (l : Launch) : (s.setLaunch l).pwr = s.pwr := rfl
@[simp] theorem State.setLaunch_harts (s : State) (l : Launch) : (s.setLaunch l).harts = s.harts := rfl
@[simp] theorem State.setLaunch_wires (s : State) (l : Launch) : (s.setLaunch l).wires = s.wires := rfl
@[simp] theorem State.setLaunch_nextId (s : State) (l : Launch) : (s.setLaunch l).nextId = s.nextId := rfl
@[simp] theorem State.setLaunch_nextReq (s : State) (l : Launch) : (s.setLaunch l).nextReq = s.nextReq := rfl
@[simp] theorem State.setLaunch_rr (s : State) (l : Launch) : (s.setLaunch l).rr = s.rr := rfl
@[simp] theorem State.setLaunch_issue (s : State) (l : Launch) : (s.setLaunch l).issue = s.issue := rfl
@[simp] theorem State.setLaunch_inputs (s : State) (l : Launch) : (s.setLaunch l).inputs = s.inputs := rfl
@[simp] theorem State.setLaunch_picks (s : State) (l : Launch) : (s.setLaunch l).picks = s.picks := rfl
@[simp] theorem State.setLaunch_cur (s : State) (l : Launch) : (s.setLaunch l).cur = s.cur := rfl
@[simp] theorem State.setLaunch_free (s : State) (l : Launch) : (s.setLaunch l).free = s.free := rfl

/-! ### `onTeam` -/

@[simp] theorem State.onTeam_clk (s : State) (n : Nat) (f : Team → Team) : (s.onTeam n f).clk = s.clk := rfl
@[simp] theorem State.onTeam_pkg (s : State) (n : Nat) (f : Team → Team) : (s.onTeam n f).pkg = s.pkg := rfl
@[simp] theorem State.onTeam_members (s : State) (n : Nat) (f : Team → Team) : (s.onTeam n f).members = s.members := rfl
@[simp] theorem State.onTeam_mem (s : State) (n : Nat) (f : Team → Team) : (s.onTeam n f).mem = s.mem := rfl
@[simp] theorem State.onTeam_badBytes (s : State) (n : Nat) (f : Team → Team) : (s.onTeam n f).badBytes = s.badBytes := rfl
@[simp] theorem State.onTeam_wlog (s : State) (n : Nat) (f : Team → Team) : (s.onTeam n f).wlog = s.wlog := rfl
@[simp] theorem State.onTeam_wseq (s : State) (n : Nat) (f : Team → Team) : (s.onTeam n f).wseq = s.wseq := rfl
@[simp] theorem State.onTeam_slog (s : State) (n : Nat) (f : Team → Team) : (s.onTeam n f).slog = s.slog := rfl
@[simp] theorem State.onTeam_counters (s : State) (n : Nat) (f : Team → Team) : (s.onTeam n f).counters = s.counters := rfl
@[simp] theorem State.onTeam_irqs (s : State) (n : Nat) (f : Team → Team) : (s.onTeam n f).irqs = s.irqs := rfl
@[simp] theorem State.onTeam_ctxs (s : State) (n : Nat) (f : Team → Team) : (s.onTeam n f).ctxs = s.ctxs := rfl
@[simp] theorem State.onTeam_queues (s : State) (n : Nat) (f : Team → Team) : (s.onTeam n f).queues = s.queues := rfl
@[simp] theorem State.onTeam_kslots (s : State) (n : Nat) (f : Team → Team) : (s.onTeam n f).kslots = s.kslots := rfl
@[simp] theorem State.onTeam_tcache (s : State) (n : Nat) (f : Team → Team) : (s.onTeam n f).tcache = s.tcache := rfl
@[simp] theorem State.onTeam_xlates (s : State) (n : Nat) (f : Team → Team) : (s.onTeam n f).xlates = s.xlates := rfl
@[simp] theorem State.onTeam_launches (s : State) (n : Nat) (f : Team → Team) : (s.onTeam n f).launches = s.launches := rfl
@[simp] theorem State.onTeam_cores (s : State) (n : Nat) (f : Team → Team) : (s.onTeam n f).cores = s.cores := rfl
@[simp] theorem State.onTeam_cmds (s : State) (n : Nat) (f : Team → Team) : (s.onTeam n f).cmds = s.cmds := rfl
@[simp] theorem State.onTeam_frags (s : State) (n : Nat) (f : Team → Team) : (s.onTeam n f).frags = s.frags := rfl
@[simp] theorem State.onTeam_fills (s : State) (n : Nat) (f : Team → Team) : (s.onTeam n f).fills = s.fills := rfl
@[simp] theorem State.onTeam_acreds (s : State) (n : Nat) (f : Team → Team) : (s.onTeam n f).acreds = s.acreds := rfl
@[simp] theorem State.onTeam_msgs (s : State) (n : Nat) (f : Team → Team) : (s.onTeam n f).msgs = s.msgs := rfl
@[simp] theorem State.onTeam_accesses (s : State) (n : Nat) (f : Team → Team) : (s.onTeam n f).accesses = s.accesses := rfl
@[simp] theorem State.onTeam_tlbs (s : State) (n : Nat) (f : Team → Team) : (s.onTeam n f).tlbs = s.tlbs := rfl
@[simp] theorem State.onTeam_walks (s : State) (n : Nat) (f : Team → Team) : (s.onTeam n f).walks = s.walks := rfl
@[simp] theorem State.onTeam_preqs (s : State) (n : Nat) (f : Team → Team) : (s.onTeam n f).preqs = s.preqs := rfl
@[simp] theorem State.onTeam_walkEnds (s : State) (n : Nat) (f : Team → Team) : (s.onTeam n f).walkEnds = s.walkEnds := rfl
@[simp] theorem State.onTeam_repls (s : State) (n : Nat) (f : Team → Team) : (s.onTeam n f).repls = s.repls := rfl
@[simp] theorem State.onTeam_cxq (s : State) (n : Nat) (f : Team → Team) : (s.onTeam n f).cxq = s.cxq := rfl
@[simp] theorem State.onTeam_pg (s : State) (n : Nat) (f : Team → Team) : (s.onTeam n f).pg = s.pg := rfl
@[simp] theorem State.onTeam_links (s : State) (n : Nat) (f : Team → Team) : (s.onTeam n f).links = s.links := rfl
@[simp] theorem State.onTeam_eps (s : State) (n : Nat) (f : Team → Team) : (s.onTeam n f).eps = s.eps := rfl
@[simp] theorem State.onTeam_nt (s : State) (n : Nat) (f : Team → Team) : (s.onTeam n f).nt = s.nt := rfl
@[simp] theorem State.onTeam_dbg (s : State) (n : Nat) (f : Team → Team) : (s.onTeam n f).dbg = s.dbg := rfl
@[simp] theorem State.onTeam_fw (s : State) (n : Nat) (f : Team → Team) : (s.onTeam n f).fw = s.fw := rfl
@[simp] theorem State.onTeam_pwr (s : State) (n : Nat) (f : Team → Team) : (s.onTeam n f).pwr = s.pwr := rfl
@[simp] theorem State.onTeam_harts (s : State) (n : Nat) (f : Team → Team) : (s.onTeam n f).harts = s.harts := rfl
@[simp] theorem State.onTeam_wires (s : State) (n : Nat) (f : Team → Team) : (s.onTeam n f).wires = s.wires := rfl
@[simp] theorem State.onTeam_nextId (s : State) (n : Nat) (f : Team → Team) : (s.onTeam n f).nextId = s.nextId := rfl
@[simp] theorem State.onTeam_nextReq (s : State) (n : Nat) (f : Team → Team) : (s.onTeam n f).nextReq = s.nextReq := rfl
@[simp] theorem State.onTeam_rr (s : State) (n : Nat) (f : Team → Team) : (s.onTeam n f).rr = s.rr := rfl
@[simp] theorem State.onTeam_issue (s : State) (n : Nat) (f : Team → Team) : (s.onTeam n f).issue = s.issue := rfl
@[simp] theorem State.onTeam_inputs (s : State) (n : Nat) (f : Team → Team) : (s.onTeam n f).inputs = s.inputs := rfl
@[simp] theorem State.onTeam_picks (s : State) (n : Nat) (f : Team → Team) : (s.onTeam n f).picks = s.picks := rfl
@[simp] theorem State.onTeam_cur (s : State) (n : Nat) (f : Team → Team) : (s.onTeam n f).cur = s.cur := rfl
@[simp] theorem State.onTeam_free (s : State) (n : Nat) (f : Team → Team) : (s.onTeam n f).free = s.free := rfl

/-! ### `onGroup` -/

@[simp] theorem State.onGroup_clk (s : State) (n k : Nat) (f : Group → Group) : (s.onGroup n k f).clk = s.clk := rfl
@[simp] theorem State.onGroup_pkg (s : State) (n k : Nat) (f : Group → Group) : (s.onGroup n k f).pkg = s.pkg := rfl
@[simp] theorem State.onGroup_members (s : State) (n k : Nat) (f : Group → Group) : (s.onGroup n k f).members = s.members := rfl
@[simp] theorem State.onGroup_mem (s : State) (n k : Nat) (f : Group → Group) : (s.onGroup n k f).mem = s.mem := rfl
@[simp] theorem State.onGroup_badBytes (s : State) (n k : Nat) (f : Group → Group) : (s.onGroup n k f).badBytes = s.badBytes := rfl
@[simp] theorem State.onGroup_wlog (s : State) (n k : Nat) (f : Group → Group) : (s.onGroup n k f).wlog = s.wlog := rfl
@[simp] theorem State.onGroup_wseq (s : State) (n k : Nat) (f : Group → Group) : (s.onGroup n k f).wseq = s.wseq := rfl
@[simp] theorem State.onGroup_slog (s : State) (n k : Nat) (f : Group → Group) : (s.onGroup n k f).slog = s.slog := rfl
@[simp] theorem State.onGroup_counters (s : State) (n k : Nat) (f : Group → Group) : (s.onGroup n k f).counters = s.counters := rfl
@[simp] theorem State.onGroup_irqs (s : State) (n k : Nat) (f : Group → Group) : (s.onGroup n k f).irqs = s.irqs := rfl
@[simp] theorem State.onGroup_ctxs (s : State) (n k : Nat) (f : Group → Group) : (s.onGroup n k f).ctxs = s.ctxs := rfl
@[simp] theorem State.onGroup_queues (s : State) (n k : Nat) (f : Group → Group) : (s.onGroup n k f).queues = s.queues := rfl
@[simp] theorem State.onGroup_kslots (s : State) (n k : Nat) (f : Group → Group) : (s.onGroup n k f).kslots = s.kslots := rfl
@[simp] theorem State.onGroup_tcache (s : State) (n k : Nat) (f : Group → Group) : (s.onGroup n k f).tcache = s.tcache := rfl
@[simp] theorem State.onGroup_xlates (s : State) (n k : Nat) (f : Group → Group) : (s.onGroup n k f).xlates = s.xlates := rfl
@[simp] theorem State.onGroup_launches (s : State) (n k : Nat) (f : Group → Group) : (s.onGroup n k f).launches = s.launches := rfl
@[simp] theorem State.onGroup_cores (s : State) (n k : Nat) (f : Group → Group) : (s.onGroup n k f).cores = s.cores := rfl
@[simp] theorem State.onGroup_cmds (s : State) (n k : Nat) (f : Group → Group) : (s.onGroup n k f).cmds = s.cmds := rfl
@[simp] theorem State.onGroup_frags (s : State) (n k : Nat) (f : Group → Group) : (s.onGroup n k f).frags = s.frags := rfl
@[simp] theorem State.onGroup_fills (s : State) (n k : Nat) (f : Group → Group) : (s.onGroup n k f).fills = s.fills := rfl
@[simp] theorem State.onGroup_acreds (s : State) (n k : Nat) (f : Group → Group) : (s.onGroup n k f).acreds = s.acreds := rfl
@[simp] theorem State.onGroup_msgs (s : State) (n k : Nat) (f : Group → Group) : (s.onGroup n k f).msgs = s.msgs := rfl
@[simp] theorem State.onGroup_accesses (s : State) (n k : Nat) (f : Group → Group) : (s.onGroup n k f).accesses = s.accesses := rfl
@[simp] theorem State.onGroup_tlbs (s : State) (n k : Nat) (f : Group → Group) : (s.onGroup n k f).tlbs = s.tlbs := rfl
@[simp] theorem State.onGroup_walks (s : State) (n k : Nat) (f : Group → Group) : (s.onGroup n k f).walks = s.walks := rfl
@[simp] theorem State.onGroup_preqs (s : State) (n k : Nat) (f : Group → Group) : (s.onGroup n k f).preqs = s.preqs := rfl
@[simp] theorem State.onGroup_walkEnds (s : State) (n k : Nat) (f : Group → Group) : (s.onGroup n k f).walkEnds = s.walkEnds := rfl
@[simp] theorem State.onGroup_repls (s : State) (n k : Nat) (f : Group → Group) : (s.onGroup n k f).repls = s.repls := rfl
@[simp] theorem State.onGroup_cxq (s : State) (n k : Nat) (f : Group → Group) : (s.onGroup n k f).cxq = s.cxq := rfl
@[simp] theorem State.onGroup_pg (s : State) (n k : Nat) (f : Group → Group) : (s.onGroup n k f).pg = s.pg := rfl
@[simp] theorem State.onGroup_links (s : State) (n k : Nat) (f : Group → Group) : (s.onGroup n k f).links = s.links := rfl
@[simp] theorem State.onGroup_eps (s : State) (n k : Nat) (f : Group → Group) : (s.onGroup n k f).eps = s.eps := rfl
@[simp] theorem State.onGroup_nt (s : State) (n k : Nat) (f : Group → Group) : (s.onGroup n k f).nt = s.nt := rfl
@[simp] theorem State.onGroup_dbg (s : State) (n k : Nat) (f : Group → Group) : (s.onGroup n k f).dbg = s.dbg := rfl
@[simp] theorem State.onGroup_fw (s : State) (n k : Nat) (f : Group → Group) : (s.onGroup n k f).fw = s.fw := rfl
@[simp] theorem State.onGroup_pwr (s : State) (n k : Nat) (f : Group → Group) : (s.onGroup n k f).pwr = s.pwr := rfl
@[simp] theorem State.onGroup_harts (s : State) (n k : Nat) (f : Group → Group) : (s.onGroup n k f).harts = s.harts := rfl
@[simp] theorem State.onGroup_wires (s : State) (n k : Nat) (f : Group → Group) : (s.onGroup n k f).wires = s.wires := rfl
@[simp] theorem State.onGroup_nextId (s : State) (n k : Nat) (f : Group → Group) : (s.onGroup n k f).nextId = s.nextId := rfl
@[simp] theorem State.onGroup_nextReq (s : State) (n k : Nat) (f : Group → Group) : (s.onGroup n k f).nextReq = s.nextReq := rfl
@[simp] theorem State.onGroup_rr (s : State) (n k : Nat) (f : Group → Group) : (s.onGroup n k f).rr = s.rr := rfl
@[simp] theorem State.onGroup_issue (s : State) (n k : Nat) (f : Group → Group) : (s.onGroup n k f).issue = s.issue := rfl
@[simp] theorem State.onGroup_inputs (s : State) (n k : Nat) (f : Group → Group) : (s.onGroup n k f).inputs = s.inputs := rfl
@[simp] theorem State.onGroup_picks (s : State) (n k : Nat) (f : Group → Group) : (s.onGroup n k f).picks = s.picks := rfl
@[simp] theorem State.onGroup_cur (s : State) (n k : Nat) (f : Group → Group) : (s.onGroup n k f).cur = s.cur := rfl
@[simp] theorem State.onGroup_free (s : State) (n k : Nat) (f : Group → Group) : (s.onGroup n k f).free = s.free := rfl

/-! ### `onTset` -/

@[simp] theorem State.onTset_clk (s : State) (c : Cur) (f : TSet → TSet) : (s.onTset c f).clk = s.clk := rfl
@[simp] theorem State.onTset_pkg (s : State) (c : Cur) (f : TSet → TSet) : (s.onTset c f).pkg = s.pkg := rfl
@[simp] theorem State.onTset_members (s : State) (c : Cur) (f : TSet → TSet) : (s.onTset c f).members = s.members := rfl
@[simp] theorem State.onTset_mem (s : State) (c : Cur) (f : TSet → TSet) : (s.onTset c f).mem = s.mem := rfl
@[simp] theorem State.onTset_badBytes (s : State) (c : Cur) (f : TSet → TSet) : (s.onTset c f).badBytes = s.badBytes := rfl
@[simp] theorem State.onTset_wlog (s : State) (c : Cur) (f : TSet → TSet) : (s.onTset c f).wlog = s.wlog := rfl
@[simp] theorem State.onTset_wseq (s : State) (c : Cur) (f : TSet → TSet) : (s.onTset c f).wseq = s.wseq := rfl
@[simp] theorem State.onTset_slog (s : State) (c : Cur) (f : TSet → TSet) : (s.onTset c f).slog = s.slog := rfl
@[simp] theorem State.onTset_counters (s : State) (c : Cur) (f : TSet → TSet) : (s.onTset c f).counters = s.counters := rfl
@[simp] theorem State.onTset_irqs (s : State) (c : Cur) (f : TSet → TSet) : (s.onTset c f).irqs = s.irqs := rfl
@[simp] theorem State.onTset_ctxs (s : State) (c : Cur) (f : TSet → TSet) : (s.onTset c f).ctxs = s.ctxs := rfl
@[simp] theorem State.onTset_queues (s : State) (c : Cur) (f : TSet → TSet) : (s.onTset c f).queues = s.queues := rfl
@[simp] theorem State.onTset_kslots (s : State) (c : Cur) (f : TSet → TSet) : (s.onTset c f).kslots = s.kslots := rfl
@[simp] theorem State.onTset_tcache (s : State) (c : Cur) (f : TSet → TSet) : (s.onTset c f).tcache = s.tcache := rfl
@[simp] theorem State.onTset_xlates (s : State) (c : Cur) (f : TSet → TSet) : (s.onTset c f).xlates = s.xlates := rfl
@[simp] theorem State.onTset_launches (s : State) (c : Cur) (f : TSet → TSet) : (s.onTset c f).launches = s.launches := rfl
@[simp] theorem State.onTset_cores (s : State) (c : Cur) (f : TSet → TSet) : (s.onTset c f).cores = s.cores := rfl
@[simp] theorem State.onTset_cmds (s : State) (c : Cur) (f : TSet → TSet) : (s.onTset c f).cmds = s.cmds := rfl
@[simp] theorem State.onTset_frags (s : State) (c : Cur) (f : TSet → TSet) : (s.onTset c f).frags = s.frags := rfl
@[simp] theorem State.onTset_fills (s : State) (c : Cur) (f : TSet → TSet) : (s.onTset c f).fills = s.fills := rfl
@[simp] theorem State.onTset_acreds (s : State) (c : Cur) (f : TSet → TSet) : (s.onTset c f).acreds = s.acreds := rfl
@[simp] theorem State.onTset_msgs (s : State) (c : Cur) (f : TSet → TSet) : (s.onTset c f).msgs = s.msgs := rfl
@[simp] theorem State.onTset_accesses (s : State) (c : Cur) (f : TSet → TSet) : (s.onTset c f).accesses = s.accesses := rfl
@[simp] theorem State.onTset_tlbs (s : State) (c : Cur) (f : TSet → TSet) : (s.onTset c f).tlbs = s.tlbs := rfl
@[simp] theorem State.onTset_walks (s : State) (c : Cur) (f : TSet → TSet) : (s.onTset c f).walks = s.walks := rfl
@[simp] theorem State.onTset_preqs (s : State) (c : Cur) (f : TSet → TSet) : (s.onTset c f).preqs = s.preqs := rfl
@[simp] theorem State.onTset_walkEnds (s : State) (c : Cur) (f : TSet → TSet) : (s.onTset c f).walkEnds = s.walkEnds := rfl
@[simp] theorem State.onTset_repls (s : State) (c : Cur) (f : TSet → TSet) : (s.onTset c f).repls = s.repls := rfl
@[simp] theorem State.onTset_cxq (s : State) (c : Cur) (f : TSet → TSet) : (s.onTset c f).cxq = s.cxq := rfl
@[simp] theorem State.onTset_pg (s : State) (c : Cur) (f : TSet → TSet) : (s.onTset c f).pg = s.pg := rfl
@[simp] theorem State.onTset_links (s : State) (c : Cur) (f : TSet → TSet) : (s.onTset c f).links = s.links := rfl
@[simp] theorem State.onTset_eps (s : State) (c : Cur) (f : TSet → TSet) : (s.onTset c f).eps = s.eps := rfl
@[simp] theorem State.onTset_nt (s : State) (c : Cur) (f : TSet → TSet) : (s.onTset c f).nt = s.nt := rfl
@[simp] theorem State.onTset_dbg (s : State) (c : Cur) (f : TSet → TSet) : (s.onTset c f).dbg = s.dbg := rfl
@[simp] theorem State.onTset_fw (s : State) (c : Cur) (f : TSet → TSet) : (s.onTset c f).fw = s.fw := rfl
@[simp] theorem State.onTset_pwr (s : State) (c : Cur) (f : TSet → TSet) : (s.onTset c f).pwr = s.pwr := rfl
@[simp] theorem State.onTset_harts (s : State) (c : Cur) (f : TSet → TSet) : (s.onTset c f).harts = s.harts := rfl
@[simp] theorem State.onTset_wires (s : State) (c : Cur) (f : TSet → TSet) : (s.onTset c f).wires = s.wires := rfl
@[simp] theorem State.onTset_nextId (s : State) (c : Cur) (f : TSet → TSet) : (s.onTset c f).nextId = s.nextId := rfl
@[simp] theorem State.onTset_nextReq (s : State) (c : Cur) (f : TSet → TSet) : (s.onTset c f).nextReq = s.nextReq := rfl
@[simp] theorem State.onTset_rr (s : State) (c : Cur) (f : TSet → TSet) : (s.onTset c f).rr = s.rr := rfl
@[simp] theorem State.onTset_issue (s : State) (c : Cur) (f : TSet → TSet) : (s.onTset c f).issue = s.issue := rfl
@[simp] theorem State.onTset_inputs (s : State) (c : Cur) (f : TSet → TSet) : (s.onTset c f).inputs = s.inputs := rfl
@[simp] theorem State.onTset_picks (s : State) (c : Cur) (f : TSet → TSet) : (s.onTset c f).picks = s.picks := rfl
@[simp] theorem State.onTset_cur (s : State) (c : Cur) (f : TSet → TSet) : (s.onTset c f).cur = s.cur := rfl
@[simp] theorem State.onTset_free (s : State) (c : Cur) (f : TSet → TSet) : (s.onTset c f).free = s.free := rfl

/-! ### `irq` -/

@[simp] theorem State.irq_clk (s : State) (i : Irq) : (s.irq i).clk = s.clk := rfl
@[simp] theorem State.irq_pkg (s : State) (i : Irq) : (s.irq i).pkg = s.pkg := rfl
@[simp] theorem State.irq_members (s : State) (i : Irq) : (s.irq i).members = s.members := rfl
@[simp] theorem State.irq_mem (s : State) (i : Irq) : (s.irq i).mem = s.mem := rfl
@[simp] theorem State.irq_badBytes (s : State) (i : Irq) : (s.irq i).badBytes = s.badBytes := rfl
@[simp] theorem State.irq_wlog (s : State) (i : Irq) : (s.irq i).wlog = s.wlog := rfl
@[simp] theorem State.irq_wseq (s : State) (i : Irq) : (s.irq i).wseq = s.wseq := rfl
@[simp] theorem State.irq_slog (s : State) (i : Irq) : (s.irq i).slog = s.slog := rfl
@[simp] theorem State.irq_counters (s : State) (i : Irq) : (s.irq i).counters = s.counters := rfl
@[simp] theorem State.irq_ctxs (s : State) (i : Irq) : (s.irq i).ctxs = s.ctxs := rfl
@[simp] theorem State.irq_queues (s : State) (i : Irq) : (s.irq i).queues = s.queues := rfl
@[simp] theorem State.irq_kslots (s : State) (i : Irq) : (s.irq i).kslots = s.kslots := rfl
@[simp] theorem State.irq_tcache (s : State) (i : Irq) : (s.irq i).tcache = s.tcache := rfl
@[simp] theorem State.irq_xlates (s : State) (i : Irq) : (s.irq i).xlates = s.xlates := rfl
@[simp] theorem State.irq_launches (s : State) (i : Irq) : (s.irq i).launches = s.launches := rfl
@[simp] theorem State.irq_teams (s : State) (i : Irq) : (s.irq i).teams = s.teams := rfl
@[simp] theorem State.irq_cores (s : State) (i : Irq) : (s.irq i).cores = s.cores := rfl
@[simp] theorem State.irq_cmds (s : State) (i : Irq) : (s.irq i).cmds = s.cmds := rfl
@[simp] theorem State.irq_frags (s : State) (i : Irq) : (s.irq i).frags = s.frags := rfl
@[simp] theorem State.irq_fills (s : State) (i : Irq) : (s.irq i).fills = s.fills := rfl
@[simp] theorem State.irq_acreds (s : State) (i : Irq) : (s.irq i).acreds = s.acreds := rfl
@[simp] theorem State.irq_msgs (s : State) (i : Irq) : (s.irq i).msgs = s.msgs := rfl
@[simp] theorem State.irq_accesses (s : State) (i : Irq) : (s.irq i).accesses = s.accesses := rfl
@[simp] theorem State.irq_tlbs (s : State) (i : Irq) : (s.irq i).tlbs = s.tlbs := rfl
@[simp] theorem State.irq_walks (s : State) (i : Irq) : (s.irq i).walks = s.walks := rfl
@[simp] theorem State.irq_preqs (s : State) (i : Irq) : (s.irq i).preqs = s.preqs := rfl
@[simp] theorem State.irq_walkEnds (s : State) (i : Irq) : (s.irq i).walkEnds = s.walkEnds := rfl
@[simp] theorem State.irq_repls (s : State) (i : Irq) : (s.irq i).repls = s.repls := rfl
@[simp] theorem State.irq_cxq (s : State) (i : Irq) : (s.irq i).cxq = s.cxq := rfl
@[simp] theorem State.irq_pg (s : State) (i : Irq) : (s.irq i).pg = s.pg := rfl
@[simp] theorem State.irq_links (s : State) (i : Irq) : (s.irq i).links = s.links := rfl
@[simp] theorem State.irq_eps (s : State) (i : Irq) : (s.irq i).eps = s.eps := rfl
@[simp] theorem State.irq_nt (s : State) (i : Irq) : (s.irq i).nt = s.nt := rfl
@[simp] theorem State.irq_dbg (s : State) (i : Irq) : (s.irq i).dbg = s.dbg := rfl
@[simp] theorem State.irq_fw (s : State) (i : Irq) : (s.irq i).fw = s.fw := rfl
@[simp] theorem State.irq_pwr (s : State) (i : Irq) : (s.irq i).pwr = s.pwr := rfl
@[simp] theorem State.irq_harts (s : State) (i : Irq) : (s.irq i).harts = s.harts := rfl
@[simp] theorem State.irq_wires (s : State) (i : Irq) : (s.irq i).wires = s.wires := rfl
@[simp] theorem State.irq_nextId (s : State) (i : Irq) : (s.irq i).nextId = s.nextId := rfl
@[simp] theorem State.irq_nextReq (s : State) (i : Irq) : (s.irq i).nextReq = s.nextReq := rfl
@[simp] theorem State.irq_rr (s : State) (i : Irq) : (s.irq i).rr = s.rr := rfl
@[simp] theorem State.irq_issue (s : State) (i : Irq) : (s.irq i).issue = s.issue := rfl
@[simp] theorem State.irq_inputs (s : State) (i : Irq) : (s.irq i).inputs = s.inputs := rfl
@[simp] theorem State.irq_picks (s : State) (i : Irq) : (s.irq i).picks = s.picks := rfl
@[simp] theorem State.irq_cur (s : State) (i : Irq) : (s.irq i).cur = s.cur := rfl
@[simp] theorem State.irq_free (s : State) (i : Irq) : (s.irq i).free = s.free := rfl

/-! ### `poke` -/

@[simp] theorem State.poke_clk (s : State) (pa : Nat) (bs : List Byte) : (s.poke pa bs).clk = s.clk := rfl
@[simp] theorem State.poke_pkg (s : State) (pa : Nat) (bs : List Byte) : (s.poke pa bs).pkg = s.pkg := rfl
@[simp] theorem State.poke_members (s : State) (pa : Nat) (bs : List Byte) : (s.poke pa bs).members = s.members := rfl
@[simp] theorem State.poke_slog (s : State) (pa : Nat) (bs : List Byte) : (s.poke pa bs).slog = s.slog := rfl
@[simp] theorem State.poke_counters (s : State) (pa : Nat) (bs : List Byte) : (s.poke pa bs).counters = s.counters := rfl
@[simp] theorem State.poke_irqs (s : State) (pa : Nat) (bs : List Byte) : (s.poke pa bs).irqs = s.irqs := rfl
@[simp] theorem State.poke_ctxs (s : State) (pa : Nat) (bs : List Byte) : (s.poke pa bs).ctxs = s.ctxs := rfl
@[simp] theorem State.poke_queues (s : State) (pa : Nat) (bs : List Byte) : (s.poke pa bs).queues = s.queues := rfl
@[simp] theorem State.poke_kslots (s : State) (pa : Nat) (bs : List Byte) : (s.poke pa bs).kslots = s.kslots := rfl
@[simp] theorem State.poke_tcache (s : State) (pa : Nat) (bs : List Byte) : (s.poke pa bs).tcache = s.tcache := rfl
@[simp] theorem State.poke_xlates (s : State) (pa : Nat) (bs : List Byte) : (s.poke pa bs).xlates = s.xlates := rfl
@[simp] theorem State.poke_launches (s : State) (pa : Nat) (bs : List Byte) : (s.poke pa bs).launches = s.launches := rfl
@[simp] theorem State.poke_teams (s : State) (pa : Nat) (bs : List Byte) : (s.poke pa bs).teams = s.teams := rfl
@[simp] theorem State.poke_cores (s : State) (pa : Nat) (bs : List Byte) : (s.poke pa bs).cores = s.cores := rfl
@[simp] theorem State.poke_cmds (s : State) (pa : Nat) (bs : List Byte) : (s.poke pa bs).cmds = s.cmds := rfl
@[simp] theorem State.poke_frags (s : State) (pa : Nat) (bs : List Byte) : (s.poke pa bs).frags = s.frags := rfl
@[simp] theorem State.poke_fills (s : State) (pa : Nat) (bs : List Byte) : (s.poke pa bs).fills = s.fills := rfl
@[simp] theorem State.poke_acreds (s : State) (pa : Nat) (bs : List Byte) : (s.poke pa bs).acreds = s.acreds := rfl
@[simp] theorem State.poke_msgs (s : State) (pa : Nat) (bs : List Byte) : (s.poke pa bs).msgs = s.msgs := rfl
@[simp] theorem State.poke_accesses (s : State) (pa : Nat) (bs : List Byte) : (s.poke pa bs).accesses = s.accesses := rfl
@[simp] theorem State.poke_tlbs (s : State) (pa : Nat) (bs : List Byte) : (s.poke pa bs).tlbs = s.tlbs := rfl
@[simp] theorem State.poke_walks (s : State) (pa : Nat) (bs : List Byte) : (s.poke pa bs).walks = s.walks := rfl
@[simp] theorem State.poke_preqs (s : State) (pa : Nat) (bs : List Byte) : (s.poke pa bs).preqs = s.preqs := rfl
@[simp] theorem State.poke_walkEnds (s : State) (pa : Nat) (bs : List Byte) : (s.poke pa bs).walkEnds = s.walkEnds := rfl
@[simp] theorem State.poke_repls (s : State) (pa : Nat) (bs : List Byte) : (s.poke pa bs).repls = s.repls := rfl
@[simp] theorem State.poke_cxq (s : State) (pa : Nat) (bs : List Byte) : (s.poke pa bs).cxq = s.cxq := rfl
@[simp] theorem State.poke_pg (s : State) (pa : Nat) (bs : List Byte) : (s.poke pa bs).pg = s.pg := rfl
@[simp] theorem State.poke_links (s : State) (pa : Nat) (bs : List Byte) : (s.poke pa bs).links = s.links := rfl
@[simp] theorem State.poke_eps (s : State) (pa : Nat) (bs : List Byte) : (s.poke pa bs).eps = s.eps := rfl
@[simp] theorem State.poke_nt (s : State) (pa : Nat) (bs : List Byte) : (s.poke pa bs).nt = s.nt := rfl
@[simp] theorem State.poke_dbg (s : State) (pa : Nat) (bs : List Byte) : (s.poke pa bs).dbg = s.dbg := rfl
@[simp] theorem State.poke_fw (s : State) (pa : Nat) (bs : List Byte) : (s.poke pa bs).fw = s.fw := rfl
@[simp] theorem State.poke_pwr (s : State) (pa : Nat) (bs : List Byte) : (s.poke pa bs).pwr = s.pwr := rfl
@[simp] theorem State.poke_harts (s : State) (pa : Nat) (bs : List Byte) : (s.poke pa bs).harts = s.harts := rfl
@[simp] theorem State.poke_wires (s : State) (pa : Nat) (bs : List Byte) : (s.poke pa bs).wires = s.wires := rfl
@[simp] theorem State.poke_nextId (s : State) (pa : Nat) (bs : List Byte) : (s.poke pa bs).nextId = s.nextId := rfl
@[simp] theorem State.poke_nextReq (s : State) (pa : Nat) (bs : List Byte) : (s.poke pa bs).nextReq = s.nextReq := rfl
@[simp] theorem State.poke_rr (s : State) (pa : Nat) (bs : List Byte) : (s.poke pa bs).rr = s.rr := rfl
@[simp] theorem State.poke_issue (s : State) (pa : Nat) (bs : List Byte) : (s.poke pa bs).issue = s.issue := rfl
@[simp] theorem State.poke_inputs (s : State) (pa : Nat) (bs : List Byte) : (s.poke pa bs).inputs = s.inputs := rfl
@[simp] theorem State.poke_picks (s : State) (pa : Nat) (bs : List Byte) : (s.poke pa bs).picks = s.picks := rfl
@[simp] theorem State.poke_cur (s : State) (pa : Nat) (bs : List Byte) : (s.poke pa bs).cur = s.cur := rfl
@[simp] theorem State.poke_free (s : State) (pa : Nat) (bs : List Byte) : (s.poke pa bs).free = s.free := rfl

/-! ### `putNat` -/

@[simp] theorem State.putNat_clk (s : State) (pa n v : Nat) : (s.putNat pa n v).clk = s.clk := rfl
@[simp] theorem State.putNat_pkg (s : State) (pa n v : Nat) : (s.putNat pa n v).pkg = s.pkg := rfl
@[simp] theorem State.putNat_members (s : State) (pa n v : Nat) : (s.putNat pa n v).members = s.members := rfl
@[simp] theorem State.putNat_slog (s : State) (pa n v : Nat) : (s.putNat pa n v).slog = s.slog := rfl
@[simp] theorem State.putNat_counters (s : State) (pa n v : Nat) : (s.putNat pa n v).counters = s.counters := rfl
@[simp] theorem State.putNat_irqs (s : State) (pa n v : Nat) : (s.putNat pa n v).irqs = s.irqs := rfl
@[simp] theorem State.putNat_ctxs (s : State) (pa n v : Nat) : (s.putNat pa n v).ctxs = s.ctxs := rfl
@[simp] theorem State.putNat_queues (s : State) (pa n v : Nat) : (s.putNat pa n v).queues = s.queues := rfl
@[simp] theorem State.putNat_kslots (s : State) (pa n v : Nat) : (s.putNat pa n v).kslots = s.kslots := rfl
@[simp] theorem State.putNat_tcache (s : State) (pa n v : Nat) : (s.putNat pa n v).tcache = s.tcache := rfl
@[simp] theorem State.putNat_xlates (s : State) (pa n v : Nat) : (s.putNat pa n v).xlates = s.xlates := rfl
@[simp] theorem State.putNat_launches (s : State) (pa n v : Nat) : (s.putNat pa n v).launches = s.launches := rfl
@[simp] theorem State.putNat_teams (s : State) (pa n v : Nat) : (s.putNat pa n v).teams = s.teams := rfl
@[simp] theorem State.putNat_cores (s : State) (pa n v : Nat) : (s.putNat pa n v).cores = s.cores := rfl
@[simp] theorem State.putNat_cmds (s : State) (pa n v : Nat) : (s.putNat pa n v).cmds = s.cmds := rfl
@[simp] theorem State.putNat_frags (s : State) (pa n v : Nat) : (s.putNat pa n v).frags = s.frags := rfl
@[simp] theorem State.putNat_fills (s : State) (pa n v : Nat) : (s.putNat pa n v).fills = s.fills := rfl
@[simp] theorem State.putNat_acreds (s : State) (pa n v : Nat) : (s.putNat pa n v).acreds = s.acreds := rfl
@[simp] theorem State.putNat_msgs (s : State) (pa n v : Nat) : (s.putNat pa n v).msgs = s.msgs := rfl
@[simp] theorem State.putNat_accesses (s : State) (pa n v : Nat) : (s.putNat pa n v).accesses = s.accesses := rfl
@[simp] theorem State.putNat_tlbs (s : State) (pa n v : Nat) : (s.putNat pa n v).tlbs = s.tlbs := rfl
@[simp] theorem State.putNat_walks (s : State) (pa n v : Nat) : (s.putNat pa n v).walks = s.walks := rfl
@[simp] theorem State.putNat_preqs (s : State) (pa n v : Nat) : (s.putNat pa n v).preqs = s.preqs := rfl
@[simp] theorem State.putNat_walkEnds (s : State) (pa n v : Nat) : (s.putNat pa n v).walkEnds = s.walkEnds := rfl
@[simp] theorem State.putNat_repls (s : State) (pa n v : Nat) : (s.putNat pa n v).repls = s.repls := rfl
@[simp] theorem State.putNat_cxq (s : State) (pa n v : Nat) : (s.putNat pa n v).cxq = s.cxq := rfl
@[simp] theorem State.putNat_pg (s : State) (pa n v : Nat) : (s.putNat pa n v).pg = s.pg := rfl
@[simp] theorem State.putNat_links (s : State) (pa n v : Nat) : (s.putNat pa n v).links = s.links := rfl
@[simp] theorem State.putNat_eps (s : State) (pa n v : Nat) : (s.putNat pa n v).eps = s.eps := rfl
@[simp] theorem State.putNat_nt (s : State) (pa n v : Nat) : (s.putNat pa n v).nt = s.nt := rfl
@[simp] theorem State.putNat_dbg (s : State) (pa n v : Nat) : (s.putNat pa n v).dbg = s.dbg := rfl
@[simp] theorem State.putNat_fw (s : State) (pa n v : Nat) : (s.putNat pa n v).fw = s.fw := rfl
@[simp] theorem State.putNat_pwr (s : State) (pa n v : Nat) : (s.putNat pa n v).pwr = s.pwr := rfl
@[simp] theorem State.putNat_harts (s : State) (pa n v : Nat) : (s.putNat pa n v).harts = s.harts := rfl
@[simp] theorem State.putNat_wires (s : State) (pa n v : Nat) : (s.putNat pa n v).wires = s.wires := rfl
@[simp] theorem State.putNat_nextId (s : State) (pa n v : Nat) : (s.putNat pa n v).nextId = s.nextId := rfl
@[simp] theorem State.putNat_nextReq (s : State) (pa n v : Nat) : (s.putNat pa n v).nextReq = s.nextReq := rfl
@[simp] theorem State.putNat_rr (s : State) (pa n v : Nat) : (s.putNat pa n v).rr = s.rr := rfl
@[simp] theorem State.putNat_issue (s : State) (pa n v : Nat) : (s.putNat pa n v).issue = s.issue := rfl
@[simp] theorem State.putNat_inputs (s : State) (pa n v : Nat) : (s.putNat pa n v).inputs = s.inputs := rfl
@[simp] theorem State.putNat_picks (s : State) (pa n v : Nat) : (s.putNat pa n v).picks = s.picks := rfl
@[simp] theorem State.putNat_cur (s : State) (pa n v : Nat) : (s.putNat pa n v).cur = s.cur := rfl
@[simp] theorem State.putNat_free (s : State) (pa n v : Nat) : (s.putNat pa n v).free = s.free := rfl

/-! ### `setMig` -/

@[simp] theorem State.setMig_clk (s : State) (n : Nat) (m : Mig) : (s.setMig n m).clk = s.clk := rfl
@[simp] theorem State.setMig_pkg (s : State) (n : Nat) (m : Mig) : (s.setMig n m).pkg = s.pkg := rfl
@[simp] theorem State.setMig_members (s : State) (n : Nat) (m : Mig) : (s.setMig n m).members = s.members := rfl
@[simp] theorem State.setMig_mem (s : State) (n : Nat) (m : Mig) : (s.setMig n m).mem = s.mem := rfl
@[simp] theorem State.setMig_badBytes (s : State) (n : Nat) (m : Mig) : (s.setMig n m).badBytes = s.badBytes := rfl
@[simp] theorem State.setMig_wlog (s : State) (n : Nat) (m : Mig) : (s.setMig n m).wlog = s.wlog := rfl
@[simp] theorem State.setMig_wseq (s : State) (n : Nat) (m : Mig) : (s.setMig n m).wseq = s.wseq := rfl
@[simp] theorem State.setMig_slog (s : State) (n : Nat) (m : Mig) : (s.setMig n m).slog = s.slog := rfl
@[simp] theorem State.setMig_counters (s : State) (n : Nat) (m : Mig) : (s.setMig n m).counters = s.counters := rfl
@[simp] theorem State.setMig_irqs (s : State) (n : Nat) (m : Mig) : (s.setMig n m).irqs = s.irqs := rfl
@[simp] theorem State.setMig_ctxs (s : State) (n : Nat) (m : Mig) : (s.setMig n m).ctxs = s.ctxs := rfl
@[simp] theorem State.setMig_queues (s : State) (n : Nat) (m : Mig) : (s.setMig n m).queues = s.queues := rfl
@[simp] theorem State.setMig_kslots (s : State) (n : Nat) (m : Mig) : (s.setMig n m).kslots = s.kslots := rfl
@[simp] theorem State.setMig_tcache (s : State) (n : Nat) (m : Mig) : (s.setMig n m).tcache = s.tcache := rfl
@[simp] theorem State.setMig_xlates (s : State) (n : Nat) (m : Mig) : (s.setMig n m).xlates = s.xlates := rfl
@[simp] theorem State.setMig_launches (s : State) (n : Nat) (m : Mig) : (s.setMig n m).launches = s.launches := rfl
@[simp] theorem State.setMig_teams (s : State) (n : Nat) (m : Mig) : (s.setMig n m).teams = s.teams := rfl
@[simp] theorem State.setMig_cores (s : State) (n : Nat) (m : Mig) : (s.setMig n m).cores = s.cores := rfl
@[simp] theorem State.setMig_cmds (s : State) (n : Nat) (m : Mig) : (s.setMig n m).cmds = s.cmds := rfl
@[simp] theorem State.setMig_frags (s : State) (n : Nat) (m : Mig) : (s.setMig n m).frags = s.frags := rfl
@[simp] theorem State.setMig_fills (s : State) (n : Nat) (m : Mig) : (s.setMig n m).fills = s.fills := rfl
@[simp] theorem State.setMig_acreds (s : State) (n : Nat) (m : Mig) : (s.setMig n m).acreds = s.acreds := rfl
@[simp] theorem State.setMig_msgs (s : State) (n : Nat) (m : Mig) : (s.setMig n m).msgs = s.msgs := rfl
@[simp] theorem State.setMig_accesses (s : State) (n : Nat) (m : Mig) : (s.setMig n m).accesses = s.accesses := rfl
@[simp] theorem State.setMig_tlbs (s : State) (n : Nat) (m : Mig) : (s.setMig n m).tlbs = s.tlbs := rfl
@[simp] theorem State.setMig_walks (s : State) (n : Nat) (m : Mig) : (s.setMig n m).walks = s.walks := rfl
@[simp] theorem State.setMig_preqs (s : State) (n : Nat) (m : Mig) : (s.setMig n m).preqs = s.preqs := rfl
@[simp] theorem State.setMig_walkEnds (s : State) (n : Nat) (m : Mig) : (s.setMig n m).walkEnds = s.walkEnds := rfl
@[simp] theorem State.setMig_repls (s : State) (n : Nat) (m : Mig) : (s.setMig n m).repls = s.repls := rfl
@[simp] theorem State.setMig_cxq (s : State) (n : Nat) (m : Mig) : (s.setMig n m).cxq = s.cxq := rfl
@[simp] theorem State.setMig_links (s : State) (n : Nat) (m : Mig) : (s.setMig n m).links = s.links := rfl
@[simp] theorem State.setMig_eps (s : State) (n : Nat) (m : Mig) : (s.setMig n m).eps = s.eps := rfl
@[simp] theorem State.setMig_nt (s : State) (n : Nat) (m : Mig) : (s.setMig n m).nt = s.nt := rfl
@[simp] theorem State.setMig_dbg (s : State) (n : Nat) (m : Mig) : (s.setMig n m).dbg = s.dbg := rfl
@[simp] theorem State.setMig_fw (s : State) (n : Nat) (m : Mig) : (s.setMig n m).fw = s.fw := rfl
@[simp] theorem State.setMig_pwr (s : State) (n : Nat) (m : Mig) : (s.setMig n m).pwr = s.pwr := rfl
@[simp] theorem State.setMig_harts (s : State) (n : Nat) (m : Mig) : (s.setMig n m).harts = s.harts := rfl
@[simp] theorem State.setMig_wires (s : State) (n : Nat) (m : Mig) : (s.setMig n m).wires = s.wires := rfl
@[simp] theorem State.setMig_nextId (s : State) (n : Nat) (m : Mig) : (s.setMig n m).nextId = s.nextId := rfl
@[simp] theorem State.setMig_nextReq (s : State) (n : Nat) (m : Mig) : (s.setMig n m).nextReq = s.nextReq := rfl
@[simp] theorem State.setMig_rr (s : State) (n : Nat) (m : Mig) : (s.setMig n m).rr = s.rr := rfl
@[simp] theorem State.setMig_issue (s : State) (n : Nat) (m : Mig) : (s.setMig n m).issue = s.issue := rfl
@[simp] theorem State.setMig_inputs (s : State) (n : Nat) (m : Mig) : (s.setMig n m).inputs = s.inputs := rfl
@[simp] theorem State.setMig_picks (s : State) (n : Nat) (m : Mig) : (s.setMig n m).picks = s.picks := rfl
@[simp] theorem State.setMig_cur (s : State) (n : Nat) (m : Mig) : (s.setMig n m).cur = s.cur := rfl
@[simp] theorem State.setMig_free (s : State) (n : Nat) (m : Mig) : (s.setMig n m).free = s.free := rfl

/-! ### `setPkt` -/

@[simp] theorem State.setPkt_clk (s : State) (n : Nat) (p : Pkt) : (s.setPkt n p).clk = s.clk := rfl
@[simp] theorem State.setPkt_pkg (s : State) (n : Nat) (p : Pkt) : (s.setPkt n p).pkg = s.pkg := rfl
@[simp] theorem State.setPkt_members (s : State) (n : Nat) (p : Pkt) : (s.setPkt n p).members = s.members := rfl
@[simp] theorem State.setPkt_mem (s : State) (n : Nat) (p : Pkt) : (s.setPkt n p).mem = s.mem := rfl
@[simp] theorem State.setPkt_badBytes (s : State) (n : Nat) (p : Pkt) : (s.setPkt n p).badBytes = s.badBytes := rfl
@[simp] theorem State.setPkt_wlog (s : State) (n : Nat) (p : Pkt) : (s.setPkt n p).wlog = s.wlog := rfl
@[simp] theorem State.setPkt_wseq (s : State) (n : Nat) (p : Pkt) : (s.setPkt n p).wseq = s.wseq := rfl
@[simp] theorem State.setPkt_slog (s : State) (n : Nat) (p : Pkt) : (s.setPkt n p).slog = s.slog := rfl
@[simp] theorem State.setPkt_counters (s : State) (n : Nat) (p : Pkt) : (s.setPkt n p).counters = s.counters := rfl
@[simp] theorem State.setPkt_irqs (s : State) (n : Nat) (p : Pkt) : (s.setPkt n p).irqs = s.irqs := rfl
@[simp] theorem State.setPkt_ctxs (s : State) (n : Nat) (p : Pkt) : (s.setPkt n p).ctxs = s.ctxs := rfl
@[simp] theorem State.setPkt_kslots (s : State) (n : Nat) (p : Pkt) : (s.setPkt n p).kslots = s.kslots := rfl
@[simp] theorem State.setPkt_tcache (s : State) (n : Nat) (p : Pkt) : (s.setPkt n p).tcache = s.tcache := rfl
@[simp] theorem State.setPkt_xlates (s : State) (n : Nat) (p : Pkt) : (s.setPkt n p).xlates = s.xlates := rfl
@[simp] theorem State.setPkt_launches (s : State) (n : Nat) (p : Pkt) : (s.setPkt n p).launches = s.launches := rfl
@[simp] theorem State.setPkt_teams (s : State) (n : Nat) (p : Pkt) : (s.setPkt n p).teams = s.teams := rfl
@[simp] theorem State.setPkt_cores (s : State) (n : Nat) (p : Pkt) : (s.setPkt n p).cores = s.cores := rfl
@[simp] theorem State.setPkt_cmds (s : State) (n : Nat) (p : Pkt) : (s.setPkt n p).cmds = s.cmds := rfl
@[simp] theorem State.setPkt_frags (s : State) (n : Nat) (p : Pkt) : (s.setPkt n p).frags = s.frags := rfl
@[simp] theorem State.setPkt_fills (s : State) (n : Nat) (p : Pkt) : (s.setPkt n p).fills = s.fills := rfl
@[simp] theorem State.setPkt_acreds (s : State) (n : Nat) (p : Pkt) : (s.setPkt n p).acreds = s.acreds := rfl
@[simp] theorem State.setPkt_msgs (s : State) (n : Nat) (p : Pkt) : (s.setPkt n p).msgs = s.msgs := rfl
@[simp] theorem State.setPkt_accesses (s : State) (n : Nat) (p : Pkt) : (s.setPkt n p).accesses = s.accesses := rfl
@[simp] theorem State.setPkt_tlbs (s : State) (n : Nat) (p : Pkt) : (s.setPkt n p).tlbs = s.tlbs := rfl
@[simp] theorem State.setPkt_walks (s : State) (n : Nat) (p : Pkt) : (s.setPkt n p).walks = s.walks := rfl
@[simp] theorem State.setPkt_preqs (s : State) (n : Nat) (p : Pkt) : (s.setPkt n p).preqs = s.preqs := rfl
@[simp] theorem State.setPkt_walkEnds (s : State) (n : Nat) (p : Pkt) : (s.setPkt n p).walkEnds = s.walkEnds := rfl
@[simp] theorem State.setPkt_repls (s : State) (n : Nat) (p : Pkt) : (s.setPkt n p).repls = s.repls := rfl
@[simp] theorem State.setPkt_cxq (s : State) (n : Nat) (p : Pkt) : (s.setPkt n p).cxq = s.cxq := rfl
@[simp] theorem State.setPkt_pg (s : State) (n : Nat) (p : Pkt) : (s.setPkt n p).pg = s.pg := rfl
@[simp] theorem State.setPkt_links (s : State) (n : Nat) (p : Pkt) : (s.setPkt n p).links = s.links := rfl
@[simp] theorem State.setPkt_eps (s : State) (n : Nat) (p : Pkt) : (s.setPkt n p).eps = s.eps := rfl
@[simp] theorem State.setPkt_nt (s : State) (n : Nat) (p : Pkt) : (s.setPkt n p).nt = s.nt := rfl
@[simp] theorem State.setPkt_dbg (s : State) (n : Nat) (p : Pkt) : (s.setPkt n p).dbg = s.dbg := rfl
@[simp] theorem State.setPkt_fw (s : State) (n : Nat) (p : Pkt) : (s.setPkt n p).fw = s.fw := rfl
@[simp] theorem State.setPkt_pwr (s : State) (n : Nat) (p : Pkt) : (s.setPkt n p).pwr = s.pwr := rfl
@[simp] theorem State.setPkt_harts (s : State) (n : Nat) (p : Pkt) : (s.setPkt n p).harts = s.harts := rfl
@[simp] theorem State.setPkt_wires (s : State) (n : Nat) (p : Pkt) : (s.setPkt n p).wires = s.wires := rfl
@[simp] theorem State.setPkt_nextId (s : State) (n : Nat) (p : Pkt) : (s.setPkt n p).nextId = s.nextId := rfl
@[simp] theorem State.setPkt_nextReq (s : State) (n : Nat) (p : Pkt) : (s.setPkt n p).nextReq = s.nextReq := rfl
@[simp] theorem State.setPkt_rr (s : State) (n : Nat) (p : Pkt) : (s.setPkt n p).rr = s.rr := rfl
@[simp] theorem State.setPkt_issue (s : State) (n : Nat) (p : Pkt) : (s.setPkt n p).issue = s.issue := rfl
@[simp] theorem State.setPkt_inputs (s : State) (n : Nat) (p : Pkt) : (s.setPkt n p).inputs = s.inputs := rfl
@[simp] theorem State.setPkt_picks (s : State) (n : Nat) (p : Pkt) : (s.setPkt n p).picks = s.picks := rfl
@[simp] theorem State.setPkt_cur (s : State) (n : Nat) (p : Pkt) : (s.setPkt n p).cur = s.cur := rfl
@[simp] theorem State.setPkt_free (s : State) (n : Nat) (p : Pkt) : (s.setPkt n p).free = s.free := rfl

/-! ### `keyStatus` -/

@[simp] theorem State.keyStatus_clk (s : State) (n : Nat) : (s.keyStatus n).clk = s.clk := rfl
@[simp] theorem State.keyStatus_pkg (s : State) (n : Nat) : (s.keyStatus n).pkg = s.pkg := rfl
@[simp] theorem State.keyStatus_members (s : State) (n : Nat) : (s.keyStatus n).members = s.members := rfl
@[simp] theorem State.keyStatus_mem (s : State) (n : Nat) : (s.keyStatus n).mem = s.mem := rfl
@[simp] theorem State.keyStatus_badBytes (s : State) (n : Nat) : (s.keyStatus n).badBytes = s.badBytes := rfl
@[simp] theorem State.keyStatus_wlog (s : State) (n : Nat) : (s.keyStatus n).wlog = s.wlog := rfl
@[simp] theorem State.keyStatus_wseq (s : State) (n : Nat) : (s.keyStatus n).wseq = s.wseq := rfl
@[simp] theorem State.keyStatus_slog (s : State) (n : Nat) : (s.keyStatus n).slog = s.slog := rfl
@[simp] theorem State.keyStatus_counters (s : State) (n : Nat) : (s.keyStatus n).counters = s.counters := rfl
@[simp] theorem State.keyStatus_irqs (s : State) (n : Nat) : (s.keyStatus n).irqs = s.irqs := rfl
@[simp] theorem State.keyStatus_ctxs (s : State) (n : Nat) : (s.keyStatus n).ctxs = s.ctxs := rfl
@[simp] theorem State.keyStatus_queues (s : State) (n : Nat) : (s.keyStatus n).queues = s.queues := rfl
@[simp] theorem State.keyStatus_kslots (s : State) (n : Nat) : (s.keyStatus n).kslots = s.kslots := rfl
@[simp] theorem State.keyStatus_tcache (s : State) (n : Nat) : (s.keyStatus n).tcache = s.tcache := rfl
@[simp] theorem State.keyStatus_xlates (s : State) (n : Nat) : (s.keyStatus n).xlates = s.xlates := rfl
@[simp] theorem State.keyStatus_launches (s : State) (n : Nat) : (s.keyStatus n).launches = s.launches := rfl
@[simp] theorem State.keyStatus_teams (s : State) (n : Nat) : (s.keyStatus n).teams = s.teams := rfl
@[simp] theorem State.keyStatus_cores (s : State) (n : Nat) : (s.keyStatus n).cores = s.cores := rfl
@[simp] theorem State.keyStatus_cmds (s : State) (n : Nat) : (s.keyStatus n).cmds = s.cmds := rfl
@[simp] theorem State.keyStatus_frags (s : State) (n : Nat) : (s.keyStatus n).frags = s.frags := rfl
@[simp] theorem State.keyStatus_fills (s : State) (n : Nat) : (s.keyStatus n).fills = s.fills := rfl
@[simp] theorem State.keyStatus_acreds (s : State) (n : Nat) : (s.keyStatus n).acreds = s.acreds := rfl
@[simp] theorem State.keyStatus_msgs (s : State) (n : Nat) : (s.keyStatus n).msgs = s.msgs := rfl
@[simp] theorem State.keyStatus_accesses (s : State) (n : Nat) : (s.keyStatus n).accesses = s.accesses := rfl
@[simp] theorem State.keyStatus_tlbs (s : State) (n : Nat) : (s.keyStatus n).tlbs = s.tlbs := rfl
@[simp] theorem State.keyStatus_walks (s : State) (n : Nat) : (s.keyStatus n).walks = s.walks := rfl
@[simp] theorem State.keyStatus_preqs (s : State) (n : Nat) : (s.keyStatus n).preqs = s.preqs := rfl
@[simp] theorem State.keyStatus_walkEnds (s : State) (n : Nat) : (s.keyStatus n).walkEnds = s.walkEnds := rfl
@[simp] theorem State.keyStatus_repls (s : State) (n : Nat) : (s.keyStatus n).repls = s.repls := rfl
@[simp] theorem State.keyStatus_cxq (s : State) (n : Nat) : (s.keyStatus n).cxq = s.cxq := rfl
@[simp] theorem State.keyStatus_pg (s : State) (n : Nat) : (s.keyStatus n).pg = s.pg := rfl
@[simp] theorem State.keyStatus_links (s : State) (n : Nat) : (s.keyStatus n).links = s.links := rfl
@[simp] theorem State.keyStatus_eps (s : State) (n : Nat) : (s.keyStatus n).eps = s.eps := rfl
@[simp] theorem State.keyStatus_nt (s : State) (n : Nat) : (s.keyStatus n).nt = s.nt := rfl
@[simp] theorem State.keyStatus_dbg (s : State) (n : Nat) : (s.keyStatus n).dbg = s.dbg := rfl
@[simp] theorem State.keyStatus_pwr (s : State) (n : Nat) : (s.keyStatus n).pwr = s.pwr := rfl
@[simp] theorem State.keyStatus_harts (s : State) (n : Nat) : (s.keyStatus n).harts = s.harts := rfl
@[simp] theorem State.keyStatus_wires (s : State) (n : Nat) : (s.keyStatus n).wires = s.wires := rfl
@[simp] theorem State.keyStatus_nextId (s : State) (n : Nat) : (s.keyStatus n).nextId = s.nextId := rfl
@[simp] theorem State.keyStatus_nextReq (s : State) (n : Nat) : (s.keyStatus n).nextReq = s.nextReq := rfl
@[simp] theorem State.keyStatus_rr (s : State) (n : Nat) : (s.keyStatus n).rr = s.rr := rfl
@[simp] theorem State.keyStatus_issue (s : State) (n : Nat) : (s.keyStatus n).issue = s.issue := rfl
@[simp] theorem State.keyStatus_inputs (s : State) (n : Nat) : (s.keyStatus n).inputs = s.inputs := rfl
@[simp] theorem State.keyStatus_picks (s : State) (n : Nat) : (s.keyStatus n).picks = s.picks := rfl
@[simp] theorem State.keyStatus_cur (s : State) (n : Nat) : (s.keyStatus n).cur = s.cur := rfl
@[simp] theorem State.keyStatus_free (s : State) (n : Nat) : (s.keyStatus n).free = s.free := rfl

/-! ### `setStep` -/

@[simp] theorem State.setStep_clk (s : State) (d m : Nat) : (s.setStep d m).clk = s.clk := rfl
@[simp] theorem State.setStep_pkg (s : State) (d m : Nat) : (s.setStep d m).pkg = s.pkg := rfl
@[simp] theorem State.setStep_members (s : State) (d m : Nat) : (s.setStep d m).members = s.members := rfl
@[simp] theorem State.setStep_mem (s : State) (d m : Nat) : (s.setStep d m).mem = s.mem := rfl
@[simp] theorem State.setStep_badBytes (s : State) (d m : Nat) : (s.setStep d m).badBytes = s.badBytes := rfl
@[simp] theorem State.setStep_wlog (s : State) (d m : Nat) : (s.setStep d m).wlog = s.wlog := rfl
@[simp] theorem State.setStep_wseq (s : State) (d m : Nat) : (s.setStep d m).wseq = s.wseq := rfl
@[simp] theorem State.setStep_slog (s : State) (d m : Nat) : (s.setStep d m).slog = s.slog := rfl
@[simp] theorem State.setStep_counters (s : State) (d m : Nat) : (s.setStep d m).counters = s.counters := rfl
@[simp] theorem State.setStep_irqs (s : State) (d m : Nat) : (s.setStep d m).irqs = s.irqs := rfl
@[simp] theorem State.setStep_ctxs (s : State) (d m : Nat) : (s.setStep d m).ctxs = s.ctxs := rfl
@[simp] theorem State.setStep_queues (s : State) (d m : Nat) : (s.setStep d m).queues = s.queues := rfl
@[simp] theorem State.setStep_kslots (s : State) (d m : Nat) : (s.setStep d m).kslots = s.kslots := rfl
@[simp] theorem State.setStep_tcache (s : State) (d m : Nat) : (s.setStep d m).tcache = s.tcache := rfl
@[simp] theorem State.setStep_xlates (s : State) (d m : Nat) : (s.setStep d m).xlates = s.xlates := rfl
@[simp] theorem State.setStep_launches (s : State) (d m : Nat) : (s.setStep d m).launches = s.launches := rfl
@[simp] theorem State.setStep_teams (s : State) (d m : Nat) : (s.setStep d m).teams = s.teams := rfl
@[simp] theorem State.setStep_cores (s : State) (d m : Nat) : (s.setStep d m).cores = s.cores := rfl
@[simp] theorem State.setStep_cmds (s : State) (d m : Nat) : (s.setStep d m).cmds = s.cmds := rfl
@[simp] theorem State.setStep_frags (s : State) (d m : Nat) : (s.setStep d m).frags = s.frags := rfl
@[simp] theorem State.setStep_fills (s : State) (d m : Nat) : (s.setStep d m).fills = s.fills := rfl
@[simp] theorem State.setStep_acreds (s : State) (d m : Nat) : (s.setStep d m).acreds = s.acreds := rfl
@[simp] theorem State.setStep_msgs (s : State) (d m : Nat) : (s.setStep d m).msgs = s.msgs := rfl
@[simp] theorem State.setStep_accesses (s : State) (d m : Nat) : (s.setStep d m).accesses = s.accesses := rfl
@[simp] theorem State.setStep_tlbs (s : State) (d m : Nat) : (s.setStep d m).tlbs = s.tlbs := rfl
@[simp] theorem State.setStep_walks (s : State) (d m : Nat) : (s.setStep d m).walks = s.walks := rfl
@[simp] theorem State.setStep_preqs (s : State) (d m : Nat) : (s.setStep d m).preqs = s.preqs := rfl
@[simp] theorem State.setStep_walkEnds (s : State) (d m : Nat) : (s.setStep d m).walkEnds = s.walkEnds := rfl
@[simp] theorem State.setStep_repls (s : State) (d m : Nat) : (s.setStep d m).repls = s.repls := rfl
@[simp] theorem State.setStep_cxq (s : State) (d m : Nat) : (s.setStep d m).cxq = s.cxq := rfl
@[simp] theorem State.setStep_pg (s : State) (d m : Nat) : (s.setStep d m).pg = s.pg := rfl
@[simp] theorem State.setStep_links (s : State) (d m : Nat) : (s.setStep d m).links = s.links := rfl
@[simp] theorem State.setStep_eps (s : State) (d m : Nat) : (s.setStep d m).eps = s.eps := rfl
@[simp] theorem State.setStep_nt (s : State) (d m : Nat) : (s.setStep d m).nt = s.nt := rfl
@[simp] theorem State.setStep_dbg (s : State) (d m : Nat) : (s.setStep d m).dbg = s.dbg := rfl
@[simp] theorem State.setStep_fw (s : State) (d m : Nat) : (s.setStep d m).fw = s.fw := rfl
@[simp] theorem State.setStep_harts (s : State) (d m : Nat) : (s.setStep d m).harts = s.harts := rfl
@[simp] theorem State.setStep_wires (s : State) (d m : Nat) : (s.setStep d m).wires = s.wires := rfl
@[simp] theorem State.setStep_nextId (s : State) (d m : Nat) : (s.setStep d m).nextId = s.nextId := rfl
@[simp] theorem State.setStep_nextReq (s : State) (d m : Nat) : (s.setStep d m).nextReq = s.nextReq := rfl
@[simp] theorem State.setStep_rr (s : State) (d m : Nat) : (s.setStep d m).rr = s.rr := rfl
@[simp] theorem State.setStep_issue (s : State) (d m : Nat) : (s.setStep d m).issue = s.issue := rfl
@[simp] theorem State.setStep_inputs (s : State) (d m : Nat) : (s.setStep d m).inputs = s.inputs := rfl
@[simp] theorem State.setStep_picks (s : State) (d m : Nat) : (s.setStep d m).picks = s.picks := rfl
@[simp] theorem State.setStep_cur (s : State) (d m : Nat) : (s.setStep d m).cur = s.cur := rfl
@[simp] theorem State.setStep_free (s : State) (d m : Nat) : (s.setStep d m).free = s.free := rfl

/-! ### `tick` -/

@[simp] theorem State.tick_pkg (s : State) : (s.tick).pkg = s.pkg := rfl
@[simp] theorem State.tick_members (s : State) : (s.tick).members = s.members := rfl
@[simp] theorem State.tick_mem (s : State) : (s.tick).mem = s.mem := rfl
@[simp] theorem State.tick_badBytes (s : State) : (s.tick).badBytes = s.badBytes := rfl
@[simp] theorem State.tick_wlog (s : State) : (s.tick).wlog = s.wlog := rfl
@[simp] theorem State.tick_wseq (s : State) : (s.tick).wseq = s.wseq := rfl
@[simp] theorem State.tick_slog (s : State) : (s.tick).slog = s.slog := rfl
@[simp] theorem State.tick_counters (s : State) : (s.tick).counters = s.counters := rfl
@[simp] theorem State.tick_irqs (s : State) : (s.tick).irqs = s.irqs := rfl
@[simp] theorem State.tick_ctxs (s : State) : (s.tick).ctxs = s.ctxs := rfl
@[simp] theorem State.tick_queues (s : State) : (s.tick).queues = s.queues := rfl
@[simp] theorem State.tick_kslots (s : State) : (s.tick).kslots = s.kslots := rfl
@[simp] theorem State.tick_tcache (s : State) : (s.tick).tcache = s.tcache := rfl
@[simp] theorem State.tick_xlates (s : State) : (s.tick).xlates = s.xlates := rfl
@[simp] theorem State.tick_cores (s : State) : (s.tick).cores = s.cores := rfl
@[simp] theorem State.tick_cmds (s : State) : (s.tick).cmds = s.cmds := rfl
@[simp] theorem State.tick_frags (s : State) : (s.tick).frags = s.frags := rfl
@[simp] theorem State.tick_fills (s : State) : (s.tick).fills = s.fills := rfl
@[simp] theorem State.tick_acreds (s : State) : (s.tick).acreds = s.acreds := rfl
@[simp] theorem State.tick_msgs (s : State) : (s.tick).msgs = s.msgs := rfl
@[simp] theorem State.tick_accesses (s : State) : (s.tick).accesses = s.accesses := rfl
@[simp] theorem State.tick_tlbs (s : State) : (s.tick).tlbs = s.tlbs := rfl
@[simp] theorem State.tick_walks (s : State) : (s.tick).walks = s.walks := rfl
@[simp] theorem State.tick_preqs (s : State) : (s.tick).preqs = s.preqs := rfl
@[simp] theorem State.tick_walkEnds (s : State) : (s.tick).walkEnds = s.walkEnds := rfl
@[simp] theorem State.tick_repls (s : State) : (s.tick).repls = s.repls := rfl
@[simp] theorem State.tick_cxq (s : State) : (s.tick).cxq = s.cxq := rfl
@[simp] theorem State.tick_pg (s : State) : (s.tick).pg = s.pg := rfl
@[simp] theorem State.tick_links (s : State) : (s.tick).links = s.links := rfl
@[simp] theorem State.tick_eps (s : State) : (s.tick).eps = s.eps := rfl
@[simp] theorem State.tick_nt (s : State) : (s.tick).nt = s.nt := rfl
@[simp] theorem State.tick_dbg (s : State) : (s.tick).dbg = s.dbg := rfl
@[simp] theorem State.tick_fw (s : State) : (s.tick).fw = s.fw := rfl
@[simp] theorem State.tick_pwr (s : State) : (s.tick).pwr = s.pwr := rfl
@[simp] theorem State.tick_harts (s : State) : (s.tick).harts = s.harts := rfl
@[simp] theorem State.tick_wires (s : State) : (s.tick).wires = s.wires := rfl
@[simp] theorem State.tick_nextId (s : State) : (s.tick).nextId = s.nextId := rfl
@[simp] theorem State.tick_nextReq (s : State) : (s.tick).nextReq = s.nextReq := rfl
@[simp] theorem State.tick_rr (s : State) : (s.tick).rr = s.rr := rfl
@[simp] theorem State.tick_issue (s : State) : (s.tick).issue = s.issue := rfl
@[simp] theorem State.tick_picks (s : State) : (s.tick).picks = s.picks := rfl
@[simp] theorem State.tick_free (s : State) : (s.tick).free = s.free := rfl

/-! ### The fields written -/

@[simp] theorem State.setCtx_ctxs (s : State) (n : Nat) (x : Ctx) : (s.setCtx n x).ctxs = aset {} s.ctxs n x := rfl
@[simp] theorem State.setQueue_queues (s : State) (n : Nat) (x : Queue) : (s.setQueue n x).queues = aset {} s.queues n x := rfl
@[simp] theorem State.setCore_cores (s : State) (n : Nat) (x : Core) : (s.setCore n x).cores = aset {} s.cores n x := rfl
@[simp] theorem State.setLink_links (s : State) (n : Nat) (x : Link) : (s.setLink n x).links = aset {} s.links n x := rfl
@[simp] theorem State.setEp_eps (s : State) (n : Nat) (x : Ep) : (s.setEp n x).eps = aset {} s.eps n x := rfl
@[simp] theorem State.irq_irqs (s : State) (i : Irq) : (s.irq i).irqs = s.irqs ++ [i] := rfl
@[simp] theorem State.poke_mem (s : State) (pa : Nat) (bs : List Byte) : (s.poke pa bs).mem = writeBytes s.mem pa bs := rfl
@[simp] theorem State.putNat_mem (s : State) (pa n v : Nat) : (s.putNat pa n v).mem = writeBytes s.mem pa (leBytes n v) := rfl
@[simp] theorem State.tick_clk (s : State) : s.tick.clk = s.clk + 1 := rfl
@[simp] theorem State.tick_cur (s : State) : s.tick.cur = none := rfl
@[simp] theorem State.tick_inputs (s : State) : s.tick.inputs = s.inputs.map fun i => { i with after := i.after - 1 } := rfl

/-! ### An entry read back -/

theorem State.ctx_setCtx (s : State) (n : Nat) (x : Ctx) (k : Nat) : (s.setCtx n x).ctx k = if k = n then x else s.ctx k :=
  aget_aset ({} : Ctx) s.ctxs n x k
theorem State.queue_setQueue (s : State) (n : Nat) (x : Queue) (k : Nat) :
    (s.setQueue n x).queue k = if k = n then x else s.queue k := aget_aset ({} : Queue) s.queues n x k
theorem State.core_setCore (s : State) (n : Nat) (x : Core) (k : Nat) : (s.setCore n x).core k = if k = n then x else s.core k :=
  aget_aset ({} : Core) s.cores n x k
theorem State.link_setLink (s : State) (n : Nat) (x : Link) (k : Nat) : (s.setLink n x).link k = if k = n then x else s.link k :=
  aget_aset ({} : Link) s.links n x k
theorem State.ep_setEp (s : State) (n : Nat) (x : Ep) (k : Nat) : (s.setEp n x).ep k = if k = n then x else s.ep k :=
  aget_aset ({} : Ep) s.eps n x k
@[simp] theorem State.ctx_setCtx_same (s : State) (n : Nat) (x : Ctx) : (s.setCtx n x).ctx n = x := by simp [State.ctx_setCtx]
@[simp] theorem State.queue_setQueue_same (s : State) (n : Nat) (x : Queue) : (s.setQueue n x).queue n = x := by
  simp [State.queue_setQueue]
@[simp] theorem State.core_setCore_same (s : State) (n : Nat) (x : Core) : (s.setCore n x).core n = x := by
  simp [State.core_setCore]
@[simp] theorem State.link_setLink_same (s : State) (n : Nat) (x : Link) : (s.setLink n x).link n = x := by
  simp [State.link_setLink]
@[simp] theorem State.ep_setEp_same (s : State) (n : Nat) (x : Ep) : (s.setEp n x).ep n = x := by simp [State.ep_setEp]

/-! ### One group or thread set changed -/

/-- A changed group is a changed team. -/
theorem State.onGroup_eq (s : State) (n k : Nat) (f : Group → Group) :
    s.onGroup n k f = s.onTeam n fun t => { t with groups := lreplace (fun x => x.index == k) f t.groups } := rfl

/-- A changed thread set is a changed group. -/
theorem State.onTset_eq (s : State) (c : Cur) (f : TSet → TSet) :
    s.onTset c f = s.onGroup c.1 c.2.1 fun g => { g with tsets := lreplace (fun x => x.id == c.2.2) f g.tsets } := rfl

end Sys2Proof.Machine
end

