-- ==== Sys2Proof/Laws/View.lean ====
section
/-!
SUPPORT. Laws of access: finding an element after a replacement, the view of a thread set after its group is replaced, and
what issuing a word does (`liftWord_go`).
-/
namespace Sys2Proof.Machine

variable {α : Type}

/-- The first element that satisfies a test, after the first that does was replaced by one that does too. -/
theorem find_lreplace (p : α → Bool) (f : α → α) (hf : ∀ x, p x = true → p (f x) = true) (l : List α) :
    (lreplace p f l).find? p = (l.find? p).map f := by
  induction l with
  | nil => rfl
  | cons x xs ih =>
    by_cases h : p x = true
    · simp [lreplace, h, hf x h]
    · simp [lreplace, h, ih]

/-- Elements of another test are found as before. -/
theorem find_lreplace_other (p q : α → Bool) (f : α → α) (hf : ∀ x, p x = true → q (f x) = q x ∧ q x = false)
    (l : List α) : (lreplace p f l).find? q = l.find? q := by
  induction l with
  | nil => rfl
  | cons x xs ih =>
    by_cases h : p x = true
    · have := hf x h
      simp [lreplace, h, this.1, this.2]
    · simp [lreplace, h, List.find?_cons, ih]

/-- Replacing by a function that agrees with the identity there changes nothing. -/
theorem lreplace_find (p : α → Bool) (f g : α → α) (l : List α) (h : ∀ x, l.find? p = some x → f x = g x) :
    lreplace p f l = lreplace p g l := by
  induction l with
  | nil => rfl
  | cons x xs ih =>
    by_cases hx : p x = true
    · simp [lreplace, hx, h x (by simp [hx])]
    · have := ih fun y hy => h y (by simpa [hx] using hy)
      simp [lreplace, hx, this]

/-! ### The view -/

theorem view_team {s : State} {c : Cur} {t : Team} {g : Group} {ts : TSet} (h : s.view c = some (t, g, ts)) :
    s.team? c.1 = some t ∧ t.group? c.2.1 = some g ∧ g.tset? c.2.2 = some ts := by
  unfold State.view at h
  split at h
  · simp at h
  · split at h
    · simp at h
    · split at h
      · simp at h
      · simp only [Option.some.injEq, Prod.mk.injEq] at h
        obtain ⟨rfl, rfl, rfl⟩ := h
        exact ⟨‹_›, ‹_›, ‹_›⟩

theorem view_ids {s : State} {c : Cur} {t : Team} {g : Group} {ts : TSet} (h : s.view c = some (t, g, ts)) :
    t.id = c.1 ∧ g.index = c.2.1 ∧ ts.id = c.2.2 := by
  obtain ⟨h1, h2, h3⟩ := view_team h
  exact ⟨by simpa using List.find?_some h1, by simpa using List.find?_some h2, by simpa using List.find?_some h3⟩

/-- A group replaced by one that holds `ts1` in the place of its thread set `ts`: only it has changed. -/
theorem onGroup_only {s : State} {c : Cur} {t : Team} {g : Group} {ts : TSet} (h : s.view c = some (t, g, ts))
    (g1 : Group) (ts1 : TSet) (n : Nat) (hi : g1.index = g.index) (hs : g1.tsets = g.tsets) (ht : ts1.id = ts.id) :
    OnlyGroup s { s.onGroup c.1 c.2.1 (fun _ => g1.setTset ts1) with free := n } c t g (g1.setTset ts1) ts1 := by
  obtain ⟨h1, h2, h3⟩ := view_team h
  obtain ⟨i1, i2, i3⟩ := view_ids h
  have hset : (g1.setTset ts1).tset? c.2.2 = some ts1 := by
    unfold Group.tset? Group.setTset at *
    simp only [hs, ht, i3]
    rw [find_lreplace _ _ (fun x _ => by simp [ht, i3])]
    simp [h3]
  have hgr : ∀ t' : Team, t'.group? c.2.1 = some g →
      ({ t' with groups := lreplace (fun x => x.index == c.2.1) (fun _ => g1.setTset ts1) t'.groups } : Team).group? c.2.1 =
        some (g1.setTset ts1) := by
    intro t' ht'
    unfold Team.group? at *
    simp only
    rw [find_lreplace _ _ (fun x _ => by simp [Group.setTset, hi, i2])]
    simp [ht']
  have hteam : ∀ k : Nat, ({ s.onGroup c.1 c.2.1 (fun _ => g1.setTset ts1) with free := n } : State).team? k =
      if k = c.1 then some { t with groups := lreplace (fun x => x.index == c.2.1) (fun _ => g1.setTset ts1) t.groups }
      else s.team? k := by
    intro k
    unfold State.team? State.onGroup State.onTeam at *
    by_cases hk : k = c.1
    · subst hk
      simp only [if_true]
      rw [find_lreplace _ _ (fun x hx => by simpa using hx)]
      simp [h1]
    · simp only [if_neg hk]
      refine find_lreplace_other _ _ _ (fun x hx => ?_) _
      simp only [beq_iff_eq] at hx
      simp only [hx, true_and, beq_eq_false_iff_ne]
      omega
  refine ⟨⟨{ t with groups := lreplace (fun x => x.index == c.2.1) (fun _ => g1.setTset ts1) t.groups }, ?_, rfl⟩,
    ?_, ?_, rfl⟩
  · unfold State.view
    rw [hteam]
    simp only [if_true, hgr t h2, hset]
  · intro k hk
    unfold Group.tset? Group.setTset
    simp only [hs]
    refine find_lreplace_other _ _ _ (fun x hx => ?_) _
    simp only [beq_iff_eq, ht, i3] at hx
    simp only [ht, i3, hx, true_and, beq_eq_false_iff_ne]
    omega
  · intro d hd
    unfold State.view
    rw [hteam]
    by_cases hk : d.1 = c.1
    · have hd2 : d.2.1 ≠ c.2.1 := by
        rcases hd with hd | hd
        · exact absurd hk hd
        · exact hd
      have hoth : ({ t with groups := lreplace (fun x => x.index == c.2.1) (fun _ => g1.setTset ts1) t.groups } : Team).group?
          d.2.1 = t.group? d.2.1 := by
        unfold Team.group?
        refine find_lreplace_other _ _ _ (fun x hx => ?_) _
        simp only [beq_iff_eq] at hx
        simp only [Group.setTset, hi, i2, hx, true_and, beq_eq_false_iff_ne]
        omega
      rw [if_pos hk, hk, h1]
      simp only [hoth]
      cases t.group? d.2.1 with
      | none => rfl
      | some g2 =>
        simp only
        cases g2.tset? d.2.2 <;> rfl
    · rw [if_neg hk]

/-! ### Issuing a word (R48) -/

/-- What `liftWord` answers for the issuing set, by the word's effect. -/
theorem liftWord_eq {s : State} {c : Cur} {t : Team} {g : Group} {ts : TSet} (h : Issues s c t g ts) (grd : BitVec 4)
    (eff : State → Team → W → Eff) :
    liftWord grd eff s =
      match (if activeLanes g ts grd = [] then Eff.go s (s.wordWindow t g ts grd) else eff s t (s.wordWindow t g ts grd)) with
      | .go s1 w1 => .next (s1.putWindow c { w1 with ts := w1.ts.advance s.clk })
      | .err e => .next (s.faultAt c ts.pc e)
      | .wait s1 w1 p => .next (s1.putWindow c { w1 with ts := w1.ts.park p }) := by
  unfold liftWord
  simp only [h.cur, h.view]
  rfl

/-- A word that goes on from the same machine state replaces its group and nothing else. -/
theorem liftWord_go {s : State} {c : Cur} {t : Team} {g : Group} {ts : TSet} (h : Issues s c t g ts) {grd : BitVec 4}
    {eff : State → Team → W → Eff} {w1 : W}
    (he : (if activeLanes g ts grd = [] then Eff.go s (s.wordWindow t g ts grd) else eff s t (s.wordWindow t g ts grd)) =
      .go s w1)
    (hi : w1.grp.index = g.index) (hs : w1.grp.tsets = g.tsets) (ht : w1.ts.id = ts.id) :
    ∃ s1 : State, liftWord grd eff s = .next s1 ∧
      OnlyGroup s s1 c t g (w1.grp.setTset (w1.ts.advance s.clk)) (w1.ts.advance s.clk) := by
  refine ⟨_, by rw [liftWord_eq h, he], ?_⟩
  exact onGroup_only h.view w1.grp (w1.ts.advance s.clk) _ hi hs ht

end Sys2Proof.Machine
end

