-- ==== Sys2Proof/Laws/Window.lean ====
section
/-!
SUPPORT. Laws of a word's window: what each write of a destination leaves (`dst_wrote`, `dstPred_wrote`), and the fields
that the operations on a window keep.
-/
namespace Sys2Proof.Machine

/-! ### One lemma per field per update -/

@[simp] theorem W.raise_grp (w : W) (f : Flags) : (w.raise f).grp = w.grp := rfl
@[simp] theorem W.raise_act (w : W) (f : Flags) : (w.raise f).act = w.act := rfl
@[simp] theorem W.raise_env (w : W) (f : Flags) : (w.raise f).env = w.env := rfl
@[simp] theorem W.raise_free (w : W) (f : Flags) : (w.raise f).free = w.free := rfl
@[simp] theorem W.raise_fl (w : W) (f : Flags) : (w.raise f).ts.fl = w.ts.fl ||| f := rfl
@[simp] theorem W.raise_temps (w : W) (f : Flags) : (w.raise f).ts.temps = w.ts.temps := rfl
@[simp] theorem W.raise_gOv (w : W) (f : Flags) : (w.raise f).ts.gOv = w.ts.gOv := rfl
@[simp] theorem W.hold_grp (w : W) (a : Act) : (w.hold a).grp = w.grp := rfl
@[simp] theorem W.hold_act (w : W) (a : Act) : (w.hold a).act = w.act := rfl
@[simp] theorem W.hold_free (w : W) (a : Act) : (w.hold a).free = w.free := rfl
@[simp] theorem W.hold_held (w : W) (a : Act) : (w.hold a).ts.held =
    ⟨w.ts.pc, w.act, a, w.act.headD 0⟩ :: w.ts.held := rfl
@[simp] theorem TSet.advance_pc (ts : TSet) (k : Nat) : (ts.advance k).pc = ts.pc + 1 := rfl
@[simp] theorem TSet.advance_phase (ts : TSet) (k : Nat) : (ts.advance k).phase = .ready := rfl
@[simp] theorem TSet.advance_id (ts : TSet) (k : Nat) : (ts.advance k).id = ts.id := rfl
@[simp] theorem TSet.advance_temps (ts : TSet) (k : Nat) : (ts.advance k).temps = ts.temps := rfl
@[simp] theorem TSet.advance_gOv (ts : TSet) (k : Nat) : (ts.advance k).gOv = ts.gOv := rfl
@[simp] theorem TSet.advance_held (ts : TSet) (k : Nat) : (ts.advance k).held = ts.held := rfl
@[simp] theorem TSet.advance_fl (ts : TSet) (k : Nat) : (ts.advance k).fl = ts.fl := rfl
@[simp] theorem TSet.advance_lanes (ts : TSet) (k : Nat) : (ts.advance k).lanes = ts.lanes := rfl
@[simp] theorem TSet.park_phase (ts : TSet) (p : Park) : (ts.park p).phase = .parked p := rfl
@[simp] theorem TSet.park_pc (ts : TSet) (p : Park) : (ts.park p).pc = ts.pc := rfl
@[simp] theorem TSet.park_id (ts : TSet) (p : Park) : (ts.park p).id = ts.id := rfl

/-! ### Writes of one register of a list of lanes -/

/-- Lane registers written in a list of lanes: the rest of the window is kept, but for the undo list. -/
theorem foldl_vWrite_rest (n : Nat) (vals : List (Nat × Reg)) (w : W) :
    let w1 := vals.foldl (fun w' e => w'.vWrite n e.1 e.2) w
    w1 = { w with grp := { w.grp with v := w1.grp.v }, ts := { w.ts with undoV := w1.ts.undoV } } := by
  induction vals generalizing w with
  | nil => rfl
  | cons e es ih =>
    have := ih (w.vWrite n e.1 e.2)
    simp only [List.foldl_cons] at this ⊢
    rw [this]
    rfl

/-- A lane register that is not written reads as before. -/
theorem foldl_vWrite_other (n : Nat) (vals : List (Nat × Reg)) (w : W) (k : Nat) (h : ∀ e ∈ vals, k ≠ laneKey n e.1) :
    aget marker (vals.foldl (fun w' e => w'.vWrite n e.1 e.2) w).grp.v k = aget marker w.grp.v k := by
  induction vals generalizing w with
  | nil => rfl
  | cons e es ih =>
    rw [List.foldl_cons, ih _ fun x hx => h x (List.mem_cons_of_mem _ hx)]
    exact aget_aset_ne _ _ _ (h e List.mem_cons_self)

theorem laneKey_inj {n l m : Nat} : laneKey n l = laneKey n m ↔ l = m := by
  unfold laneKey; omega

/-- A lane register that is written holds its value. -/
theorem foldl_vWrite_same (n : Nat) (val : Nat → Reg) (ls : List Nat) (w : W) (l : Nat) (h : l ∈ ls) :
    aget marker ((ls.map fun l => (l, val l)).foldl (fun w' e => w'.vWrite n e.1 e.2) w).grp.v (laneKey n l) = val l := by
  induction ls generalizing w with
  | nil => simp at h
  | cons e es ih =>
    rw [List.map_cons, List.foldl_cons]
    by_cases he : l ∈ es
    · exact ih _ he
    · have hl : l = e := by simpa [he] using h
      subst hl
      rw [foldl_vWrite_other]
      · simp [W.vWrite]
      · intro x hx
        obtain ⟨m, hm, rfl⟩ := List.mem_map.1 hx
        simp only [ne_eq, laneKey_inj]
        rintro rfl
        exact he hm

/-- Temporaries written in a list of lanes. -/
theorem foldl_tWrite (i : Nat) (vals : List (Nat × Reg)) (w : W) :
    vals.foldl (fun w' e => w'.tWrite i e.1 e.2) w =
      { w with ts := { w.ts with temps := (vals.map fun e => (laneKey i e.1, e.2)).reverse ++ w.ts.temps } } := by
  induction vals generalizing w with
  | nil => rfl
  | cons e es ih =>
    rw [List.foldl_cons, ih]
    simp [W.tWrite]

/-! ### Destinations -/

/-- The first entry of a key in a list of writes to one temporary. -/
theorem find_temps_same (i : Nat) (val : Nat → Reg) (ls : List Nat) (rest : List (Nat × Reg)) (l : Nat) (h : l ∈ ls) :
    (((ls.map fun l => (l, val l)).map fun e => (laneKey i e.1, e.2)).reverse ++ rest).find?
      (fun e => e.1 == laneKey i l) = some (laneKey i l, val l) := by
  rw [List.find?_append]
  have hm : (laneKey i l, val l) ∈ ((ls.map fun l => (l, val l)).map fun e => (laneKey i e.1, e.2)).reverse := by
    simp only [List.mem_reverse, List.mem_map]
    exact ⟨(l, val l), ⟨l, h, rfl⟩, rfl⟩
  cases hf : (((ls.map fun l => (l, val l)).map fun e => (laneKey i e.1, e.2)).reverse).find?
      (fun e => e.1 == laneKey i l) with
  | none => simpa using List.find?_eq_none.1 hf _ hm
  | some x =>
    have h1 := List.find?_some hf
    have h2 := List.mem_of_find?_eq_some hf
    simp only [List.mem_reverse, List.mem_map] at h2
    obtain ⟨e, ⟨m, -, rfl⟩, rfl⟩ := h2
    simp only [beq_iff_eq, laneKey_inj] at h1
    subst h1
    rfl

theorem find_temps_other (i : Nat) (val : Nat → Reg) (ls : List Nat) (rest : List (Nat × Reg)) (k : Nat)
    (h : ∀ l ∈ ls, k ≠ laneKey i l) :
    (((ls.map fun l => (l, val l)).map fun e => (laneKey i e.1, e.2)).reverse ++ rest).find? (fun e => e.1 == k) =
      rest.find? fun e => e.1 == k := by
  rw [List.find?_append]
  have : (((ls.map fun l => (l, val l)).map fun e => (laneKey i e.1, e.2)).reverse).find? (fun e => e.1 == k) = none := by
    rw [List.find?_eq_none]
    intro x hx
    simp only [List.mem_reverse, List.mem_map] at hx
    obtain ⟨e, ⟨m, hm, rfl⟩, rfl⟩ := hx
    simpa using Ne.symm (h m hm)
  rw [this]
  rfl

/-- What a write of a register destination leaves. -/
theorem dst_wrote (w : W) (o : Opd) (val : Nat → Reg) : Wrote w (w.dst o val) o val := by
  have other (o' : Opd) (h : w.dst o' val = w) (hv : ∀ n, o' ≠ .v n) (hg : ∀ n, o' ≠ .g n) (ht : ∀ i, o' ≠ .t i) :
      Wrote w (w.dst o' val) o' val := by
    rw [h]
    exact ⟨fun n _ e => absurd e (hv n), fun _ _ => rfl, fun n e => absurd e (hg n), fun _ _ => rfl,
      fun i _ e => absurd e (ht i), fun _ _ _ => rfl, rfl⟩
  cases o with
  | v n =>
    have hr := foldl_vWrite_rest n.toNat (w.act.map fun l => (l, val l)) w
    refine ⟨?_, ?_, by simp, ?_, by simp, ?_, ?_⟩
    · intro m l e hl
      cases e
      exact foldl_vWrite_same _ val _ w l hl
    · intro k hk
      refine foldl_vWrite_other _ _ w k fun e he => ?_
      obtain ⟨l, hl, rfl⟩ := List.mem_map.1 he
      exact hk n l rfl hl
    · intro k _
      simp only [W.dst] at *
      unfold W.gRead
      rw [hr]
    · intro i l _
      simp only [W.dst] at *
      unfold W.tRead
      rw [hr]
    · simp only [W.dst] at *
      rw [hr]
  | g n =>
    cases ha : w.act with
    | nil =>
      have : w.dst (.g n) val = w := by simp [W.dst, ha]
      rw [this]
      exact ⟨by simp, fun _ _ => rfl, fun _ _ h => absurd ha h, fun _ _ => rfl, by simp, fun _ _ _ => rfl, rfl⟩
    | cons l ls =>
      have : w.dst (.g n) val = w.gWrite n.toNat (val l) := by simp [W.dst, ha]
      rw [this]
      refine ⟨by simp, fun _ _ => rfl, ?_, ?_, by simp, fun _ _ _ => rfl, rfl⟩
      · intro m e _
        cases e
        simp [W.gWrite, W.gRead, overlay, W.low, ha]
      · intro k hk
        have hne := hk n rfl (by simp [ha])
        simp only [W.gWrite, W.gRead, overlay]
        rw [List.find?_cons_of_neg]
        simpa using Ne.symm hne
  | t i =>
    have hr := foldl_tWrite i.val (w.act.map fun l => (l, val l)) w
    have hd : w.dst (.t i) val = (w.act.map fun l => (l, val l)).foldl (fun w' e => w'.tWrite i.val e.1 e.2) w := rfl
    rw [hd, hr]
    refine ⟨by simp, fun _ _ => rfl, by simp, fun _ _ => rfl, ?_, ?_, rfl⟩
    · intro j l e hl
      cases e
      unfold W.tRead
      simp only [find_temps_same i.val val w.act w.ts.temps l hl]
    · intro j l hk
      unfold W.tRead
      simp only
      rw [find_temps_other i.val val w.act w.ts.temps (laneKey j l) fun m hm => hk i m rfl hm]
  | p _ => exact other _ rfl (by simp) (by simp) (by simp)
  | ls _ => exact other _ rfl (by simp) (by simp) (by simp)
  | s _ => exact other _ rfl (by simp) (by simp) (by simp)
  | b _ => exact other _ rfl (by simp) (by simp) (by simp)
  | sr _ => exact other _ rfl (by simp) (by simp) (by simp)
  | a _ => exact other _ rfl (by simp) (by simp) (by simp)
  | f _ => exact other _ rfl (by simp) (by simp) (by simp)
  | nx _ => exact other _ rfl (by simp) (by simp) (by simp)
  | z => exact other _ rfl (by simp) (by simp) (by simp)
  | imm _ => exact other _ rfl (by simp) (by simp) (by simp)

/-- A write of a register destination changes registers, temporaries and overlays only. -/
theorem dst_rest (w : W) (o : Opd) (val : Nat → Reg) :
    w.dst o val = { w with
      grp := { w.grp with v := (w.dst o val).grp.v }
      ts := { w.ts with
        temps := (w.dst o val).ts.temps, undoV := (w.dst o val).ts.undoV, gOv := (w.dst o val).ts.gOv } } := by
  cases o with
  | v n => exact (foldl_vWrite_rest n.toNat (w.act.map fun l => (l, val l)) w).trans (by
      have hr := foldl_vWrite_rest n.toNat (w.act.map fun l => (l, val l)) w
      simp only [W.dst] at *
      rw [hr])
  | g n => obtain ⟨env, act, grp, ts, free⟩ := w; cases act <;> rfl
  | t i =>
    have hr := foldl_tWrite i.val (w.act.map fun l => (l, val l)) w
    have hd : w.dst (.t i) val = (w.act.map fun l => (l, val l)).foldl (fun w' e => w'.tWrite i.val e.1 e.2) w := rfl
    rw [hd, hr]
  | _ => rfl

/-! ### Predicates -/

theorem predBits_zero (g : Group) (l : Nat) : g.pred l 0 = true := by
  unfold Group.pred Group.predBits
  rw [BitVec.getLsbD_or]
  simp

/-- Predicate `j` of a lane after a write of the bits. -/
theorem pred_predBitsWrite (w : W) (lane : Nat) (x : BitVec 8) (l j : Nat) :
    (w.predBitsWrite lane x).grp.pred l j = if l = lane then (x.getLsbD j || decide (j = 0)) else w.grp.pred l j := by
  unfold W.predBitsWrite Group.pred Group.predBits
  simp only [aget_aset]
  by_cases hl : l = lane
  · simp only [hl, if_true]
    rw [BitVec.getLsbD_or, BitVec.getLsbD_and]
    by_cases hj : j < 8
    · have : j = 0 ∨ j = 1 ∨ j = 2 ∨ j = 3 ∨ j = 4 ∨ j = 5 ∨ j = 6 ∨ j = 7 := by omega
      rcases this with rfl | rfl | rfl | rfl | rfl | rfl | rfl | rfl <;> simp
    · have h1 : x.getLsbD j = false := BitVec.getLsbD_of_ge _ _ (by omega)
      have h2 : (1 : BitVec 8).getLsbD j = false := BitVec.getLsbD_of_ge _ _ (by omega)
      have h3 : j ≠ 0 := by omega
      simp [h1, h3]
  · simp only [hl, if_false]

/-- Predicate `j` of a lane after a write of one. -/
theorem pred_predWrite (w : W) (lane i : Nat) (hi : i ≠ 0) (h8 : i < 8) (b : Bool) (l j : Nat) :
    (w.predWrite lane i b).grp.pred l j = if l = lane ∧ j = i then b else w.grp.pred l j := by
  unfold W.predWrite
  simp only [pred_predBitsWrite]
  by_cases hl : l = lane
  · subst hl
    simp only [true_and, if_true]
    have hp : ∀ j, w.grp.pred l j = (w.grp.predBits l).getLsbD j := fun _ => rfl
    have h0 : w.grp.pred l 0 = true := predBits_zero _ _
    by_cases hj : j < 8
    · have hj' : j = 0 ∨ j = 1 ∨ j = 2 ∨ j = 3 ∨ j = 4 ∨ j = 5 ∨ j = 6 ∨ j = 7 := by omega
      have hi' : i = 1 ∨ i = 2 ∨ i = 3 ∨ i = 4 ∨ i = 5 ∨ i = 6 ∨ i = 7 := by omega
      rcases hi' with rfl | rfl | rfl | rfl | rfl | rfl | rfl <;>
        rcases hj' with rfl | rfl | rfl | rfl | rfl | rfl | rfl | rfl <;>
        cases b <;> simp_all
    · have hji : j ≠ i := by omega
      have hj0 : j ≠ 0 := by omega
      have h1 : ∀ y : BitVec 8, y.getLsbD j = false := fun y => BitVec.getLsbD_of_ge _ _ (by omega)
      simp [hp, hji, hj0, h1]
  · simp [hl]

theorem foldl_predWrite_rest (i : Nat) (vals : List (Nat × Bool)) (w : W) :
    let w1 := vals.foldl (fun w' e => w'.predWrite e.1 i e.2) w
    w1 = { w with grp := { w.grp with p := w1.grp.p }, ts := { w.ts with undoP := w1.ts.undoP } } := by
  induction vals generalizing w with
  | nil => rfl
  | cons e es ih =>
    have := ih (w.predWrite e.1 i e.2)
    simp only [List.foldl_cons] at this ⊢
    rw [this]
    rfl

theorem foldl_predWrite_other (i : Nat) (hi : i ≠ 0) (h8 : i < 8) (vals : List (Nat × Bool)) (w : W) (l j : Nat)
    (h : ∀ e ∈ vals, ¬(l = e.1 ∧ j = i)) :
    (vals.foldl (fun w' e => w'.predWrite e.1 i e.2) w).grp.pred l j = w.grp.pred l j := by
  induction vals generalizing w with
  | nil => rfl
  | cons e es ih =>
    rw [List.foldl_cons, ih _ fun x hx => h x (List.mem_cons_of_mem _ hx), pred_predWrite _ _ _ hi h8,
      if_neg (h e List.mem_cons_self)]

theorem foldl_predWrite_same (i : Nat) (hi : i ≠ 0) (h8 : i < 8) (val : Nat → Bool) (ls : List Nat) (w : W) (l : Nat)
    (h : l ∈ ls) :
    ((ls.map fun l => (l, val l)).foldl (fun w' e => w'.predWrite e.1 i e.2) w).grp.pred l i = val l := by
  induction ls generalizing w with
  | nil => simp at h
  | cons e es ih =>
    rw [List.map_cons, List.foldl_cons]
    by_cases he : l ∈ es
    · exact ih _ he
    · have hl : l = e := by simpa [he] using h
      subst hl
      rw [foldl_predWrite_other i hi h8]
      · simp [pred_predWrite _ _ _ hi h8]
      · intro x hx
        obtain ⟨m, hm, rfl⟩ := List.mem_map.1 hx
        rintro ⟨rfl, -⟩
        exact he hm

/-- What a write of a predicate destination leaves. -/
theorem dstPred_wrote (w : W) (o : Opd) (val : Nat → Bool) : WrotePred w (w.dstPred o val) o val := by
  have other (o' : Opd) (h : w.dstPred o' val = w) (hp : ∀ i, o' = .p i → i.val = 0) :
      WrotePred w (w.dstPred o' val) o' val := by
    rw [h]
    exact ⟨fun i _ e h0 => absurd (hp i e) h0, fun _ => predBits_zero _ _, fun _ _ _ => rfl, rfl, rfl, rfl⟩
  cases o with
  | p i =>
    by_cases hi : i.val = 0
    · exact other _ (by simp [W.dstPred, hi]) fun j e => by cases e; exact hi
    · have hd : w.dstPred (.p i) val = (w.act.map fun l => (l, val l)).foldl (fun w' e => w'.predWrite e.1 i.val e.2) w := by
        simp [W.dstPred, hi]
      have hr := foldl_predWrite_rest i.val (w.act.map fun l => (l, val l)) w
      rw [hd]
      refine ⟨?_, fun _ => predBits_zero _ _, ?_, ?_, ?_⟩
      · intro j l e _ hl
        cases e
        exact foldl_predWrite_same _ hi i.isLt val _ w l hl
      · intro l j hk
        refine foldl_predWrite_other _ hi i.isLt _ w l j fun e he => ?_
        obtain ⟨m, hm, rfl⟩ := List.mem_map.1 he
        rintro ⟨rfl, rfl⟩
        exact hk i rfl hi hm rfl
      · rw [hr]
      · rw [hr]; exact ⟨rfl, rfl⟩
  | _ => exact other _ rfl (by simp)

/-- A write of a predicate destination changes predicates only. -/
theorem dstPred_rest (w : W) (o : Opd) (val : Nat → Bool) :
    w.dstPred o val = { w with
      grp := { w.grp with p := (w.dstPred o val).grp.p }, ts := { w.ts with undoP := (w.dstPred o val).ts.undoP } } := by
  cases o with
  | p i =>
    by_cases hi : i.val = 0
    · simp [W.dstPred, hi]
    · have hd : w.dstPred (.p i) val = (w.act.map fun l => (l, val l)).foldl (fun w' e => w'.predWrite e.1 i.val e.2) w := by
        simp [W.dstPred, hi]
      rw [hd]
      exact foldl_predWrite_rest i.val (w.act.map fun l => (l, val l)) w
  | _ => rfl

end Sys2Proof.Machine
end

