-- ==== Sys2Proof/Laws/Words.lean ====
section
/-!
SUPPORT. What issuing a word does, once for each shape of word: one that writes a register or a predicate, one that holds an
act, one that faults, and one with no active lane.
-/
namespace Sys2Proof.Machine

variable {s : State} {c : Cur} {t : Team} {g : Group} {ts : TSet}

/-- A word that goes on with the window `w1`, from the same machine state. -/
theorem liftWord_window (h : Issues s c t g ts) {grd : BitVec 4} {eff : State → Team → W → Eff} {w1 : W}
    (ha : activeLanes g ts grd ≠ []) (he : eff s t (s.wordWindow t g ts grd) = .go s w1)
    (hi : w1.grp.index = g.index) (hs : w1.grp.tsets = g.tsets) (ht : w1.ts.id = ts.id) :
    ∃ s1 : State, liftWord grd eff s = .next s1 ∧
      OnlyGroup s s1 c t g (w1.grp.setTset (w1.ts.advance s.clk)) (w1.ts.advance s.clk) :=
  liftWord_go h (by rw [if_neg ha, he]) hi hs ht

/-- A word that faults takes its fault (R52, R65). -/
theorem liftWord_err (h : Issues s c t g ts) {grd : BitVec 4} {eff : State → Team → W → Eff} {e : FInfo}
    (ha : activeLanes g ts grd ≠ []) (he : eff s t (s.wordWindow t g ts grd) = .err e) :
    liftWord grd eff s = .next (s.faultAt c ts.pc e) := by
  rw [liftWord_eq h, if_neg ha, he]

/-- A word with no active lane has no effect (R48). -/
theorem liftWord_idle (h : Issues s c t g ts) {grd : BitVec 4} {eff : State → Team → W → Eff}
    (ha : activeLanes g ts grd = []) :
    ∃ s1 : State, liftWord grd eff s = .next s1 ∧ OnlyGroup s s1 c t g (g.setTset (ts.advance s.clk)) (ts.advance s.clk) :=
  liftWord_go h (w1 := s.wordWindow t g ts grd) (by rw [if_pos ha]) rfl rfl rfl

theorem advanced_advance (ts x : TSet) (k : Nat)
    (h : { x with
      temps := ts.temps, undoV := ts.undoV, undoP := ts.undoP, gOv := ts.gOv, lsOv := ts.lsOv, seedOv := ts.seedOv,
      recOv := ts.recOv, profOv := ts.profOv, fl := ts.fl, flWrite := ts.flWrite, held := ts.held, hot := ts.hot,
      prot := ts.prot } = ts) : Advanced ts (x.advance k) := by
  refine ⟨?_, rfl, ?_⟩
  · have := congrArg TSet.pc h
    simp only [TSet.advance_pc]
    simp only at this
    omega
  · conv_rhs => rw [← h]
    have e1 := congrArg TSet.pc h
    have e2 := congrArg TSet.phase h
    have e3 := congrArg TSet.fresh h
    have e4 := congrArg TSet.got h
    have e5 := congrArg TSet.got2 h
    have e6 := congrArg TSet.met h
    have e7 := congrArg TSet.aliases h
    have e8 := congrArg TSet.readyAt h
    simp only at e1 e2 e3 e4 e5 e6 e7 e8
    simp only [TSet.advance, e1, e2, e3, e4, e5, e6, e7, e8]

/-- A word that writes a register destination and raises flags does that and nothing else. -/
theorem word_dst (h : Issues s c t g ts) {grd : BitVec 4} {eff : State → Team → W → Eff} {o : Opd} {val : Nat → Reg}
    {fl : Flags} (ha : activeLanes g ts grd ≠ [])
    (he : eff s t (s.wordWindow t g ts grd) = .go s (((s.wordWindow t g ts grd).dst o val).raise fl)) :
    ∃ s1 g1 ts1, liftWord grd eff s = .next s1 ∧ OnlyGroup s s1 c t g g1 ts1 ∧ Advanced ts ts1 ∧
      Wrote (s.wordWindow t g ts grd) { s.wordWindow t g ts grd with grp := g1, ts := ts1 } o val ∧
      ts1.fl = ts.fl ||| fl ∧ SameActs ts ts1 := by
  have hr := dst_rest (s.wordWindow t g ts grd) o val
  have hi : ((s.wordWindow t g ts grd).dst o val).grp.index = g.index := by rw [hr]; rfl
  have hs : ((s.wordWindow t g ts grd).dst o val).grp.tsets = g.tsets := by rw [hr]; rfl
  have ht : ((s.wordWindow t g ts grd).dst o val).ts.id = ts.id := by rw [hr]; rfl
  obtain ⟨s1, h1, h2⟩ := liftWord_window h ha he hi hs ht
  refine ⟨s1, _, _, h1, h2, advanced_advance _ _ _ ?_, ?_, ?_, ?_⟩
  · rw [hr]; rfl
  · have hw := dst_wrote (s.wordWindow t g ts grd) o val
    exact ⟨hw.lane, hw.laneOther, hw.uniform, hw.uniformOther, hw.temp, hw.tempOther, hw.group⟩
  · show ((s.wordWindow t g ts grd).dst o val).ts.fl ||| fl = _
    rw [hr]; rfl
  · show SameActs ts ((((s.wordWindow t g ts grd).dst o val).raise fl).ts.advance s.clk)
    rw [hr]
    exact ⟨rfl, rfl, rfl, rfl, rfl, rfl, rfl, rfl⟩

/-- A word that writes a predicate destination and raises flags does that and nothing else. -/
theorem word_dstPred (h : Issues s c t g ts) {grd : BitVec 4} {eff : State → Team → W → Eff} {o : Opd} {val : Nat → Bool}
    {fl : Flags} (ha : activeLanes g ts grd ≠ [])
    (he : eff s t (s.wordWindow t g ts grd) = .go s (((s.wordWindow t g ts grd).dstPred o val).raise fl)) :
    ∃ s1 g1 ts1, liftWord grd eff s = .next s1 ∧ OnlyGroup s s1 c t g g1 ts1 ∧ Advanced ts ts1 ∧
      WrotePred (s.wordWindow t g ts grd) { s.wordWindow t g ts grd with grp := g1, ts := ts1 } o val ∧
      ts1.fl = ts.fl ||| fl ∧ SameActs ts ts1 := by
  have hr := dstPred_rest (s.wordWindow t g ts grd) o val
  have hi : ((s.wordWindow t g ts grd).dstPred o val).grp.index = g.index := by rw [hr]; rfl
  have hs : ((s.wordWindow t g ts grd).dstPred o val).grp.tsets = g.tsets := by rw [hr]; rfl
  have ht : ((s.wordWindow t g ts grd).dstPred o val).ts.id = ts.id := by rw [hr]; rfl
  obtain ⟨s1, h1, h2⟩ := liftWord_window h ha he hi hs ht
  refine ⟨s1, _, _, h1, h2, advanced_advance _ _ _ ?_, ?_, ?_, ?_⟩
  · rw [hr]; rfl
  · have hw := dstPred_wrote (s.wordWindow t g ts grd) o val
    exact ⟨hw.pred, hw.zero, hw.other, hw.group, hw.regs⟩
  · show ((s.wordWindow t g ts grd).dstPred o val).ts.fl ||| fl = _
    rw [hr]; rfl
  · show SameActs ts ((((s.wordWindow t g ts grd).dstPred o val).raise fl).ts.advance s.clk)
    rw [hr]
    exact ⟨rfl, rfl, rfl, rfl, rfl, rfl, rfl, rfl⟩

/-- Raising no flag is no change. -/
@[simp] theorem W.raise_zero (w : W) : w.raise 0 = w := by
  obtain ⟨env, act, grp, ts, free⟩ := w
  simp [W.raise]

/-- A word that holds acts to the commit does that and nothing else. -/
theorem word_hold (h : Issues s c t g ts) {grd : BitVec 4} {eff : State → Team → W → Eff} {hs : List Held}
    (ha : activeLanes g ts grd ≠ [])
    (he : eff s t (s.wordWindow t g ts grd) =
      .go s { s.wordWindow t g ts grd with ts := { ts with held := hs ++ ts.held } }) :
    ∃ s1 g1 ts1, liftWord grd eff s = .next s1 ∧ OnlyGroup s s1 c t g g1 ts1 ∧ Advanced ts ts1 ∧
      SameRegs (s.wordWindow t g ts grd) { s.wordWindow t g ts grd with grp := g1, ts := ts1 } ∧
      ts1.held = hs ++ ts.held ∧ ts1.fl = ts.fl := by
  obtain ⟨s1, h1, h2⟩ := liftWord_window h ha he rfl rfl rfl
  exact ⟨s1, _, _, h1, h2, advanced_advance _ _ _ rfl, ⟨rfl, rfl, rfl⟩, rfl, rfl⟩

end Sys2Proof.Machine
end

