-- ==== Sys2Proof/Safety.lean ====
section
/-!
DEFINITION. A safe run, in the terms that claims use: no step of it is a fault or a refusal.
-/
namespace Sys2Proof.Machine

/-- The state after `n` steps, if each has a next state. -/
def runFor : Nat → State → Option State
  | 0, s => some s
  | n + 1, s =>
    match step s with
    | .next t => runFor n t
    | _ => none

/-- The next `n` steps each have a next state. -/
def SafeFor (n : Nat) (s : State) : Prop := (runFor n s).isSome

/-- Every run from the state is safe. -/
def Safe (s : State) : Prop := ∀ n, SafeFor n s

end Sys2Proof.Machine
end

