-- ==== Sys2Proof/Tests/Slice0.lean ====
section
/-!
SUPPORT. Tests: ill-formed terms that the check refuses, words written out from the specification's encodings, single steps
whose results the specification states, and for the hypotheses of every statement a state that meets them.
-/
set_option Elab.async false

namespace Sys2Proof.Tests

open Sys2Proof Sys2Proof.Machine

/-! ### Well-formedness: one ill-formed term for each check (R45 to R47, R54, R59) -/

theorem test_wf_ok : WellFormed (.add { blankR with typ := .i32 }) := by decide
theorem test_wf_type : ¬WellFormed (.add { blankR with typ := .f32 }) := by decide
theorem test_wf_modifier : ¬WellFormed (.add { blankR with mod := 1 }) := by decide
theorem test_wf_destination : ¬WellFormed (.add { blankR with dst := .p 1 }) := by decide
theorem test_wf_source : ¬WellFormed (.add { blankR with sb := .b 1 }) := by decide
theorem test_wf_unused_operand : ¬WellFormed (.add { blankR with sc := .v 1 }) := by decide
theorem test_wf_aux : ¬WellFormed (.add { blankR with aux := 1 }) := by decide
theorem test_wf_more : ¬WellFormed (.movi { blankI with typ := .i32, mod := 1 }) := by decide
theorem test_wf_compare_code : ¬WellFormed (.cmp { blankR with typ := .b32, mod := 2, dst := .p 1 }) := by decide
theorem test_wf_imm : ¬WellFormed (.lea { blankI with typ := .i64, aux6 := 8 }) := by decide
theorem test_wf_trailer_target : ¬WellFormed (.endRun { blankT with tgt := 1 }) := by decide
theorem test_wf_trailer_conv : ¬WellFormed (.call { blankT with conv := true }) := by decide
theorem test_wf_trailer_guard : ¬WellFormed (.bra { blankT with grd := 1 }) := by decide
theorem test_wf_event : WellFormed (.packetTake 3) := by decide

/-! ### Words of the specification's examples, one or more of every class (R42 to R46, R53, R58) -/

theorem test_decode_add : decode 0x00082000000040000700004000000000 =
    .ok (.add { blankR with typ := .i32, dst := .v 1, sa := .v 1, sb := .imm 1 }) := by decide +kernel
theorem test_decode_add_sat : decode 0x000A1200000080000700080000000000 =
    .ok (.add { blankR with typ := .i16x4, mod := 8, dst := .v 2, sa := .v 1, sb := .imm 32 }) := by decide +kernel
theorem test_decode_lea : decode 0x008C70000000D0000214000000000005 =
    .ok (.lea { blankI with typ := .n64, dst := .v 3, sa := .g 0, sb := .sr .lane, aux6 := 5 }) := by decide +kernel
theorem test_decode_cmp : decode 0x0094208204004000070000C000000000 =
    .ok (.cmp { blankR with typ := .i32, mod := 2, dst := .p 1, sa := .v 1, sb := .imm 3 }) := by decide +kernel
theorem test_decode_qcvt : decode 0x107100000001C00004000080001800B8 =
    .ok (.qcvt { blankR with typ := .md8, dst := .v 7, sa := .v 1, sb := .v 2, sc := .v 6, aux := 0xB8 }) := by decide +kernel
theorem test_decode_ld : decode 0x2000B000000040000C00000000000200 =
    .ok (.ld { blankI with typ := .b64, dst := .v 1, sa := .v 3, imm := 8 }) := by decide +kernel
theorem test_decode_atom : decode 0x201460C4000150000A14000000000000 =
    .ok (.atom { blankR with typ := .n32, mod := 3, grd := 1, dst := .v 5, sa := .g 2, sb := .sr .lane }) := by decide +kernel
theorem test_decode_shfl : decode 0x3010A0C0000140001300006080000000 =
    .ok (.shfl { blankR with typ := .b32, mod := 3, dst := .v 5, sa := .v 4, sb := .imm 1, sc := .ls 0 }) := by decide +kernel
theorem test_decode_twait : decode 0x4004B000000040000C00000000000000 =
    .ok (.twait { blankR with typ := .b64, dst := .v 1, sa := .v 3 }) := by decide +kernel
theorem test_decode_tpost : decode 0x400005020C00800010000173FFFC0000 =
    .ok (.tpost { blankR with mod := 0x14, dst := .s 2, sa := .v 4, sb := .v 5, sc := .imm 0xFFFF }) := by decide +kernel
theorem test_decode_cp : decode 0x440000020C005000121C003100000008 =
    .ok (.cp { blankR with dst := .s 1, sa := .g 4, sb := .f 0, sc := .imm 0x4000, aux := 8 }) := by decide +kernel
theorem test_decode_mxseti : decode 0x48040000000000000220024000000100 =
    .ok (.mxseti { blankI with sb := .nx 9, imm := 4 }) := by decide +kernel
theorem test_decode_acld : decode 0x4816E0000002A1800000010000000000 =
    .ok (.acld { blankR with typ := .f32x2, dst := .v 10, sa := .a 0, sb := .v 4 }) := by decide +kernel
theorem test_decode_nsend : decode 0x4C0000020C0090001800011000200005 =
    .ok (.nsend { blankR with dst := .s 2, sa := .g 6, sb := .v 4, sc := .g 8, aux := 5 }) := by decide +kernel
theorem test_decode_rdsr : decode 0x50040000000161404800000000000000 =
    .ok (.rdsr { blankR with dst := .v 5, sa := .sr .clk }) := by decide +kernel
theorem test_decode_barm : decode 0x5418000000002100060C00B0000C0000 =
    .ok (.barm { blankR with sa := .b 1, sb := .s 2, sc := .imm 3 }) := by decide +kernel
theorem test_decode_qsig : decode 0x580C0000000010001300004000000000 =
    .ok (.qsig { blankR with sa := .g 4, sb := .imm 1 }) := by decide +kernel
theorem test_decode_brc : decode 0x720000100000000000000000FFFFFFFE =
    .ok (.brc { blankT with grd := 1, tgt := 0xFFFFFFFE }) := by decide +kernel
theorem test_decode_bra_conv : decode 0x71000004000000000000000000000003 =
    .ok (.bra { blankT with conv := true, tgt := 3 }) := by decide +kernel
theorem test_decode_callx : decode 0x750000000001C0000000000000000000 = .ok (.callx { blankT with reg := .v 7 }) := by
  decide +kernel
theorem test_decode_reserved_class : decode 0x60000000000000000000000000000000 = .error .reservedClass := by decide +kernel
theorem test_decode_reserved_trailer : decode 0x79000000000000000000000000000000 = .error .malformedTrailer := by
  decide +kernel
theorem test_decode_unassigned : decode 0x00B40000000000000000000000000000 = .error .unassignedOpcode := by decide +kernel
theorem test_encode_add : encode (.add { blankR with typ := .i32, dst := .v 1, sa := .v 1, sb := .imm 1 }) =
    some 0x00082000000040000700004000000000 := by decide +kernel

/-! ### A package with a thread set about to issue -/

/-- The word of a plain `end`. -/
def endWord : Word := 0x70000000000000000000000000000000

/-- The thread set of every test: the first of group 0 of the one team. -/
def c0 : Cur := (2, 0, 0)

/-- A package that runs a kernel of the given text, with 64 KiB of scratch and tables that map the first 1 GiB of addresses to
the same physical addresses; its one thread set is the current one. Core 0 has page 16 in its translation buffer, and the
command complex reaches all memory through its first window. -/
def running (text : List Word) : State :=
  let s := State.reset.withText text
  let s1 : State := { s with
    cur := some c0
    clk := 10000000
    ctxs := [(0, { state := 2, keys := 1, rooted := true, root := 1 })]
    fw := { s.fw with keySlots := 1, win := [(0, 0x3200000000000001)] }
    launches := s.launches.map fun l => { l with kernel := { l.kernel with scratch := 65536 } }
    tlbs := [⟨0, 0, 16, 0x10000, true, 0, false, 1⟩, ⟨0, 0, 16, 0x10000, false, 0, false, 1⟩] }
  ((s1.putNat 0x1000 8 0x801).putNat 0x2000 8 0xC01).putNat 0x3000 8 0xD7

/-- The state in which a thread set stands before an `end`. -/
def base : State := running [endWord]

/-- With the current set, its group or its team changed. -/
def withSet (f : TSet → TSet) (s : State) : State := s.onTset c0 f
def withGroup (f : Group → Group) (s : State) : State := s.onGroup 2 0 f
def withTeam (f : Team → Team) (s : State) : State := s.onTeam 2 f
/-- With the launch's kernel changed. -/
def withKernel (f : Kernel → Kernel) (s : State) : State :=
  { s with launches := s.launches.map fun l => { l with kernel := f l.kernel } }
/-- With lane register `n` of every lane holding a value. -/
def withV (n : Nat) (x : Reg) (s : State) : State :=
  withGroup (fun g => { g with v := lanes32.foldl (fun m l => aset marker m (laneKey n l) x) g.v }) s

/-- A test of the current set, with its group and team. -/
def here (s : State) (p : Team → Group → TSet → Bool) : Bool :=
  match s.cur with
  | none => false
  | some c => match s.view c with | none => false | some (t, g, ts) => p t g ts

/-- A test of the current set and its lanes that are active under a guard. -/
def window (s : State) (grd : BitVec 4) (p : Team → Group → TSet → W → Bool) : Bool :=
  here s fun t g ts => activeLanes g ts grd != [] && p t g ts (s.wordWindow t g ts grd)

/-- An instruction gives a next state in which the set of every test passes a test. -/
def after (i : Instr) (s : State) (p : Team → Group → TSet → Bool) : Bool :=
  match exec i s with
  | .next s1 => match s1.view c0 with | none => false | some (t, g, ts) => p t g ts
  | _ => false

/-- An instruction leaves lane 5 of register `v3` with a value, and raises exactly the flags given. -/
def gives (i : Instr) (s : State) (x : Reg) (fl : Flags) : Bool :=
  after i s fun _ g ts => aget marker g.v (laneKey 3 5) == x && ts.fl == fl && ts.pc == 1

/-- Two sources `v1` and `v2`. -/
def two (a b : Reg) : State := withV 1 a (withV 2 b base)
/-- A word on them with destination `v3`. -/
def r3 (typ : Typ) (mod : BitVec 6) : RWord := { blankR with typ := typ, mod := mod, dst := .v 3, sa := .v 1, sb := .v 2 }

/-! ### Single steps (the rule that gives each result is named) -/

-- R25, R152: 127 + 1 wraps to -128; with `.sat` it is clamped and raises SAT (bit 5)
theorem test_add_wraps : gives (.add (r3 .i8 0)) (two 127 1) 0xFFFFFFFFFFFFFF80 0 = true := by decide +kernel
theorem test_add_sat : gives (.add (r3 .i8 8)) (two 127 1) 127 fSAT = true := by decide +kernel
-- R24: a type without sign is zero-filled
theorem test_sub_n : gives (.sub (r3 .n32 0)) (two 0 1) 0xFFFFFFFF 0 = true := by decide +kernel
-- R159: the examples of `div` and `rem`
theorem test_div_trunc : gives (.div (r3 .i32 0)) (two 7 0xFFFFFFFE) 0xFFFFFFFFFFFFFFFD 0 = true := by decide +kernel
theorem test_rem_sign : gives (.rem (r3 .i32 0)) (two 7 0xFFFFFFFE) 1 0 = true := by decide +kernel
theorem test_div_zero : gives (.div (r3 .n32 0)) (two 7 0) 0xFFFFFFFF 0 = true := by decide +kernel
theorem test_div_least : gives (.div (r3 .i32 0)) (two 0x80000000 0xFFFFFFFF) 0xFFFFFFFF80000000 0 = true := by
  decide +kernel
-- R161: the examples of shifts, and an amount of the width
theorem test_shr : gives (.shr (r3 .i32 0)) (two 0x80000000 31) 1 0 = true := by decide +kernel
theorem test_sar : gives (.sar (r3 .n32 0)) (two 0x80000000 31) 0xFFFFFFFF 0 = true := by decide +kernel
theorem test_shl_width : gives (.shl (r3 .n32 0)) (two 1 32) 0 0 = true := by decide +kernel
theorem test_rot : gives (.rot (r3 .b32 0)) (two 0x80000001 33) 3 0 = true := by decide +kernel
-- R163
theorem test_clz_zero : gives (.clz { r3 .n16 0 with sb := .v 0 }) (two 0 0) 16 0 = true := by decide +kernel
theorem test_brev : gives (.brev { r3 .n8 0 with sb := .v 0 }) (two 1 0) 0x80 0 = true := by decide +kernel
-- R155: the examples of `movi`
theorem test_movi_b64 : gives (.movi { blankI with typ := .b64, dst := .v 3, imm := 0x80000010 }) base 0x80000010 0 = true := by
  decide +kernel
theorem test_movi_i64 : gives (.movi { blankI with typ := .i64, dst := .v 3, imm := 0x80000010 }) base 0xFFFFFFFF80000010 0
    = true := by decide +kernel
-- R164: selector 0x88888888 copies byte 0 of b
theorem test_perm : gives (.perm { r3 .b64 0 with sc := .v 4 }) (withV 4 0x88888888 (two 0 0x5A)) 0x5A5A5A5A5A5A5A5A 0 = true := by
  decide +kernel
-- R165: 0x1B reverses four halfwords
theorem test_swz : gives (.swz (r3 .i16x4 0)) (two 0x0001000200030004 0x1B) 0x0004000300020001 0 = true := by decide +kernel
-- R167: base + lane · 32 + displacement
theorem test_lea : gives (.lea { blankI with typ := .n64, dst := .v 3, sa := .v 1, sb := .sr .lane, imm := 0xFFFFFFFF, aux6 := 5 })
    (two 0x1000 0) 0x109F 0 = true := by decide +kernel
-- R169
theorem test_cmpv : gives (.cmpv (r3 .n32 2)) (two 1 2) 0xFFFFFFFF 0 = true := by decide +kernel
-- R168: a predicate of the active lanes
theorem test_cmp_lt : after (.cmp { blankR with typ := .i32, mod := 2, dst := .p 1, sa := .v 1, sb := .imm 3 }) (two 2 0)
    (fun _ g _ => g.pred 5 1 && !g.pred 5 2) = true := by decide +kernel
-- R26, R177: 1 + 1 = 2; R27: infinity less infinity raises NV and gives the canonical NaN
theorem test_fadd : gives (.fadd (r3 .f32 0)) (two 0x3F800000 0x3F800000) 0x40000000 0 = true := by decide +kernel
theorem test_fsub_inf : gives (.fsub (r3 .f32 0)) (two 0x7F800000 0x7F800000) 0x7FC00000 fNV = true := by decide +kernel
-- R181: frcp of zero raises DZ
theorem test_frcp_zero : gives (.frcp { r3 .f32 0 with sb := .v 0 }) (two 0 0) 0x7F800000 fDZ = true := by decide +kernel
-- R184: flg of zero is -2^31 and raises NV
theorem test_flg_zero : gives (.flg { r3 .f32 0 with sb := .v 0 }) (two 0 0) 0xFFFFFFFF80000000 fNV = true := by decide +kernel
-- R37: a marker is a MARK fault, and the set runs no more
theorem test_marker : (match exec (.fadd (r3 .f32 0)) base with
    | .next s => (s.view c0).isNone && (s.ctx 0).state == 4 | _ => false) = true := by decide +kernel
-- R48: a guard that no lane passes
theorem test_guard_none : gives (.add { r3 .i8 0 with grd := 1 }) (two 1 1) marker 0 = true := by decide +kernel
-- R146: with elements of 32 bits, xor 1 exchanges the two of a lane
theorem test_shfl_xor : gives (.shfl { blankR with typ := .b32, mod := 3, dst := .v 3, sa := .v 4, sb := .imm 1, sc := .ls 0 })
    (withV 4 0x0000000100000002 base) 0x0000000200000001 0 = true := by decide +kernel
-- R148: the sum of 32 lanes that hold 2
theorem test_gred_sum : gives (.gred { blankR with typ := .n32, dst := .v 3, sa := .v 1, sb := .ls 0 }) (two 2 0) 64 0 = true := by
  decide +kernel
-- R213, R214: a store is held, and a load of the same run reads it
theorem test_store_then_load :
    (match exec (.st { blankI with typ := .n32, sa := .z, sb := .v 1, imm := 64, mod := 0, aux6 := 1 }) (two 0xDEADBEEF 0) with
     | .next s => after (.ld { blankI with typ := .n32, dst := .v 3, sa := .z, imm := 64, aux6 := 1 }) { s with cur := some c0 }
         (fun t g _ => aget marker g.v (laneKey 3 5) == 0xDEADBEEF && t.scrByte 64 == 0)
     | _ => false) = true := by decide +kernel
-- R197: a load of memory through the translation buffer
theorem test_load_memory : gives (.ld { blankI with typ := .n32, dst := .v 3, sa := .v 1, imm := 0 })
    ((two 0x10010 0).putNat 0x10010 4 0xCAFE) 0xCAFE 0 = true := by decide +kernel
-- R213: a misaligned scratch load is an ALIGN fault
theorem test_align : (match exec (.ld { blankI with typ := .n32, dst := .v 3, sa := .z, imm := 2, aux6 := 1 }) base with
    | .next s => (s.ctx 0).fwait.any fun r => r.info.code == 6
    | _ => false) = true := by decide +kernel
-- R233: `twait` on an EMPTY tile parks its set
theorem test_twait_parks : after (.twait { blankR with typ := .b64, dst := .v 3, sa := .v 1 }) (two 512 0)
    (fun _ _ ts => ts.phase == .parked .tile && ts.pc == 0) = true := by decide +kernel
-- R79: `trap`
theorem test_trap : (match exec (.trap { blankI with imm := 7 }) base with
    | .next s => (s.ctx 0).fwait.any fun r => r.info.code == 12 && r.info.detail == 7
    | _ => false) = true := by decide +kernel
-- R53, R125: `end` leaves the set at the next word, and `exit` ends its lanes
theorem test_end : (match exec (.endRun blankT) base with
    | .next s => (s.teams.flatMap (·.groups)).all fun g => g.tsets.map (·.pc) == [1]
    | _ => false) = true := by decide +kernel
theorem test_exit : (match exec (.exit blankT) base with
    | .next s => (s.teams.flatMap (·.groups)).all fun g => g.tsets == [] && g.exited == lanes32
    | _ => false) = true := by decide +kernel
-- R54: `brc` divides a set by its guard
theorem test_brc_divides : (match exec (.brc { blankT with grd := 1, tgt := 4 })
      (withGroup (fun g => (g.putPred (.p 1) [(0, true), (1, true)])) base) with
    | .next s => (s.teams.flatMap (·.groups)).all fun g => (g.tsets.map fun x => (x.pc, x.lanes.length)) == [(1, 30), (4, 2)]
    | _ => false) = true := by decide +kernel
-- R59: a reserved word is ILLEGAL
theorem test_illegal : (match exec (decodeRun 0x60000000000000000000000000000000) base with
    | .next s => (s.ctx 0).fwait.any fun r => r.info.code == 1
    | _ => false) = true := by decide +kernel
-- R62, R80: `hint` only advances
theorem test_hint : gives (.hint { blankI with imm := 9 }) (withV 3 8 base) 8 0 = true := by decide +kernel
-- R340: the first step after reset boots the package
theorem test_boot : (match step State.reset with | .next s => s.fw.state == 1 | _ => false) = true := by decide +kernel
-- R42, R53: a step runs the word in place
theorem test_step_runs : (match step (State.reset.withFetchWord 128 0x50000000000000000000000000000000) with
    | .next s => s.allSets.map (fun x => x.2.2.pc) == [1]
    | _ => false) = true := by decide +kernel

/-! ### Witnesses: states and operands that meet the hypotheses of each statement together

`window s grd p` is true when the current set of `s` issues, with a lane active under `grd`, and `p` holds of it. -/

/-- Words that write a register, and predicates. -/
theorem witness_IntegerWordsComplete : window base 0 (fun _ _ _ _ => (intSpec (.add (r3 .i32 0))).isSome) = true := by
  decide +kernel
theorem witness_FloatWordsComplete : window (two 0 0) 0 (fun _ _ _ w =>
    match floatSpec (.fadd (r3 .f32 0)) with | some (srcs, _) => w.markCheck srcs == none | none => false) = true := by
  decide +kernel
theorem witness_LaneSetWordsComplete : window base 0 (fun _ _ _ _ =>
    (laneSetSpec (.bcast { blankR with dst := .v 3, sa := .v 1, sb := .imm 0, sc := .ls 0 })).isSome) = true := by decide +kernel
theorem witness_PredicateWordsComplete : window base 0 (fun _ _ _ _ =>
    (predSpec (.pnot { blankR with dst := .p 1, sa := .p 2 })).isSome) = true := by decide +kernel
theorem witness_NoActiveLaneNoEffect : here base (fun _ g ts =>
    (wordGuard (.add { r3 .i32 0 with grd := 1 })).isSome && activeLanes g ts 1 == []) = true := by decide +kernel
theorem witness_MarkerFaults : window base 0 (fun _ _ _ w =>
    match floatSpec (.fadd (r3 .f32 0)) with | some (srcs, _) => (w.markCheck srcs).isSome | none => false) = true := by
  decide +kernel

/-- Status words: one without and one with the fault of its check. -/
theorem witness_StatusRegisters : window base 0 (fun t _ _ w =>
    (match statusSpec base t (.rdsr { blankR with dst := .v 3, sa := .sr .lane }) with
      | some (_, chk) => chk w == none | none => false) &&
    (match statusSpec base t (.acld { blankR with typ := .f32, dst := .v 3, sa := .a 0, sb := .imm 16384 }) with
      | some (_, chk) => (chk w).isSome | none => false)) = true := by decide +kernel
theorem witness_StatusPredicates : window base 0 (fun t _ _ w =>
    (match statusPredSpec base t (.fcmp { r3 .f32 0 with dst := .p 1, sa := .imm 0, sb := .imm 0 }) with
      | some (_, chk) => chk w == none | none => false) &&
    (match statusPredSpec base t (.fcmp { r3 .f32 0 with dst := .p 1 }) with
      | some (_, chk) => (chk w).isSome | none => false)) = true := by decide +kernel
theorem witness_AccumulatorFlags : window base 0 (fun _ _ _ _ => true) = true := by decide +kernel

/-- Words that act at the commit: one that holds its act, one whose check faults. -/
theorem witness_HeldWordsComplete : window base 0 (fun t _ _ w =>
    (match heldSpec base t (.bsync { blankR with sa := .b 1 }) with
      | some (_, r) => (match r w with | some (.ok _) => true | _ => false) | none => false) &&
    (match heldSpec base t (.gbar { blankR with sa := .b 1 }) with
      | some (_, r) => (match r w with | some (.error _) => true | _ => false) | none => false)) = true := by decide +kernel
theorem witness_SetWords : window base 0 (fun _ _ _ _ => (setSpec (.nop blankR)).isSome) = true := by decide +kernel
/-- The five forms of `pmov`. -/
theorem witness_PredicateMoves : window base 0 (fun _ _ _ _ => true) = true ∧
    ({ blankR with dst := .p 1, sa := .p 2 } : RWord).mod = 0 ∧ ({ blankR with dst := .v 1, sa := .p 2 } : RWord).mod = 0 ∧
    ({ blankR with dst := .p 1 } : RWord).mod = 0 ∧ ({ blankR with dst := .v 1, sa := .p 0, mod := 1 } : RWord).mod ≠ 0 ∧
    ({ blankR with dst := .p 1, sa := .v 1, mod := 1 } : RWord).mod ≠ 0 := by decide +kernel

/-- A `.s` load of the last word of scratch, and faults of its three kinds: beyond it, in a bank in CACHE mode, misaligned. -/
def scrLoad (off : BitVec 32) : IWord := { blankI with typ := .n32, dst := .v 3, sa := .z, imm := off, aux6 := 1 }
/-- A team whose first bank is planned for scratch, and the same with the bank released to CACHE mode. -/
def planned : State := withTeam (fun t => { t with plan := [⟨0, 0, 0, 0, 0, 65536, 0, 0⟩] }) base
def released : State := withTeam (fun t => { t with released := [0] }) planned
theorem witness_ScratchLoads : window base 0 (fun t _ _ w =>
    spaceI (scrLoad 65532) == 1 &&
    (w.loadLanes (scrLoad 65532).dst).all (fun l => scratchFault base t 4 (w.addrI (scrLoad 65532) l) l == none) &&
    (w.loadLanes (scrLoad 65532).dst).all (fun l => !base.locBad (.scr t.id (w.addrI (scrLoad 65532) l)) 4)) = true := by
  decide +kernel
theorem witness_ScratchFaults : window base 0 (fun t _ _ w =>
    [65533, 65534, 65536].all fun off =>
      (w.loadLanes (scrLoad off).dst).all (fun l => !base.locBad (.scr t.id (w.addrI (scrLoad off) l)) 4) &&
      ((w.loadLanes (scrLoad off).dst).findSome? (fun l => scratchFault base t 4 (w.addrI (scrLoad off) l) l)).isSome &&
      (w.act.findSome? (fun l => scratchFault base t 4 (w.addrI (scrLoad off) l) l)).isSome) = true ∧
    window released 0 (fun t _ _ w => (w.loadLanes (scrLoad 0).dst).all fun l =>
      scratchFault released t 4 (w.addrI (scrLoad 0) l) l == some { code := 3, lane := l, addr := 0, detail := 1 }) = true := by
  decide +kernel

/-- Loads and stores of memory and of scratch whose places are known and local. -/
def memWord : IWord := { blankI with typ := .n32, dst := .v 3, sa := .v 1, sb := .v 2 }
def atPage : State := two 0x10000 5
theorem witness_MemoryLoads : window atPage 0 (fun t _ _ w =>
    (match atPage.places t w 0 false (spaceI memWord) 4 4 (w.addrI memWord) (w.loadLanes memWord.dst) with
      | .ok ls => atPage.remoteParts ls == [] && !atPage.partsHeld t w ls | _ => false) &&
    (match atPage.places t w 0 false (spaceI memWord) (8 * vecCount memWord.aux6) 8 (w.addrI memWord) w.act with
      | .ok ls => atPage.remoteParts ls == [] && !atPage.partsHeld t w ls | _ => false) &&
    (match atPage.places t w 0 false 0 4 4 (w.addrI memWord) (w.loadLanes memWord.dst) with
      | .ok ls => atPage.remoteParts ls == [] && !atPage.partsHeld t w ls | _ => false)) = true := by decide +kernel
theorem witness_StoresHeld : window atPage 0 (fun t _ _ w =>
    (match gather (fun l => atPage.storeAcc t w false (spaceI memWord) 4 4 (w.addrI memWord l) l) w.act with
      | .ok _ => true | _ => false) &&
    (match gather (fun l => atPage.storeAcc t w false (spaceI memWord) (8 * vecCount memWord.aux6) 8 (w.addrI memWord l) l) w.act with
      | .ok _ => true | _ => false) &&
    (match gather (fun l => atPage.storeAcc t w true 0 4 4 (w.addrI memWord l) l) w.act with
      | .ok _ => true | _ => false)) = true := by decide +kernel
theorem witness_StoresPerformed : base.fw.keySlots.getLsbD (paKey 0x10000) = true ∧ paPkg 0x10000 = base.pkg ∧ base.hbmFailed 0x10000 4 = false ∧
    (base.countLines 0x10000 4).mem = base.mem ∧
    here base (fun t _ _ => (base.team? t.id == some t) && [0, 1, 2, 3].all fun i => [0, 1, 2, 3].all fun j =>
      t.scrKey (512 + i) != t.scrKey (512 + j) || i == j) = true := by decide +kernel

/-- `twait` on a FULL and on an EMPTY tile. -/
def tileWord : RWord := { blankR with typ := .b64, dst := .v 3, sa := .v 1 }
def atTile : State := two 512 0
def fullTile : State := withTeam (fun t => t.setTag 512 ⟨0xFFFF, false, false⟩) atTile
theorem witness_TwaitWaits :
    window fullTile 0 (fun t _ ts w => fullTile.scratchCheck t w 8 (w.addrR tileWord) == none &&
      w.act.all (fun l => !fullTile.locBad (.scr t.id (w.addrR tileWord l)) 8) && ts.got == [] &&
      w.act.all fun l => (t.tag (w.addrR tileWord l)).mask == 0xFFFF) = true ∧
    window atTile 0 (fun t _ ts w => atTile.scratchCheck t w 8 (w.addrR tileWord) == none &&
      w.act.all (fun l => !atTile.locBad (.scr t.id (w.addrR tileWord l)) 8) && ts.got == [] &&
      w.act.any fun l => (t.tag (w.addrR tileWord l)).mask != 0xFFFF) = true := by decide +kernel

/-- `bank` of a bank in its own mode, of one released to SCRATCH, and of one to be released. -/
def bankWord (mode : BitVec 6) : RWord := { blankR with dst := .p 1, sa := .imm 0, sb := .imm 0, mod := mode }
theorem witness_TakeAndBank :
    window atTile 0 (fun t _ _ w => atTile.scratchCheck t w 8 (w.addrR tileWord) == none) = true ∧
    window planned 0 (fun t _ _ w =>
      (w.srcLow (.imm 0)).toNat == 0 && t.planMode 0 0 == some 1 && modField (bankWord 1).mod 0 2 == 1 &&
        !t.released.contains 0) = true ∧
    window released 0 (fun t _ _ _ => t.planMode 0 0 == some 1 && t.released.contains 0 && modField (bankWord 1).mod 0 2 == 1) = true ∧
    window planned 0 (fun t _ _ _ => t.planMode 0 0 == some 1 && modField (bankWord 0).mod 0 2 == 0 && !t.released.contains 0 &&
      !t.bankBusy 0 0) = true := by decide +kernel

/-- One lane at a probe of the block at 0x10000: a hit, no slot free, and a free slot. -/
def probeWord : IWord := { blankI with dst := .v 3, sa := .v 1, sb := .p 1 }
def probing (slots : AMap Slot) : State :=
  withKernel (fun k => { k with probe := 2 }) (withTeam (fun t => { t with slots := slots })
    (withSet (fun ts => { ts with lanes := [5] }) atPage))
def probeOk (s : State) (p : Team → Kernel → W → Bool) : Bool :=
  window s 0 fun t g _ w => activeLanes g (w.ts) 0 == [5] && (s.kernelOf t).probe != 0 &&
    (match gather (fun l => s.laneAccess (s.who t w 0 false) t (32 * g.index + l) 0 (w.addrI probeWord l) 1 1) w.act with
      | .ok _ => true | _ => false) && p t (s.kernelOf t) w
theorem witness_ProbeWordsComplete :
    probeOk (probing [(1, ⟨2, 0x10000, 0⟩)]) (fun t k w => t.slotOf k.probe (w.addrI probeWord 5 / 512 * 512) == some 1) = true ∧
    probeOk (probing [(0, ⟨2, 0x8000, 1⟩), (1, ⟨1, 0x9000, 0⟩)]) (fun t k w =>
      t.slotOf k.probe (w.addrI probeWord 5 / 512 * 512) == none && t.victim k.probe == none) = true ∧
    probeOk (probing []) (fun t k w =>
      t.slotOf k.probe (w.addrI probeWord 5 / 512 * 512) == none && t.victim k.probe == some 0) = true ∧
    window (probing [(1, ⟨2, 0x10000, 0⟩)]) 0 (fun t _ _ w =>
      (t.invSlots 2 false (w.act.map fun l => w.addrR { blankR with sa := .v 1 } l / 512 * 512)).all fun i =>
        (aget slot0 t.slots i).state != 1) = true := by decide +kernel

/-! #### Trailers, faults and handlers -/

/-- The current set stands at a trailer with nothing held. -/
def atTrailer (s : State) (x : TWord) (p : Team → Group → TSet → W → Bool) : Bool :=
  here s fun t g ts => ts.held == [] && !ts.committed && g.awaitPasses x.await && p t g ts (s.window t g ts ts.lanes)
/-- A text of two runs. -/
def twoRuns : State := running [0x50000000000000000000000000000000, endWord, 0x50000000000000000000000000000000, endWord]
theorem witness_AtTrailer_reg : (∃ n, blankT.reg = .v n) := ⟨0, rfl⟩
/-- A lane's move at a trailer of each kind. -/
theorem witness_TrailersMoveTheirLanes :
    atTrailer (withSet (fun ts => { ts with pc := 1 }) (withV 0 2 (withGroup
        (fun g => { g with stk := [(5, [2])], depth := [(5, 1)] }) (withSet (fun ts => { ts with lanes := [5] }) twoRuns)))) blankT
      (fun t _ ts w => ts.lanes.all fun l => [0, 1, 2, 3, 4, 5, 6, 8].all fun kind =>
        let k := twoRuns.kernelOf t
        let pc := laneTarget w kind blankT l
        ((kind != 3 && kind != 5 && kind != 6) || k.runStart pc) &&
        ((kind != 4 && kind != 5) || decide (aget 0 w.grp.depth l < 4)) &&
        (kind != 6 || (decide (1 ≤ aget 0 w.grp.depth l) && decide (aget 0 w.grp.depth l ≤ 4)))) = true := by decide +kernel
theorem witness_ExitEndsItsLanes : atTrailer base blankT (fun _ _ _ _ => true) = true := by decide +kernel
theorem witness_CommitAppliesTheRun :
    atTrailer (withSet (fun ts => { ts with gOv := [(4, 9)], fl := fIX, flWrite := some fOF }) base) blankT (fun _ _ _ _ => true) = true := by
  decide +kernel
theorem witness_AwaitWaits :
    here (withGroup (fun g => { g with sig := [(2, 1)] }) base) (fun _ g ts =>
      ts.held == [] && !ts.committed && !g.awaitPasses 4) = true := by decide +kernel
/-- A run that holds two stores of one lane and a mark of a tile, and can commit. -/
def acted : List Held :=
  [⟨0, [5], .tmark 512 true, 5⟩, ⟨0, [5], .store (.mem 0x10000) 0x10000 [7] false, 5⟩, ⟨0, [5], .store (.mem 0x10001) 0x10001 [9] false, 5⟩]
def acting : State := withSet (fun ts => { ts with held := acted }) base
/-- Each held act can be performed when its turn comes. -/
def canPerform (s : State) : List Held → Bool
  | [] => true
  | h :: hs => canPerform s hs && (match (performAll s c0 hs).view c0 with
      | some (t, g, _) => !(performAll s c0 hs).storeWaits t g h | none => true)
theorem witness_CommitPerforms : here acting (fun t g ts => !ts.committed && !ts.mustPlace && acting.commitWait t g ts == none &&
    (acting.commitFault t g ts).isNone && canPerform (acting.applied t g ts) ts.held &&
    (performAll (acting.applied t g ts) c0 ts.held).view c0 != none) = true := by decide +kernel
theorem witness_HeldStoresLand : (acting.view c0).isSome = true ∧ acting.cores = [] ∧
    (acted.all fun h => !h.byAddress && (match h.act with | .nsend _ => false | _ => true)) = true ∧ paPkg 0x10000 = acting.pkg ∧
    acting.fw.keySlots.getLsbD (paKey 0x10000) = true ∧ acting.hbmFailed 0x10000 1 = false ∧ acting.hbmFailed 0x10001 1 = false := by
  decide +kernel
-- R51: the stores of a run are performed at its commit
theorem test_commit_stores : (match exec (.endRun blankT) acting with
    | .next s => readByte s.mem 0x10000 == 7 && readByte s.mem 0x10001 == 9 && (s.teams.all fun t => (t.tag 512).mask == 0xFFFF)
    | _ => false) = true := by decide +kernel
theorem witness_HeldActs : (base.view c0).isSome = true ∧ ([(3, 512), (5, 1024)].map fun o => o.1).Nodup := by decide +kernel
/-- One lane with a full stack and no private memory, with an empty stack, with a bad target, and with a bad return. -/
def oneLane (stk : List Nat) (target : Reg) : State :=
  withV 0 target (withGroup (fun g => { g with stk := [(5, stk)], depth := [(5, stk.length)] })
    (withSet (fun ts => { ts with lanes := [5] }) base))
/-- Two lanes: at `ret` the stack of the lower one has an entry and that of the other is empty. -/
def twoLanes : State := withGroup (fun g => { g with stk := [(4, [0]), (5, [])], depth := [(4, 1), (5, 0)] })
    (withSet (fun ts => { ts with lanes := [4, 5] }) base)
/-- The fault of the lowest lane of a trailer of a kind that cannot move, where every other lane can. -/
def lowestFault (s : State) (kind : Nat) (e : FInfo) : Bool :=
  atTrailer s blankT fun t _ ts w => ts.lanes.findSome? (laneFault (s.kernelOf t) w kind blankT) == some e &&
    ts.lanes.all fun l => (laneFault (s.kernelOf t) w kind blankT l).isSome ||
      ((!([3, 5, 6].contains kind) || (s.kernelOf t).runStart (laneTarget w kind blankT l)) &&
        (!([4, 5].contains kind) || decide (aget 0 w.grp.depth l < 4)) &&
        (kind != 6 || (decide (1 ≤ aget 0 w.grp.depth l) && decide (aget 0 w.grp.depth l ≤ 4))))
theorem witness_TrailerFaults :
    lowestFault (oneLane [0, 0, 0, 0] 0) 4 { code := 10, lane := 5, detail := 1 } = true ∧
    lowestFault (oneLane [0, 0, 0, 0] 0) 5 { code := 10, lane := 5, detail := 1 } = true ∧
    lowestFault twoLanes 6 { code := 10, lane := 5, detail := 2 } = true ∧
    lowestFault (oneLane [77] 0) 6 { code := 10, lane := 5, detail := 3, addr := 77 } = true ∧
    lowestFault (oneLane [] 77) 3 { code := 3, lane := 5, addr := 77 } = true ∧
    lowestFault (oneLane [] 77) 5 { code := 3, lane := 5, addr := 77 } = true := by decide +kernel
/-- Without a debugger, and with one on the context. -/
def debugged (s : State) : State := { s with dbg := { s.dbg with ctl := 1 } }
theorem witness_TrapsAndBreaks :
    window base 0 (fun t _ _ _ => !base.attached (base.ctxOf t)) = true ∧
    window (debugged base) 0 (fun t _ ts _ => (debugged base).attached ((debugged base).ctxOf t) && ts.held == [] && !ts.stop) = true := by
  decide +kernel
/-- A word that is no instruction, under a guard that no lane passes, without a handler, and with one. -/
def handled : State := withKernel (fun k => { k with emu := some 0 }) base
theorem witness_IllegalWords :
    here base (fun _ g ts => activeLanes g ts 1 == []) = true ∧
    window base 0 (fun t _ _ _ => (base.kernelOf t).emu == none) = true ∧
    window handled 0 (fun t _ ts _ => (handled.kernelOf t).emu == some 0 && ts.emu == none && ts.held == []) = true := by
  decide +kernel
/-- A set inside a handler, its destination a lane register, a uniform register and a predicate, with its parent waiting. -/
def inside (dst : Opd) : State :=
  let word : Word := packR 6 0 { blankR with dst := dst }
  withGroup (fun g => { g with tsets := g.tsets ++ [{ (newSet 7 [] 1 0) with phase := .inHandler 0 }] })
    (withSet (fun ts => { ts with emu := some ⟨word, 0, [], [], [], 7⟩ }) base)
def insideOk (dst : Opd) : Bool :=
  window (inside dst) 0 fun _ g ts _ => match ts.emu with
    | some e => Opd.ofBits (e.word.extractLsb' 78 20) == some dst && ts.held == [] && ts.id != e.parent &&
        (g.tsets.all fun y => y.emu == none || y.id == ts.id) && (g.tsets.any fun p => p.id == e.parent)
    | none => false
theorem witness_HandlerWords : insideOk (.v 9) = true ∧ insideOk (.g 9) = true ∧ insideOk (.p 2) = true ∧ insideOk (.t 3) = true ∧
    insideOk .z = true ∧
    window base 0 (fun _ _ ts _ => ts.emu == none) = true := by decide +kernel
theorem witness_FaultIsTaken : here base (fun t _ ts => ts.held == [] && (base.launch? t.launch).isSome) = true ∧
    here (inside (.v 9)) (fun t g ts => ts.held == [] && ((inside (.v 9)).launch? t.launch).isSome && (match ts.emu with
      | some e => e.parent != ts.id && (match g.tset? e.parent with | some p => p.held == [] | none => false)
      | none => false)) = true := by decide +kernel
/-- `lsync` with all lanes there, and with half of them. -/
def syncing (lanes : List Nat) : State := withSet (fun ts => { ts with lanes := lanes }) base
def syncOk (s : State) (meets : Bool) : Bool :=
  window s 0 fun t g ts w => g.tsets == [ts] && !ts.stop &&
    ((s.kernelOf t).text[ts.pc]?.map (fun w => w.extractLsb' 98 4)) == some 0 &&
    ((lanes32.all fun l => g.exited.contains l || w.act.contains l || ts.met.contains (ts.pc, l) || ts.freed.contains (ts.pc, l) ||
      !(w.act.any fun j => j / w.lsRead 0 == l / w.lsRead 0)) == meets)
theorem witness_LsyncMeets : syncOk (syncing lanes32) true = true ∧ syncOk (syncing [0, 1]) false = true := by decide +kernel

/-! #### Events of thread sets -/

theorem witness_SetTimers :
    here (withSet (fun ts => { ts with phase := .await, next := [(0, 3)], lanes := [0, 1] }) base) (fun _ g ts =>
      ts.phase == .await && !ts.stop && !ts.conv && g.awaitPasses ts.await && aget 0 ts.next 0 != 0 && aget 0 ts.next 1 == 0) = true ∧
    here (withSet (fun ts => { ts with phase := .conv 5 }) base) (fun _ _ ts =>
      ts.phase == .conv 5 && !ts.stop && decide (5 + 256 ≤ base.clk)) = true ∧
    here (withSet (fun ts => { ts with pass := 64 }) base) (fun _ _ ts => decide (64 ≤ ts.pass) && ts.promoted == none) = true ∧
    here (withSet (fun ts => { ts with hold := some 0 }) base) (fun _ _ ts => ts.hold == some 0) = true ∧
    here (withGroup (fun g => { g with sig := [(0, 1)] }) (withSet (fun ts => { ts with phase := .await, await := 1 }) base))
      (fun _ g ts => ts.phase == .await && !g.awaitPasses ts.await) = true ∧
    here (withSet (fun ts => { ts with phase := .conv 9999800, pass := 63 }) base) (fun _ _ ts =>
      ts.phase == .conv 9999800 && decide (base.clk < 9999800 + 256) && decide (ts.pass < 64) && ts.hold != some 0) = true := by
  decide +kernel
/-- Compare-and-swaps held after their commit: of two lanes on one word of memory, and of one on the last word of scratch. -/
def atomMem : AtomLane := ⟨5, .mem 0x10000, 0x10000, 9, 7⟩
def atomScr : AtomLane := ⟨5, .scr 2 65532, 65532, 9, 7⟩
def atomHeldOf (ps : List AtomLane) : Held := ⟨0, [5, 6], .atom false true 0 .n32 (.v 3) ps false, 5⟩
def atomic (ps : List AtomLane) (s : State) : State :=
  withSet (fun ts => { ts with phase := .post .atomics, held := [atomHeldOf ps] }) s
def keyless : State := { base with fw := { base.fw with keySlots := 0 } }
def lostWord : State := { base with badBytes := [0x10002] }
def atomBoth : List AtomLane := [atomMem, { atomMem with lane := 6, b := 7, c := 11 }]
/-- The set has committed the atomic of the lanes and may perform it. -/
def atomReady (s : State) (ps : List AtomLane) (q : Team → State → Bool) : Bool :=
  here s fun t g ts => ts.phase == .post .atomics && !ts.stop && s.accesses == [] && ts.held == [atomHeldOf ps] &&
    !s.atomHeld (t.coreNo (s.tcore t g.index)) ps 4 &&
    q t (s.drainAtom (t.coreNo (s.tcore t g.index)) ps (g.releases (atomHeldOf ps) false))
theorem witness_AtomicPerform :
    atomReady (atomic atomBoth base) atomBoth (fun _ s => s.fw.keySlots.getLsbD (paKey 0x10000) && !s.locBad (.mem 0x10000) 4) = true ∧
    (atomBoth.map fun p => p.lane).Nodup ∧
    atomReady (atomic [atomMem] keyless) [atomMem] (fun t s => !s.fw.keySlots.getLsbD (paKey 0x10000) && (s.team? t.id).isSome) = true ∧
    atomReady (atomic [atomMem] lostWord) [atomMem] (fun t s => s.fw.keySlots.getLsbD (paKey 0x10000) && s.locBad (.mem 0x10000) 4 &&
      (s.team? t.id).isSome) = true ∧
    atomReady (atomic [atomScr] planned) [atomScr] (fun t _ => t.bad == []) = true := by
  decide +kernel
-- R217: a compare form that matches stores its second operand, and gives the old value, one lane after another
theorem test_atom_cas : after (.atomicPerform 2 0 0) (atomic atomBoth (base.putNat 0x10000 4 9)) (fun _ g ts =>
      aget marker g.v (laneKey 3 5) == 9 && aget marker g.v (laneKey 3 6) == 7 && ts.phase == .ready) = true ∧
    (match exec (.atomicPerform 2 0 0) (atomic atomBoth (base.putNat 0x10000 4 9)) with
      | .next s => leNat (readBytes s.mem 0x10000 4) == 11 | _ => false) = true := by decide +kernel
/-- A set parked in `qjoin` at a counter whose target is 0. -/
def joining (s : State) : State :=
  withSet (fun ts => { ts with phase := .parked .join, held := [⟨0, [5], .qjoin (.p 1) [(5, 0x10000, 0, 0x10000)], 5⟩] }) s
theorem witness_SetReleases :
    here (withSet (fun ts => { ts with phase := .post .service, held := [⟨0, [5], .sys (.v 3) 1 [(5, 0, 0)], 5⟩] }) base) (fun t _ ts =>
      ts.phase == .post .service && !ts.stop && (base.ctx (base.ctxOf t)).state != 5 &&
        ts.held == [⟨0, [5], .sys (.v 3) 1 [(5, 0, 0)], 5⟩]) = true ∧
    here (joining base) (fun _ _ ts =>
      ts.phase == .parked .join && !ts.stop && base.counterFault 0x10000 == none && !base.linkHeld 1024 0x10000 8 &&
        !base.polderWaits (.mem 0x10000) && decide (0 ≤ base.word64 0x10000 % 2 ^ 63)) = true ∧
    (∀ x ∈ [(keyless, 7), (lostWord, 8)], here (joining x.1) (fun _ _ ts =>
      ts.phase == .parked .join && !ts.stop && x.1.counterFault 0x10000 == some (x.2, 0)) = true) ∧
    keyless.fw.keySlots.getLsbD (paKey 0x10000) = false ∧ lostWord.fw.keySlots.getLsbD (paKey 0x10000) = true ∧ lostWord.links = [] ∧
    lostWord.locBad (.mem 0x10000) 8 = true ∧ base.locBad (.mem 0x10000) 8 = false ∧
    here (withSet (fun ts => { ts with phase := .parked (.lsync 0) }) base) (fun t g ts =>
      ts.phase == .parked (.lsync 0) && g.tsets == [ts] && !ts.stop &&
      ((base.kernelOf t).text[ts.pc]?.map (fun w => w.extractLsb' 98 4)) == some 0 &&
      lanes32.all fun l => (activeLanes g ts 0).contains l) = true := by decide +kernel
/-- A run whose second word, a load, reads what its first, a store, has written; open, and again begun after a rollback. -/
def openLoad (inOrder : Bool) : State := withSet (fun ts => { ts with
    fresh := false, pc := 2, inOrder := inOrder
    aliases := [⟨1, 5, .scr 2 64, 4, 64⟩], held := [⟨0, [5], .store (.scr 2 64) 64 [1, 2, 3, 4] false, 5⟩] })
  (running [0x50000000000000000000000000000000, 0x2000B000000040000C00000000000200, endWord])
theorem witness_AliasRollbackRestores :
    here (openLoad false) (fun t _ ts => ts.openRun && !ts.inOrder && (openLoad false).keptSites t == [] &&
      ts.aliases.any fun a => ts.held.any fun h => match h.stored with
        | some (pc, loc, n) => decide (ts.start ≤ a.pc) && decide (pc < a.pc) && a.loc.meets a.len loc n &&
            ((openLoad false).kernelOf t).hoistable ((openLoad false).keptSites t) a.pc pc a.pc
        | none => false) = true ∧
    here (openLoad true) (fun _ _ ts => ts.inOrder) = true ∧
    here (openLoad false) (fun _ g ts => g.tsets.all fun y => !(y.joinable && y.pc == ts.start && y.emu == ts.emu) || y.id == ts.id) = true ∧
    (let s := withGroup (fun g => { g with tsets := newSet 7 [6] 0 0 :: g.tsets }) (openLoad false)
     (match s.view c0 with
      | some (t, g, ts) => ts.openRun && !ts.inOrder && !ts.mid && s.conflicts c0 (s.kernelOf t) ts (s.keptSites t) != [] &&
        (match g.tsets with | [y, z] => z == ts && y.joinable && y.pc == ts.start && y.emu == ts.emu | _ => false)
      | none => false) = true) := by decide +kernel
-- R116: the run begins again
theorem test_alias_rollback : after (.aliasRollback 2 0 0) (openLoad false) (fun _ _ ts => ts.pc == 0 && ts.held == []) = true := by
  decide +kernel
/-- A charge against the set; a record with room in its ring, and without; a DBG bit at the set's word. -/
def charged : State := withTeam (fun t => { t with pend := [⟨0, [5], 0, { code := 15, lane := 5, detail := 2 }⟩] }) base
def record : FRecord := ⟨0, 0, 0, 0, 0, 0, { code := 12 }, [5], 0⟩
def ringed (tail : BitVec 32) : State :=
  base.setCtx 0 { base.ctx 0 with fring := 0x20007, ftail := tail, fwait := [record] }
def breaking : State := debugged (withKernel (fun k => { k with dbg := [0] }) (running [0x50000000000000000000000000000000, endWord]))
/-- A device's access of context 0 reaches its byte of memory. -/
def dev (s : State) (va kind pa : Nat) (n : Nat := 8) : Bool := (s.devPlace 0 va kind n).2 == .at pa
theorem devAt_of_dev {s : State} {va kind pa n : Nat} (h : dev s va kind pa n = true) :
    DevAt s 0 va kind (s.devPlace 0 va kind n).1 pa n := by
  unfold DevAt
  exact Prod.ext rfl (by simpa [dev] using h)
theorem witness_FaultAndDebugEvents :
    here charged (fun t g ts => t.pend == [⟨0, [5], 0, { code := 15, lane := 5, detail := 2 }⟩] && g.tsets == [ts] &&
      ts.lanes.contains 5 && !ts.dying && ts.held == [] && (charged.launch? t.launch).isSome && ts.phase == .ready && ts.fresh) = true ∧
    (ringed 0).dbg.trc = false ∧ ((ringed 0).ctx 0).fwait = [record] ∧ ((ringed 0).ctx 0).fwalk = none ∧
    dev (ringed 0) 0x20000 1 0x20000 = true ∧ 2 ^ 7 ≤ (((ringed 128).ctx 0).ftail - ((ringed 128).ctx 0).fhead).toNat ∧
    window breaking 0 (fun t _ ts _ => ts.phase == .ready && !ts.stop && ts.resumed == none && ts.issued == none && ts.stopNext == 0 && ts.held == [] &&
      breaking.attached (breaking.ctxOf t) && (breaking.kernelOf t).dbg.contains ts.pc &&
      (match (breaking.kernelOf t).text[ts.pc]? with | some w => !isTrailerWord w | none => false)) = true := by decide +kernel

/-! #### Queues -/

/-- A packet of eight words, and the package with one queue of context 0 that holds packets. -/
def packet (words : List Reg) (state : Nat) : Pkt := { num := 0, words := words, state := state }
def queued (x : Queue) (ps : List Pkt) : State :=
  { base with queues := [(3, { x with state := 1, en := true, ring := 0x20006, wakePage := 0x30000, pkts := ps })] }
/-- An access that core `m` of the command complex makes in context 0 reaches its byte of memory. -/
def cx (s : State) (m va kind pa : Nat) : Bool := (s.cxPlace m 0 va kind).2 == .at pa
theorem cxAt_of_cx {s : State} {m va kind pa : Nat} (h : cx s m va kind pa = true) :
    CxAt s m 0 va kind (s.cxPlace m 0 va kind).1 pa := by
  unfold CxAt
  exact Prod.ext rfl (by simpa [cx] using h)
/-- The wake core of queue 3 reaches a byte of memory for a place of its ring or wake page. -/
def qat (s : State) (va kind pa : Nat) : Bool := (s.queuePlace 4 3 va kind).2 == .at pa
theorem queueAt_of_qat {s : State} {va kind pa : Nat} (h : qat s va kind pa = true) :
    QueueAt s 3 va kind (s.queuePlace 4 3 va kind).1 pa := by
  unfold QueueAt
  exact Prod.ext rfl (by simpa [qat, wakeCore] using h)
/-- The packet is alone in queue 3, which is served. -/
theorem onePacket (p : Pkt) (typ state : Nat) (h : fieldOf (p.words.getD 0 0).toNat 0 8 = typ) (hs : p.state = state)
    (hr : p.req = none) : OnePacket (queued {} [p]) 3 p typ state :=
  ⟨rfl, h, hs, hr, rfl, rfl⟩

def counted (state : Nat) : Pkt := { packet [0x10004, 0x10000, 0, 0] state with failed := true }
theorem witness_PacketWrites :
    (counted 3).state = 3 ∧ (counted 3).req = none ∧ (counted 3).ccaddr ≠ 0 ∧ (counted 3).ccaddr % 8 = 0 ∧
    cx (queued {} [counted 3]) 4 (counted 3).ccaddr 2 0x10000 = true ∧
    ((queued {} [counted 3]).cxPlace 4 0 (counted 3).ccaddr 2).1.locBad (.mem 0x10000) 8 = false ∧
    (queued {} [counted 2]).setPkt 3 (counted 2) = queued {} [counted 2] ∧ (counted 2).code < 256 ∧ wakeCore 3 = 4 ∧
    ((queued {} [counted 2]).queue 3).paused = none ∧ ((queued {} [counted 2]).queue 3).qrec.getLsbD 0 = false ∧
    qat (queued {} [counted 2]) (((queued {} [counted 2]).queue 3).slotVa 0 + 56) 1 0x20038 = true ∧
    ((queued {} [counted 4]).queue 3).pkts = [counted 4] ∧ (counted 4).num = ((queued {} [counted 4]).queue 3).done ∧
    qat (queued {} [counted 4]) (((queued {} [counted 4]).queue 3).wakeVa 0x100) 1 0x30100 = true := by decide +kernel

/-- A kernel in slot 5 of context 0 under generation 1, its key stored; and one whose threads have private memory. -/
def plain : Kernel := kernelOfText [0x50000000000000000000000000000000, endWord]
def ownMem16 : Kernel := { plain with priv := 16 }
def entry : TEntry :=
  { id := 90, text := plain.text, raw := plain.raw, state := 1, last := 0, stored := 0, launches := 0, runs := 0, rollbacks := 0, sites := [] }
def loadedWith (k : Kernel) (s : State) : State := { s.setKslot 0 5 ⟨1, some k⟩ with tcache := [entry], nextId := 100 }
def loaded (s : State) : State := loadedWith plain s

/-- A queue with a TAIL of 64, the most its ring holds, or of 65, or whose TAIL is lost; a packet at HEAD of given words, with the
queue's DONE. -/
def tailed (n : Nat) : State := (queued {} []).putNat 0x30000 8 n
def lostTail : State := { tailed 2 with badBytes := [0x30004] }
def headed (ws : List Nat) (done : Nat) (s : State) : State :=
  ws.zipIdx.foldl (fun s x => s.putNat (0x20040 + 8 * x.2) 8 x.1) { s with queues := (queued { head := 1, done := done, tail := 2 } []).queues }
def headPkt (s : State) : Pkt := { num := 1, words := wordsAt s 0x20040, state := 0, taken := s.clk }
def headOk (s : State) : Bool :=
  let x := s.queue 3
  !s.unserved 3 && x.paused == none && x.state == 1 && (s.ctx x.ctx).state == 2 && decide (x.head < x.tail) &&
    qat s (x.slotVa 1) 0 0x20040 && qat (s.queuePlace 4 3 (x.slotVa 1) 0).1 (x.wakeVa 0x80) 1 0x30080 &&
    !s.locBad (.mem 0x20040) 64 && s.dbg.trc == false && x.pkts == [] && s.launches.all fun y => y.id != s.nextId
theorem witness_QueuesTake :
    (∀ s ∈ [tailed 64, tailed 65, lostTail], s.unserved 3 = false ∧ (s.queue 3).paused = none ∧ (s.queue 3).errOwed = none ∧
      (s.queue 3).state = 1 ∧ (s.ctx 0).state = 2 ∧ (s.queue 3).pkts = [] ∧
      qat (s.setQueue 3 { s.queue 3 with wake := false }) ((s.queue 3).wakeVa 0) 0 0x30000 = true) ∧
    (tailed 64).word64 0x30000 = 64 ∧ (tailed 65).word64 0x30000 = 65 ∧ (tailed 64).locBad (.mem 0x30000) 8 = false ∧
    lostTail.locBad (.mem 0x30000) 8 = true ∧
    (let s := headed [4] 0 base
     headOk s = true ∧ (headPkt s).bad = false ∧ fieldOf ((headPkt s).at 0) 0 8 ≠ 1) ∧
    (let s := headed [1, 0, 0x1005, 0x100001, 0, 0] 0 (loaded base)
     headOk s = true ∧ (headPkt s).bad = false ∧ fieldOf ((headPkt s).at 0) 0 8 = 1 ∧
       s.handleKernel 0 ((headPkt s).at 2) = some (5, plain) ∧ plain.priv = 0) ∧
    (let s := headed [1, 0, 0x1006, 0x100001, 0, 0] 0 (loaded base)
     headOk s = true ∧ (headPkt s).bad = false ∧ s.handleKernel 0 ((headPkt s).at 2) = none) ∧
    (let s := headed [1, 0, 0x1005, 0x100001, 0, 8] 0 (loadedWith ownMem16 base)
     headOk s = true ∧ s.handleKernel 0 ((headPkt s).at 2) = some (5, ownMem16) ∧ ownMem16.priv ≠ 0 ∧ (headPkt s).at 5 % 16 ≠ 0) ∧
    (let s := headed [0] 0 base
     headOk s = true ∧ (headPkt s).bad = true) ∧
    (let s := headed [260] 0 base
     headOk s = true ∧ ((headPkt s).at 0).testBit 8 = true ∧ (s.queue 3).done ≠ (s.queue 3).head) := by decide +kernel
-- R348: a TAIL whose bytes are lost halts the queue
theorem test_tail_lost : (match exec (.queueWake 3) lostTail with
    | .next s => (s.queue 3).state == 2 && (s.queue 3).err == 2 | _ => false) = true := by decide +kernel

def waiting (state : Nat) (target : Reg) : Pkt := packet [3, 0, 0x10000, target] state
def waitAt (count : Nat) (target : Reg) : State := (queued {} [waiting 1 target]).putNat 0x10000 8 count
def joined : State := withSet (fun ts => { ts with phase := .parked .join }) base
def draining (p : Pkt) : State := (queued {} [p]).setCtx 0 { base.ctx 0 with state := 5 }
theorem witness_WaitSignalMarkComplete :
    OnePacket (queued {} [waiting 0 5]) 3 (waiting 0 5) 3 0 ∧
    (∀ x ∈ [(2 ^ 63, (5 : Reg)), (5, 5), (4, 5)], cx (waitAt x.1 x.2) 0 0x10000 0 0x10000 = true ∧ (waitAt x.1 x.2).locBad (.mem 0x10000) 8 = false ∧
      (waitAt x.1 x.2).word64 0x10000 = x.1 ∧ ((waitAt x.1 x.2).queue 3).pkts = [waiting 1 x.2]) ∧
    (joined.queues = [] ∧ joined.cx0Frozen = false ∧ here joined (fun t g ts => joined.teams == [t] && t.groups == [g] && g.tsets == [ts] &&
      ts.phase == .parked .join) = true) ∧
    (((draining (waiting 1 5)).queue 3).pkts = [waiting 1 5] ∧ ((draining (waiting 1 5)).ctx 0).state = 5 ∧
      (draining (waiting 1 5)).unserved 3 = false) ∧
    OnePacket (queued {} [packet [4, 0, 0x10000, 1, 1] 0]) 3 (packet [4, 0, 0x10000, 1, 1] 0) 4 0 ∧
    cx (queued {} [packet [4, 0, 0x10000, 1, 1] 0]) 0 0x10000 2 0x10000 = true ∧
    OnePacket (queued {} [packet [5, 0, 0x10000, 7] 0]) 3 (packet [5, 0, 0x10000, 7] 0) 5 0 ∧
    cx (queued {} [packet [5, 0, 0x10000, 7] 0]) 0 (0x10000 + 8 * 7) 1 0x10038 = true := by
  refine ⟨onePacket _ _ _ (by decide +kernel) rfl rfl, by decide +kernel, by decide +kernel, by decide +kernel,
    onePacket _ _ _ (by decide +kernel) rfl rfl, by decide +kernel, onePacket _ _ _ (by decide +kernel) rfl rfl,
    by decide +kernel⟩

/-- A copy of a whole page of which the bytes end at the page's end. -/
def copying (state : Nat) (segs : List Nat) : Pkt := { packet [2, 0, 0x11000, 0x12F00, 0x100] state with segs := segs }
theorem witness_CopyPackets :
    OnePacket (queued {} [copying 0 []]) 3 (copying 0 []) 2 0 ∧ OnePacket (queued {} [copying 1 [0]]) 3 (copying 1 [0]) 2 1 ∧
    (copying 1 [0]).fails = [] ∧ (copying 1 [0]).reqAt = 0 ∧ (copying 1 [0]).wrote = [] ∧ 1 ≤ (copying 1 [0]).at 4 ∧
    (copying 1 [0]).at 2 % 4096 + (copying 1 [0]).at 4 ≤ 4096 ∧ (copying 1 [0]).at 3 % 4096 + (copying 1 [0]).at 4 = 4096 ∧
    dev (queued {} [copying 1 [0]]) 0x11000 0 0x11000 0x100 = true ∧
    dev ((queued {} [copying 1 [0]]).devPlace 0 0x11000 0 0x100).1 0x12F00 1 0x12F00 0x100 = true ∧
    ((queued {} [copying 1 [0]]).devPlace 0 0x11000 0 0x100).1.locBad (.mem 0x11000) 0x100 = false ∧
    (queued {} [copying 1 [0]]).hbmFailed 0x12F00 0x100 = false ∧ (copying 1 [0]).at 2 + 0x100 ≤ (copying 1 [0]).at 3 := by
  refine ⟨onePacket _ _ _ (by decide +kernel) rfl rfl, onePacket _ _ _ (by decide +kernel) rfl rfl, ?_⟩
  decide +kernel

/-- A LAUNCH that was taken with the loaded kernel. -/
def launching : Pkt := { packet [1, 0, 0x1005, 0x100001, 0, 0] 0 with slot := 5, gen := 1, kernel := some plain }
theorem witness_LaunchPackets :
    OnePacket (queued {} [launching]) 3 launching 1 0 ∧ (loaded (queued {} [launching])).unserved 3 = false ∧
    ((loaded (queued {} [launching])).queue 3).pkts = [launching] ∧ ((loaded (queued {} [launching])).ctx 0).state = 2 ∧
    (loaded (queued {} [launching])).handleKernel 0 (launching.at 2) = some (5, plain) ∧ launching.slot = 5 ∧
    (queued {} [launching]).handleKernel 0 (launching.at 2) = none ∧
    (loaded (queued {} [launching])).kernelNow 0 launching = plain ∧ plain.rejected = false ∧ plain.gang = 0 ∧ plain.params = [] ∧
    (loaded (queued {} [launching])).nextHandOver = some (.packet 3) ∧ (queued {} []).nextHandOver ≠ some (.packet 3) ∧
    (∀ e ∈ (loaded (queued {} [launching])).queues, e.2.pri ≤ 3 ∧ e.1 < 1024) ∧
    (∀ l ∈ (loaded (queued {} [launching])).launches, l.pri ≤ 3) ∧ (draining launching).nextHandOver = some (.packet 3) ∧
    (draining launching).dbg.trc = false ∧ (loaded (queued {} [launching])).entryFor plain = some entry ∧
    (∀ y ∈ (loaded (queued {} [launching])).launches, y.id ≠ (loaded (queued {} [launching])).nextId) ∧
    (∀ y ∈ (draining launching).launches, y.id ≠ (draining launching).nextId) ∧
    ((draining launching).ctx 0).state = 5 ∧ ((draining launching).queue 3).pkts = [launching] ∧ launching.req = none := by
  refine ⟨onePacket _ _ _ (by decide +kernel) rfl rfl, ?_⟩
  decide +kernel

/-! #### Contexts -/

/-- Context 0, selected, in a state with a configuration. -/
def inState (n : Nat) (rooted : Bool) : State :=
  { base.setCtx 0 { state := n, keys := 1, fring := 0x20007, swlen := 1, rooted := rooted, res := 1 } with teams := [], launches := [] }
theorem witness_ContextCommands :
    (∀ n ∈ List.range 7, ((inState n true).ctx 0).state = n) ∧ ((inState 0 false).ctx 0).keys ≠ 0 ∧
    (inState 0 false).keysFree = true ∧ ((inState 1 false).ctx 0).rooted = false ∧ ((inState 1 true).ctx 0).rooted = true ∧
    (({ inState 0 false with fw := { base.fw with keySlots := 0 } } : State).keysFree = false) ∧
    ((inState 3 true).ctx 0).res = 1 ∧ (∀ t ∈ (inState 3 true).teams, t.resident = false) := by decide +kernel
theorem witness_ContextEnds :
    awf {} (inState 5 true).queues = true ∧ awf {} (inState 5 true).kslots = true ∧
    awf {} (loaded (queued {} [])).queues = true ∧ awf {} (loaded (queued {} [])).kslots = true ∧
    (∀ n ∈ [0, 1, 4, 5, 6], ((inState n true).ctx (inState n true).cxq.csel).state = n) ∧
    (∀ l ∈ (inState 5 true).launches, l.ctx ≠ 0) ∧ (∀ t ∈ (inState 5 true).teams, (inState 5 true).ctxOf t ≠ 0) ∧
    ((inState 5 true).ctx 0).fwait = [] ∧ (∀ e ∈ (inState 5 true).queues, e.2.ctx = 0 → e.2.ring = 0) ∧
    (∀ l ∈ base.launches, l.ctx = 0 → (l.nextTeam ≠ 0 ∨ 2 ≤ l.phase) ∧ ∃ t ∈ base.teams, t.launch = l.id) := by decide +kernel
/-- Queue 3 selected, in a state. -/
def selected (n : Nat) : State :=
  let s := queued {} []
  { s.setQueue 3 { s.queue 3 with state := n } with cxq := { s.cxq with qsel := 3 } }
theorem witness_QueueRegisters :
    (∀ n ∈ [0, 1, 2], ((selected n).queue (selected n).cxq.qsel).state = n) ∧
    6 ≤ fieldOf ((selected 0).queue 3).ring.toNat 0 5 ∧ fieldOf ((selected 0).queue 3).ring.toNat 12 45 * 4096 % (64 * 2 ^ 6) = 0 ∧
    ((selected 2).queue 3).paused = none ∧
    qat ((selected 2).setQueue 3 { (selected 2).queue 3 with state := 0, en := false, err := 0, errOwed := some 0 })
      (((selected 2).queue 3).wakeVa 0x180) 1 0x30180 = true ∧
    ((16 : BitVec 32) - ((ringed 16).ctx 0).fhead).toNat ≤ (((ringed 16).ctx 0).ftail - ((ringed 16).ctx 0).fhead).toNat ∧
    ((ringed 16).ctx 0).ftail.toNat < (17 : BitVec 32).toNat ∧
    ((1 : BitVec 64).getLsbD 0 = true) ∧ ((2 : BitVec 64).getLsbD 0 = false) ∧
    (let s := (ringed 16).setCtx 0 { (ringed 16).ctx 0 with fhead := 4 }
     (s.ctx 0).fhead.toNat ≤ (s.ctx 0).ftail.toNat ∧ (3 : BitVec 32).toNat < (s.ctx 0).fhead.toNat) := by decide +kernel

/-! #### The dispatcher -/

/-- The launch of the running team, with teams to place. -/
def grid (gx : Nat) : Launch := { (base.launches.headD (launchOfText [])) with gx := gx }
def placing (nextTeam : Nat) : State := { base with teams := [], launches := [{ grid 4 with nextTeam := nextTeam, boosted := false }] }
theorem witness_TeamPlaces : ∀ n ∈ [0, 3],
    let s := placing n
    let l := { grid 4 with nextTeam := n, boosted := false }
    s.launch? l.id = some l ∧ l.kernel.gang = 0 ∧ s.launchHeld l = false ∧ l.phase = 1 ∧ l.read = true ∧ l.fault = none ∧
    l.aborted = false ∧ (s.ctx l.ctx).state = 2 ∧ l.nextTeam < l.gx * l.gy * l.gz ∧
    s.placeOk l.kernel l.handle [l.kernel.planOf] [0] = true ∧ s.isNext l.wait [0] = true ∧
    (({ s with teams := [] } : State).fitsNow l.wait).isSome = true := by decide +kernel
/-- A team that is swapped out, its lanes parked. -/
def swapped : Swapped :=
  { size := 65536, parked := true, why := [], tags := [], bars := [], sigs := [], counts := [], walks := [], rooms := [], links := []
    sets := [], works := [], kids := 0, nests := [], mig := false, chunks := [] }
def away (at_ : Nat) : State := withTeam (fun t => { t with resident := false, out := some swapped, swappedAt := at_ }) base
theorem witness_DispatchTimers :
    here base (fun t _ _ => base.team? t.id == some t && t.resident && !t.quantum && decide (t.placedAt + t.slice ≤ base.clk)) = true ∧
    here (withTeam (fun t => { t with placedAt := 9999999 }) base) (fun t _ _ => decide (base.clk < t.placedAt + t.slice)) = true ∧
    (let s := placing 0
     let l := { grid 4 with nextTeam := 0, boosted := false }
     s.team? l.id = none ∧ s.launch? l.id = some l ∧ l.boosted = false ∧ s.launchHeld l = false ∧ l.waitSince + 8 * quantumOf s ≤ s.clk) ∧
    (let s := { placing 0 with clk := 100 }
     let l := { grid 4 with nextTeam := 0, boosted := false }
     s.clk < l.waitSince + 8 * quantumOf s) ∧
    here (away 0) (fun t _ _ => (away 0).team? t.id == some t && t.out == some swapped && swapped.parked &&
      decide (t.swappedAt + 8 * quantumOf (away 0) ≤ (away 0).clk)) = true ∧
    here (away 9999999) (fun t _ _ => decide ((away 9999999).clk < t.swappedAt + 8 * quantumOf (away 9999999))) = true ∧
    here (withTeam (fun t => { t with out := some { swapped with parked := false } }) (away 0)) (fun t _ _ =>
      ((withTeam (fun t => { t with out := some { swapped with parked := false } }) (away 0)).teamWait t).isSome && !t.boosted) = true := by
  decide +kernel
/-- A suspended context with a swap area, and a team whose run is open; a team that wants to swap; one with nothing left. -/
def suspended : State := base.setCtx 0 { base.ctx 0 with state := 3, swlen := 4 }
def leaving : State := withTeam (fun t => { t with wantSwap := true }) suspended
def back : State := withTeam (fun t => { t with out := some { swapped with parked := false } }) (away 0)
def finished : State :=
  withGroup (fun g => { g with tsets := [], exited := lanes32 }) { base with launches := base.launches.map fun l => { l with gx := 2 } }
theorem witness_TeamSwaps :
    here (withSet (fun ts => { ts with fresh := false }) suspended) (fun t _ ts =>
      match suspended.launch? t.launch with
      | some l => l.kernel.gang == 0 && !t.wantSwap && t.leaving == none && t.resident && !t.halting && (suspended.ctx l.ctx).state == 3 &&
          decide (l.kernel.imageBytes ≤ suspended.swapRoom l.ctx) && ts.phase == .ready && !ts.fresh && !ts.stop
      | none => false) = true ∧
    here leaving (fun t g ts => match leaving.launch? t.launch with
      | some l => leaving.team? t.id == some t && l.kernel.gang == 0 && t.groups == [g] && g.tsets == [ts] && ts.phase == .ready &&
          ts.fresh && (t.cores.all fun c => (leaving.core c).wc == []) && leaving.cmds == [] && t.wantSwap &&
          decide (l.kernel.imageBytes ≤ leaving.swapRoom l.ctx)
      | none => false) = true ∧
    here back (fun t g _ => match back.teamWait t with
      | some w => back.placeOk w.k w.name w.plans [0] && back.isNext w [0] && t.groups == [g] && decide ((g.tsets.map (·.id)).Nodup)
      | none => false) = true ∧
    (match finished.teams with
      | [t] => finished.doneTeam t && (t.cores.all fun c => (finished.core c).wc == []) &&
          (match finished.launch? t.launch with
            | some l => l.phase == 1 && l.fault == none && !l.aborted && (finished.ctx l.ctx).state == 2 &&
                decide (l.ended + 1 < l.gx * l.gy * l.gz)
            | none => false)
      | _ => false) = true := by decide +kernel
/-- A launch's packet in the selected slot: none there, taken, executing before and after its first team. -/
def running1 (nextTeam : Nat) : State :=
  { queued {} [{ launching with state := 1, launch := 1 }] with launches := [{ grid 4 with nextTeam := nextTeam }] }
theorem witness_Cancels :
    (queued {} []).cx0Frozen = false ∧ ((queued {} []).queue 3).pkts = [] ∧ launching.state = 0 ∧ base.dbg.trc = false ∧ ((queued {} [launching]).queue 3).pkts = [launching] ∧
    launching.num % 2 ^ fieldOf ((queued {} [launching]).queue 3).ring.toNat 0 5 = (0 : BitVec 16).toNat ∧
    fieldOf (launching.at 0) 0 8 = 1 ∧ launching.state < 2 ∧
    (∀ n ∈ [0, 1], ((running1 n).launch? 1) = some { grid 4 with nextTeam := n }) ∧
    (∃ t ∈ (running1 1).teams, t.launch = 1) := by decide +kernel

/-! #### Kernels and translations -/

/-- A load of the 64 bytes at 0x10000 into context 0 has begun. -/
def loading : State := { base with cxq := { base.cxq with kimg := 0x10001, klen := 64, kdiag := 0x400 } }
/-- Every slot of context 0 holds a kernel. -/
def allSlots (n : Nat) : AMap KSlot := (List.range' 0 n).map fun k => (k, ⟨1, some plain⟩)
theorem aget_range (x : KSlot) : ∀ n a i, a ≤ i → i < a + n → aget {} ((List.range' a n).map fun k => (k, x)) i = x
  | 0, _, _, h1, h2 => absurd h2 (by omega)
  | n + 1, a, i, h1, h2 => by
    simp only [List.range', List.map_cons, aget]
    split
    · rfl
    · exact aget_range x n (a + 1) i (by omega) (by omega)
theorem witness_KernelLoads :
    base.cxq.kimg.getLsbD 0 = false ∧ loading.cxq.kimg.getLsbD 0 = true ∧ fieldOf loading.cxq.kimg.toNat 6 6 = 0 ∧
    loading.cxq.kreq = none ∧ loading.cx0Frozen = false ∧ loading.cxq.kfail = false ∧ (loading.kslot 0 0).kernel = none ∧
    (match loading.imgPages 0 (fieldOf loading.cxq.kimg.toNat 12 45 * 4096) ((fieldOf loading.cxq.klen.toNat 0 32 + 4095) / 4096) with
      | (s0, .ok ps) => ps == [0x10000] && !s0.imgLost ⟨64, ps⟩ | _ => false) = true ∧
    (let s := { loading with badBytes := [0x10000] }
     s.cx0Frozen = false ∧ (s.kslot 0 0).kernel = none ∧
     (match s.imgPages 0 (fieldOf s.cxq.kimg.toNat 12 45 * 4096) ((fieldOf s.cxq.klen.toNat 0 32 + 4095) / 4096) with
      | (s0, .ok ps) => s0.imgLost ⟨64, ps⟩ | _ => false) = true) ∧
    (loaded base).handleKernel (fieldOf (0x1005 : BitVec 32).toNat 26 6) (0x1005 : BitVec 32).toNat = some (5, plain) := by
  decide +kernel
theorem witness_KernelLoads_full :
    ∀ i, i < 4096 → (({ loading with kslots := allSlots 4096 } : State).kslot 0 i).kernel ≠ none := by
  intro i hi
  have h : aget {} (allSlots 4096) (4096 * 0 + i) = (⟨1, some plain⟩ : KSlot) := aget_range _ 4096 0 _ (by omega) (by omega)
  show (aget {} (allSlots 4096) (4096 * 0 + i)).kernel ≠ none
  rw [h]; exact Option.some_ne_none _
theorem witness_CheckedTextsAreWellFormed : plain.textFault = none ∧
    ({ plain with text := plain.text ++ plain.text, emu := some 2 } : Kernel).textFault = none := by decide +kernel
def unchecked : Kernel := kernelOfText [endWord]
/-- A key in translation, its launch waiting; a text that fails its check. -/
def translating (k : Kernel) (looked : Bool) : State :=
  { base with teams := [], nextId := 100, xlates := [⟨0, 5, 0x1005, k, looked, [0x1005]⟩], kslots := [(5, ⟨1, some k⟩)],
              launches := [{ launchOfText [] with kernel := k, slot := 5, phase := 0 }] }
theorem witness_TranslationsComplete :
    plain.textFault = none ∧ (∀ b ∈ [true, false],
      ((translating plain b).xlates.find? fun y => y.ctx == 0 && y.slot == 5) = some ⟨0, 5, 0x1005, plain, b, [0x1005]⟩ ∧
      (translating plain b).tcache = [] ∧ (translating plain b).launches.all (fun l => l.phase == 0 && l.kernel == plain) = true) ∧
    unchecked.textFault.isSome = true ∧
    ((translating unchecked true).xlates.find? fun y => y.ctx == 0 && y.slot == 5) = some ⟨0, 5, 0x1005, unchecked, true, [0x1005]⟩ ∧
    (translating unchecked true).launches.length = 1 ∧ (∀ l ∈ (translating unchecked true).launches,
      l.phase = 0 ∧ l.kernel = unchecked ∧ l.queue = none ∧ l.parent = none ∧ l.ccaddr = 0 ∧ l.req = none ∧ l.slot < 4096 ∧
      l.ctx * 2 ^ 26 + ((translating unchecked true).kslot l.ctx l.slot).gen * 2 ^ 12 + l.slot = 0x1005) ∧
    (translating unchecked true).cx0Frozen = false ∧ ((translating unchecked true).kslot 0 5).kernel = some unchecked := by
  decide +kernel
def cached (es : List TEntry) : State := { loaded base with tcache := es }
theorem witness_EntriesLive :
    (∀ e ∈ [{ entry with stored := 2 ^ 24 }, { entry with stored := 2 ^ 24 - 1 }, { entry with state := 2 },
        { entry with state := 3 }], (cached [e]).tcache.find? (fun y => y.id == e.id) = some e) ∧
    (let a : TEntry := { entry with last := 0 }
     let b : TEntry := { entry with id := 91, last := 1 }
     (∀ y ∈ (cached [{ a with state := 3 }]).tcache, y.id ≠ (cached [{ a with state := 3 }]).nextId) ∧
     (cached [a, b]).tcache = [a, b] ∧ a.id ≠ b.id ∧ a.last < b.last ∧ a.state ≠ 3 ∧ b.state ≠ 3 ∧
     (∀ l ∈ (cached [a, b]).launches, l.phase = 1 → l.entry ≠ a.id ∧ l.entry ≠ b.id ∧ l.nextTeam ≠ 0) ∧ ({ a with state := 3 } : TEntry).state = 3) ∧
    base.handleKernel 0 0x1005 = none ∧ (cached [entry]).handleKernel 0 0x1005 = some (5, plain) ∧
    (cached [entry]).entryFor plain = some entry ∧ entry.sites.length ≤ 14 ∧
    cx { cached [entry] with cxq := { kpres := 0, kpbuf := 0x20000 } } 0 0x20000 1 0x20000 = true := by decide +kernel
/-- A launch of the entry whose load at word 1 is kept below the store at word 0: no rollback names that pair. -/
def keeping (kept : List (Nat × Nat)) : State :=
  { openLoad false with
    tcache := [{ entry with kept := kept }], launches := (openLoad false).launches.map fun l => { l with entry := 90, kept := kept } }
theorem witness_KeptSites :
    here (keeping [(1, 7)]) (fun t _ ts => (keeping [(1, 7)]).keptSites t == [(1, 7)] &&
      ((keeping [(1, 7)]).conflicts c0 ((keeping [(1, 7)]).kernelOf t) ts [(1, 7)]).contains (1, 0)) = true ∧
    -- R118: with the pair kept, the load is not hoisted above its store
    here (keeping [(1, 0)]) (fun t _ ts =>
      (keeping [(1, 0)]).conflicts c0 ((keeping [(1, 0)]).kernelOf t) ts ((keeping [(1, 0)]).keptSites t) == []) = true ∧
    -- the entry of a launch's kernel, on a machine of one package
    (cached [entry]).entryFor plain = some entry ∧ (cached [entry]).tcache.find? (fun y => y.id == entry.id) = some entry ∧
    ∀ n ∈ (cached [entry]).members, n = (cached [entry]).pkg := by
  decide +kernel
/-- The running team has pushed a record for the loaded kernel; with BAR and a child outstanding. -/
def pushing (word0 : Reg) (kids : Nat) : State :=
  withTeam (fun t => { t with children := [[word0, 0, 0x1005, 0x100001, 1, 0, 0, 9]], kids := kids }) (loaded base)
def drainingChild : State := (pushing 0 1).setCtx 0 { (pushing 0 1).ctx 0 with state := 5 }
theorem witness_ChildLaunchesEnter :
    base.nextHandOver ≠ some (.child 2) ∧
    here (pushing 0x100 1) (fun t _ _ => (pushing 0x100 1).team? t.id == some t && t.children.length == 1 && t.kids != 0 &&
      (pushing 0x100 1).teams == [t] && ((pushing 0x100 1).launch? t.launch).isSome) = true ∧
    here drainingChild (fun t _ _ => drainingChild.nextHandOver == some (.child t.id) && t.children.length == 1 &&
      (match drainingChild.launch? t.launch with | some p => (drainingChild.ctx p.ctx).state == 5 | none => false)) = true ∧
    drainingChild.dbg.trc = false ∧ drainingChild.cx0Frozen = false ∧
    (∀ y ∈ drainingChild.launches, y.id ≠ drainingChild.nextId) ∧
    here (pushing 0 1) (fun t _ _ => (pushing 0 1).nextHandOver == some (.child t.id) && (match (pushing 0 1).launch? t.launch with
      | some p => ((pushing 0 1).ctx p.ctx).state != 5 && (pushing 0 1).handleKernel p.ctx 0x1005 == some (5, plain)
      | none => false)) = true ∧
    plain.priv = 0 ∧ plain.rejected = false ∧ plain.gang = 0 ∧ plain.params = [] ∧
    (pushing 0 1).entryFor plain = some entry ∧
    (∀ y ∈ (pushing 0 1).launches, y.id ≠ (pushing 0 1).nextId) := by decide +kernel

/-! #### Paging -/

theorem noWaiters (s : State) (h : s.teams = [] ∧ s.launches = [] ∧ s.msgs = [] ∧ s.cxq.late = [] ∧ s.cores = [] ∧
    s.accesses = []) : NoWaiters s :=
  ⟨h.1, h.2.1, h.2.2.1, h.2.2.2.1, fun c => by rw [State.core, h.2.2.2.2.1]; rfl, h.2.2.2.2.2⟩
/-- No team or launch, and a walk of core 0 in flight for an address. -/
def idle : State := { base with teams := [], launches := [] }
def walkOf (va : Nat) : Walk := ⟨7, 0, 0, va, 1, false, none, [.set 2 0 0]⟩
def walking (va n : Nat) : State := { idle with walks := [walkOf va], pg := { idle.pg with fq := BitVec.ofNat 64 (0x50000 + n) } }
theorem witness_PageWalks :
    (walking 0x40000 4).msgs = [] ∧ (match (walking 0x40000 4).walkFor 0 0 0x40000 1 with
      | .leaf _ p level => p.testBit 9 == false && p.testBit 2 &&
          (walking 0x40000 4).leafFault 0 p (leafPage p level 0x40000 + 0x40000 % 4096) 1 false == none
      | _ => false) = true ∧
    (∀ n ∈ [4, 16], (walking 0x40000000 n).walkFor 0 0 0x40000000 1 = .request 1 2 ∧
      (walking 0x40000000 n).shut (fieldOf (walking 0x40000000 n).pg.fq.toNat 12 44 * 4096) = false ∧
      fieldOf (walking 0x40000000 n).pg.fq.toNat 0 5 = n ∧
      ((walking 0x40000000 n).pg.fqt - (walking 0x40000000 n).pg.fqh).toNat < 2 ^ n) := by decide +kernel
/-- Request 3 is outstanding, and the walk waits for it. -/
def asked : PReq := ⟨3, 0x40000000, 0, 1, 1, 2, true⟩
def asking : State := { idle with preqs := [asked], walks := [{ walkOf 0x40000000 with req := some 3 }] }
theorem witness_PageAnswers : OnlyWalksWait asking asked ∧
    fieldOf (0x300 : BitVec 64).toNat 8 32 = asked.id ∧ fieldOf (0x300 : BitVec 64).toNat 0 8 = 0 ∧
    (∀ code ∈ [3, 5], fieldOf (BitVec.ofNat 64 (0x300 + code)).toNat 8 32 = asked.id ∧
      fieldOf (BitVec.ofNat 64 (0x300 + code)).toNat 0 8 = code) :=
  ⟨⟨rfl, noWaiters _ ⟨rfl, rfl, rfl, rfl, rfl, rfl⟩, by decide +kernel, by decide +kernel, by decide +kernel⟩, by decide +kernel⟩
theorem witness_PagingRegisters :
    (∀ n ∈ [0, 1], (({ base with ctxs := [(0, { state := n })] } : State).ctx 0).state = n) ∧ base.preqs = [] ∧
    (1 <<< 62 : BitVec 64).getLsbD 62 = true ∧ (0 : BitVec 64).getLsbD 62 = false ∧
    (({ base with pg := { inval := 1 <<< 63 } } : State).pg.inval.getLsbD 63 = true) ∧ awf 0 base.counters = true ∧
    (let s := { base with pg := { base.pg with cthr := 0x2FFFF } }
     fieldOf s.pg.cthr.toNat 16 16 ≠ 0 ∧ s.pg.epoch + fieldOf s.pg.cthr.toNat 16 16 * 2 ^ 20 ≤ s.clk) ∧
    base.clk < ({ base.pg with epoch := base.clk } : Pg).epoch + fieldOf base.pg.cthr.toNat 16 16 * 2 ^ 20 := by decide +kernel
/-- A migration of the 4 KiB frame at 0x20000 to a frame, its leaf as it stands before and during the copy. -/
def migOf (dst : Nat) : Mig := { src := 0x20000, dst := BitVec.ofNat 64 dst, pte := 0x5000 }
def migrating (_dst leaf : Nat) (m : Mig) : State :=
  { idle with pg := { idle.pg with migs := [(0, m)] } }.putNat 0x5000 8 leaf
theorem migrating_idle (dst leaf : Nat) (m : Mig) : NoWaiters (migrating dst leaf m) := noWaiters _ ⟨rfl, rfl, rfl, rfl, rfl, rfl⟩
/-- The engine as GO finds it, and as it stands during the copy. -/
def begun (dst : Nat) : Mig := { migOf dst with srcPa := 0x20000, dstPa := dst, pteAt := 0x5000 }
theorem witness_Migrations :
    (1 : BitVec 64).getLsbD 0 = true ∧ fieldOf (1 : BitVec 64).toNat 3 2 = 0 ∧ (0 : BitVec 64).getLsbD 0 = false ∧
    (∀ d ∈ [0x30000, 2 ^ 50], ∀ leaf ∈ [0x80D7, 0], (aget {} (migrating d leaf (migOf d)).pg.migs 0).busy = false ∧
      leNat (readBytes (migrating d leaf (migOf d)).mem 0x5000 8) = leaf ∧ (migrating d leaf (migOf d)).shut 0x5000 = false ∧
      (migrating d leaf (migOf d)).locBad (.mem 0x5000) 8 = false) ∧
    ({ migrating 0x30000 0x80D7 (migOf 0x30000) with badBytes := [0x5004] } : State).locBad (.mem 0x5000) 8 = true ∧
    (Nat.testBit 0x80D7 0 = true ∧ Nat.testBit 0x80D7 2 = true ∧ Nat.testBit 0x80D7 8 = false ∧ Nat.testBit 0x80D7 9 = false ∧
       Nat.testBit 0x80D7 63 = false ∧ fieldOf 0x80D7 10 44 = framePpn 0 0x20000 ∧ 0x20000 % frameBytes 0 = 0) ∧
    base.sealedMig (begun 0x30000) = false ∧ base.sealedMig (begun 0xFF80000000) = true ∧
    paKey 0x20000 = paKey 0x30000 ∧ paKey 0x20000 ≠ paKey (2 ^ 50) := by
  decide +kernel
def moving (leaf : Nat) : State := migrating 0x30000 leaf { begun 0x30000 with busy := true, leaf := 0x80D7 + 2 ^ 8 - 2 ^ 2 }
theorem witness_MigrationEnds : ∀ leaf ∈ [0x80D7 + 2 ^ 8 - 2 ^ 2, 0],
    let s := moving leaf
    let m := aget {} s.pg.migs 0
    s.mem.wf = true ∧ m.busy = true ∧ leNat (readBytes s.mem m.pteAt 8) = leaf ∧ m.leaf = 0x80D7 + 2 ^ 8 - 2 ^ 2 ∧
    s.migHeld m = false ∧ s.shut m.pteAt = false ∧ s.locBad (.mem m.pteAt) 8 = false ∧
    (let k := { s with pg := { s.pg with migs := [(0, { m with pteAt := 2 ^ 50 + 0x5000 })] }, fw := { s.fw with keySlots := 1 } }
     let j : Mig := aget {} k.pg.migs 0
     j.busy = true ∧ k.shut j.pteAt = true ∧ k.migHeld j = false ∧ k.migBad j = false) ∧
    s.migBad m = false ∧ ({ s with badBytes := [0x20010] } : State).migBad m = true ∧
    m.pteAt + 8 ≤ m.dstPa := by decide +kernel
-- R203: a migration ends with the leaf at its new frame
theorem test_migration_end : (match exec (.migrationCopyEnd 0 true) (moving (0x80D7 + 2 ^ 8 - 2 ^ 2)) with
    | .next s => leNat (readBytes s.mem 0x5000 8) == 0xC0D7 && (s.mig 0).status == 1 | _ => false) = true := by decide +kernel
/-- A descriptor at 0x6000 that names two frames, and replica sets. -/
def describing (f0 f1 : Nat) (rs : List Repl) : State :=
  { ((idle.putNat 0x6000 8 2).putNat 0x6008 8 f0).putNat 0x6010 8 f1 with repls := rs }
def otherSet : Repl := ⟨0x7000, 0, 0, []⟩
theorem witness_ReplicaSets :
    fieldOf (BitVec.ofNat 64 0x6010).toNat 6 50 * 64 = 0x6000 ∧ fieldOf (BitVec.ofNat 64 0x6010).toNat 4 2 = 1 ∧
    fieldOf (BitVec.ofNat 64 0x6020).toNat 6 50 * 64 = 0x6000 ∧ fieldOf (BitVec.ofNat 64 0x6020).toNat 4 2 = 2 ∧
    (let s := describing 0x0 0xA000000000 []
     let frames := (List.range (fieldOf (leNat (readBytes s.mem 0x6000 8)) 0 4)).map fun k => leNat (readBytes s.mem (0x6000 + 8 * (k + 1)) 8)
     frames = [0, 0xA000000000] ∧ (frames.map fun f => (paPkg f, paQuay f)).Nodup ∧
       ∀ f ∈ frames, f % 4096 = 0 ∧ paKey f = paKey (frames.headD 0) ∧ f < 2 ^ 56 ∧ s.paHole f = false ∧ s.sealed f = false) ∧
    ({ describing 0 0 [] with fw := { base.fw with sealed := [(0x6000, 64)] } } : State).shut 0x6000 = true ∧
    (describing 0 0 []).shut 0x6000 = false ∧ (describing 0 0 []).locBad (.mem 0x6000) 64 = false ∧
    ({ describing 0 0 [] with badBytes := [0x603F] } : State).locBad (.mem 0x6000) 64 = true ∧
    (let s := describing 0 0 []
     ¬((([1, 2].map fun k => leNat (readBytes s.mem (0x6000 + 8 * k) 8)).map fun f => (paPkg f, paQuay f)).Nodup)) ∧
    ((∀ r ∈ (describing 0 0 [otherSet]).repls, r.desc ≠ 0x6000) ∧
     ((describing 0 0 [{ otherSet with desc := 0x6000 }]).repls = [{ otherSet with desc := 0x6000 }])) ∧
    (∀ e ∈ idle.tlbs, e.rep ≤ 1) := by decide +kernel
theorem witness_ReplicaSets_full : 4096 ≤ (describing 0 0xA000000000 (List.replicate 4096 otherSet)).repls.length := by
  exact Nat.le_of_eq List.length_replicate.symm
theorem witness_ReplicaSets_room : (describing 0 0xA000000000 (List.replicate 4095 otherSet)).repls.length < 4096 := by
  exact lt_of_eq_of_lt (List.length_replicate (n := 4095) (a := otherSet)) (by omega)

/-! #### Engines and barriers -/

/-- A tile whose bytes lie side by side in the banks. -/
theorem keysApart_run (u : Team) (off base : Nat) (h : ∀ i < 512, u.scrKey (off + i) = base + i) : KeysApart u off := by
  intro i j hi hj hij
  rw [h i hi, h j hj] at hij
  omega
/-- The running team, its scratch one flat area, and laid out from the second bank on; a tile of sixteen beats. -/
def flat (s : State) : Team := (s.team? 2).getD ((State.reset.withText []).newTeam (launchOfText []) 0 [])
def moved : State := withTeam (fun t => { t with plan := [⟨0, 0, 1, 0, 0, 65536, 0, 0⟩] }) base
theorem witness_ArrivalsFillTiles : KeysApart (flat base) 512 ∧ KeysApart (flat moved) 0 ∧ (flat moved).scrKey 0 = 262144 ∧ 512 % 512 = 0 ∧
    (List.replicate 512 (1 : Byte)).length = 512 ∧ ((flat base).tag 512).mask = 0 ∧
    (((flat base).setTag 512 ⟨0xFFFF, false, false⟩).tag 512).mask = 0xFFFF :=
  ⟨keysApart_run _ _ 512 (by decide +kernel), keysApart_run _ _ 262144 (by decide +kernel), by decide +kernel⟩
/-- A fragment for tile 1 of team 2, or of a team that does not exist, and a fill of that tile from address 0x10000. -/
def fragment (to_ : Nat) : Frag :=
  ⟨7, 2, 0, [5], 0, 5, none, .scr to_ 512, 0, List.replicate 512 0, 0xFFFF, 0xFFFF, 0, false, 0⟩
def filling (slot : Option Nat) : Fill := ⟨7, 2, 0, [5], 0, 5, slot, 512, 0x10000, 0⟩
def openTeam (s : State) (id : Nat) : Bool :=
  match s.team? id with | some u => u.released == [] && u.closed == [] | none => false
theorem witness_TileEvents :
    (let s := { base with frags := [fragment 2] }
     openTeam s 2 = true ∧ here s (fun t _ _ => t.scrRead 0 512 == List.replicate 512 0) = true ∧ (fragment 2).left = (fragment 2).mask ∧
       s.fragHeld (fragment 2) = false ∧ (fragment 2).mask ≠ 0) ∧
    (let s := { base with frags := [fragment 9] }
     s.team? 9 = none ∧ (s.team? 2).isSome = true) ∧
    ∀ slot ∈ [some 1, none], openTeam { base with fills := [filling slot] } 2 = true ∧
      here { base with fills := [filling slot] } (fun t _ _ =>
        ({ base with fills := [filling slot] } : State).enginePlace
          { core := t.coreNo (t.coreAt 512), ctx := base.ctxOf t, kind := 0, me := .engine 7 } 0x10000 512 == .at (.mem 0x10000)) = true ∧
      ({ base with fills := [filling slot] } : State).locBad (.mem 0x10000) 512 = false := by decide +kernel
/-- A copy of the 256 bytes at the end of a page to the end of another. -/
def copyArgs : CopyArgs := ⟨0, none, false, 0, 0x10F00, 0x10000, 256, 1, 0, 0, 0, 0⟩
def copyCmd : Cmd := ⟨7, 2, 0, 0, 0, 5, [5], copyArgs, [(2, 0)], [], [0], [], [], false, true, [], [], [], [], 0⟩
def copies : State := withGroup (fun g => { g with copies := [⟨7, 0, 0, 1⟩] }) { base with cmds := [copyCmd] }
theorem witness_CopySegments :
    here copies (fun t g _ => t.id == 2 && t.resident && (copies.core (t.coreNo 0)).frozen == 0 && g.copies == [⟨7, 0, 0, 1⟩] &&
      copies.enginePlace { core := t.coreNo 0, ctx := copies.ctxOf t, kind := 0, me := .engine 7 } 0x10F00 256 == .at (.mem 0x10F00) &&
      copies.enginePlace { core := t.coreNo 0, ctx := copies.ctxOf t, kind := 1, me := .engine 7 } 0x10000 256 == .at (.mem 0x10000)) = true ∧
    copies.cmds = [copyCmd] ∧ copies.cores = [] ∧ copies.locBad (.mem 0x10F00) 256 = false ∧ copies.hbmFailed 0x10000 256 = false ∧ vaClass 0x10F00 = .user ∧
    vaClass 0x10000 = .user ∧ 0x10F00 % 4096 + 256 = 4096 := by decide +kernel
/-- A local nest that is armed; one that runs its last K-block, its FIFOs full, on a tile that it clears and on one that it does
not; a gang of one team of two cores. -/
def local1 (set : AMap Nat) (clr : Option Nat) : Active :=
  { set := set, its := [0, 0, 0, 0, 0, 0], xs := [0, 0, 0, 0, 0, 0], tiles := [0], group := 0, lanes := [5], pc := 0, gang := false
    owner := false, team := 2, clr := clr }
def armed : State := withTeam (fun t => t.setNest 0 { nest0 with armed := some (local1 [] none) }) base
theorem witness_NestStarts : here armed (fun t _ _ => t.resident && t.leaving == none && !armed.coreIdle (t.coreNo 0) && armed.acreds == [] &&
      (t.nest 0).armed == some (local1 [] none) && (t.nest 0).active == none && !(local1 [] none).gang) = true := by decide +kernel
def feeding (a : Active) : State :=
  withTeam (fun t => { t.setNest 0 { nest0 with active := some a } with
    fifos := [(0, { fifo0 with conf := true, nb := 1, wr := 16384, bytes := List.replicate 16384 0 })] }) base
def nestSet : AMap Nat := [(1, 0), (2, 0), (14, 1)]
theorem witness_BlocksRetire : ∀ clr ∈ [some 0, none], here (feeding (local1 nestSet clr)) (fun t _ _ =>
      let s := feeding (local1 nestSet clr)
      t.resident && t.leaving == none && !s.coreIdle (t.coreNo 0) && s.acreds == [] && (t.nest 0).active == some (local1 nestSet clr) &&
      (t.nest 0).armed == none && ((List.range 6).all fun n => nxTrip nestSet n == 1) &&
      ((nxStreams nestSet).all fun x => (t.fifo 0 x.fifo).readable x.bytes && (t.fifo 0 x.fifo).bad == []) &&
      !(t.block 0 (local1 nestSet clr)).malformed && decide ((t.block 0 (local1 nestSet clr)).rv ≤ 128) &&
      decide ((t.block 0 (local1 nestSet clr)).cv ≤ 128)) = true ∧ (nxCtl nestSet 0).testBit 0 = true := by decide +kernel
def reducing : State :=
  { withKernel (fun k => { k with cores := 2, gang := 2 }) base with acreds := [⟨7, 2, 0, [5], 0, 0, none, 0, 1, []⟩] }
theorem witness_GangReductions : here reducing (fun t _ _ => !reducing.coreIdle (t.coreNo 0) && (reducing.kernelOf t).gang == 2 &&
    reducing.rankPlace t 0 == some (2, 0) && reducing.rankPlace t 1 == some (2, 1)) = true := by decide +kernel
/-- Blocks whose products cancel and do not. -/
def block1 (x : Byte) : Block := ⟨1, false, false, 1, 1, 2, [1] ++ List.replicate 127 0 ++ [1], [1] ++ List.replicate 127 0 ++ [x], [], []⟩
theorem witness_IntegerBlocks : ∀ x ∈ [(0xFF, (0 : Int)), (1, 2)],
    ((List.range (block1 x.1).kv).map fun p => signedOf 8 ((block1 x.1).a.getD (128 * p) 0).toNat *
      signedOf 8 ((block1 x.1).b.getD (128 * p) 0).toNat).sum = x.2 ∧ (readF fmtF32 false 0x3F800000).isNan = false ∧
    (readF fmtF32 false 0x7FC00000).isNan = true := by decide +kernel
/-- A team barrier that expects 32 threads; with lane 5 arrived; with every thread arrived. -/
def bar32 (a : Nat) (arr : List Nat) : Barrier := ⟨32, a, 0, 0, 0, none, 0, 1, false, arr, [], false⟩
def barred (x : Barrier) : State := withTeam (fun t => { t with bars := [(3, x)] }) base
/-- A phase that a lane has entered before, has dropped out of, is of the gang, or is held. -/
def dropped5 : Barrier := { bar32 0 [] with drp := [5] }
def gangPhase : Barrier := { bar32 1 [5] with kind := 2 }
theorem witness_BarrierWords :
    (bar32 0 []).a = 0 ∧ (bar32 0 []).m = 0 ∧ (bar32 1 [5]).a ≠ 0 ∧
    (∀ op ∈ [1, 3, 4], (bar32 0 []).kind = kindOfWord op) ∧ ({ bar32 0 [] with kind := 0 } : Barrier).kind = 0 ∧ gangPhase.kind = kindOfWord 7 ∧
    (bar32 0 []).held = false ∧ (bar32 0 []).a + lanes32.length ≤ (bar32 0 []).e ∧ (∀ l ∈ lanes32, 32 * 0 + l ∉ (bar32 0 []).arr ∧ 32 * 0 + l ∉ (bar32 0 []).drp) ∧
    gangPhase.a + [4, 6].length ≤ gangPhase.e ∧ (∀ l ∈ [4, 6], 32 * 0 + l ∉ gangPhase.arr ∧ 32 * 0 + l ∉ gangPhase.drp) ∧
    (∀ m ∈ [3, 4], 32 * 0 + m ∉ (bar32 1 [5]).arr ∧ 32 * 0 + m ∉ (bar32 1 [5]).drp) ∧ 32 * 0 + 5 ∈ (bar32 1 [5]).arr ∧
    32 * 0 + 5 ∉ dropped5.arr ∧ 32 * 0 + 5 ∈ dropped5.drp ∧ (gangPhase.kind = 2 ∧ (1 : Nat) ≠ 7) ∧ ((bar32 0 []).kind = 1 ∧ (7 : Nat) = 7) ∧
    (bar32 32 []).e < (bar32 32 []).a + 1 ∧ 65535 < ({ bar32 0 [] with m := 65535 } : Barrier).m + 1 ∧ (bar32 0 []).m + 65535 ≤ 65535 ∧
    (bar32 0 []).lrem = 0 ∧ (let x : Barrier := { bar32 0 [] with lrem := 1, link := some (0, 3) }
      x.link = some (0, 3) ∧ x.lrem ≠ 0 ∧ x.link ≠ some (0, 4)) ∧
    (bar32 1 [5]).a < 2 ^ 14 ∧ (bar32 1 [5]).e < 2 ^ 14 ∧ (bar32 1 [5]).m < 2 ^ 16 ∧ (bar32 1 [5]).kind ≤ 2 ∧ (base.view c0).isSome = true := by
  decide +kernel
/-- A gang of two teams, each at a barrier. -/
def gangOfTwo (x y : Barrier) : State :=
  let s := withKernel (fun k => { k with gang := 2 }) (barred x)
  { s with teams := s.teams ++ s.teams.map fun t => { t with id := 3, index := 1, bars := [(3, y)] } }
theorem witness_BarrierFlips :
    (∀ x ∈ [bar32 32 [], bar32 31 []], here (barred x) (fun t _ _ => t.bar 3 == x && (barred x).team? t.id == some t) = true) ∧
    ((bar32 32 []).held = false ∧ (bar32 32 []).a = (bar32 32 []).e ∧ (bar32 32 []).m ≤ (bar32 32 []).c ∧ 0 < (bar32 32 []).a + (bar32 32 []).m) ∧
    (bar32 31 []).a ≠ (bar32 31 []).e ∧ (bar32 32 []).kind ≠ 2 ∧
    (∀ h ∈ [false, true],
      let s := gangOfTwo { bar32 32 [] with kind := 2 } { bar32 32 [] with kind := 2, held := h }
      (s.teams.map (·.id)).Nodup ∧ here s (fun t _ _ => s.team? t.id == some t && (s.gangOf t).length == (s.kernelOf t).gangTeams &&
        (s.gangOf t).any (fun u => u.id != t.id && (u.bar 3).held == h)) = true) := by decide +kernel

/-! #### Links, remote accesses and the transport -/

/-- Polder link 0 or quay link 0 selected, as it stands, and nothing that waits for it. -/
def linked (n : Nat) (x : Link) : State := { idle with links := [(n, x)], nt := { base.nt with lksel := BitVec.ofNat 64 (n / 512 * 65536) } }
def bursting : Link := { state := 2, recent := List.replicate 65536 10000000 }
theorem witness_LinkEvents :
    (∀ n ∈ [1024, 512], ∀ st ∈ [0, 1, 2, 3, 4, 5], ((linked n { state := st }).link n).state = st ∧
      n = 512 * fieldOf (linked n {}).nt.lksel.toNat 16 2 + fieldOf (linked n {}).nt.lksel.toNat 0 9 ∧
      fieldOf (linked n {}).nt.lksel.toNat 0 9 < [512, 64, 16, 8].getD (fieldOf (linked n {}).nt.lksel.toNat 16 2) 0) ∧
    PolderLink 1024 ∧ PolderLink 1039 ∧ QuayLink 512 ∧ QuayLink 575 ∧ ({ state := 1 } : Link).lost = [] ∧ ({ state := 1 } : Link).width = 0 ∧
    (64 : Nat) < 256 ∧ ¬(64 < fieldOf ({} : Link).thr.toNat 8 8 ∨ 64 < fieldOf ({} : Link).thr.toNat 0 8) ∧
    63 < fieldOf ({} : Link).thr.toNat 8 8 ∧ ({ auto := false } : Link).auto = false ∧ ({} : Link).auto = true ∧
    ({ state := 1, since := 9750000 } : Link).since + 250000 ≤ base.clk ∧ base.clk < ({ state := 1, since := 9750001 } : Link).since + 250000 := by
  refine ⟨by decide +kernel, ⟨by omega, by omega⟩, ⟨by omega, by omega⟩, ⟨by omega, by omega⟩, ⟨by omega, by omega⟩, ?_⟩
  decide +kernel
theorem linked_idle (n : Nat) (x : Link) : NoWaiters (linked n x) := noWaiters _ ⟨rfl, rfl, rfl, rfl, rfl, rfl⟩
theorem witness_LinkBursts : 2 ^ 16 ≤ (bursting.recent.filter fun t => decide ((linked 1024 bursting).clk ≤ t + 2 ^ 20)).length := by
  have h : bursting.recent.filter (fun t => decide ((linked 1024 bursting).clk ≤ t + 2 ^ 20)) = bursting.recent :=
    List.filter_eq_self.mpr fun t ht => by rw [List.eq_of_mem_replicate ht]; decide +kernel
  rw [h]; exact Nat.le_of_eq List.length_replicate.symm
theorem witness_LinkLanes : ∀ n ∈ [512, 1024], ((linked n { state := 2 }).link n).state = 2 ∧
    ((linked n { state := 2 }).link n).lost = [] ∧ ((linked n { state := 2 }).link n).width = 0 := by decide +kernel
/-- A remote access of a kind, sent at a time; a buffered byte born at a time. -/
def access (kind sent : Nat) (loc : Loc) : Access :=
  { id := 9, team := 2, group := 0, lanes := [5], pc := 0, lane := 5, kind := kind, loc := loc, va := 0, len := 4, undo := []
    sent := sent, part := 0, pkt := 9 }
def reaching (a : Access) : State :=
  withSet (fun ts => { ts with phase := .parked (.remote 9) }) { base with accesses := [a], members := [0, 1] }
theorem oneAccess (kind sent : Nat) (loc : Loc) : OneAccess (reaching (access kind sent loc)) (access kind sent loc) := ⟨rfl, rfl⟩
/-- The polder links all in a state. -/
def polder (st : Nat) (s : State) : State := { s with links := polderLinks.map fun n => (n, { state := st }) }
def wcEntry (born : Nat) : WcEntry := ⟨0x80000000000, [(4, some 7)], [(⟨2, 0, [5], 0, 5, 0⟩, 0x80000000000)], born⟩
def buffering (born : Nat) : State := { base with cores := [(0, { wc := [wcEntry born] })] }
theorem witness_RemoteAccesses :
    (let n := fieldOf base.nt.fab.toNat 0 12
     let tmr := if n = 0 then 1024 else n
     let a := access 1 (10000000 - 4 * tmr) (.mem 0)
     (a.spill = false ∧ a.sent + 4 * tmr ≤ base.clk) ∧ base.clk < (access 1 10000000 (.mem 0)).sent + 4 * tmr) ∧
    (let s := reaching (access 1 0 (.mem 0))
     s.allHold polderLinks = false ∧ s.polderCut = false ∧ (polder 1 s).allHold polderLinks = true ∧
       (polder 5 s).allHold polderLinks = false ∧ (polder 5 s).polderCut = true) ∧
    (let n := max (fieldOf base.nt.fab.toNat 12 12) 64
     (((buffering (10000000 - n)).core 0).wc = [wcEntry (10000000 - n)] ∧ (wcEntry (10000000 - n)).born + n ≤ base.clk) ∧
       base.clk < (wcEntry 10000000).born + n) ∧
    here (reaching (access 0 0 (.mem 0))) (fun t g ts => g.tsets == [ts] && ts.phase == .parked (.remote 9) && t.id == 2) = true ∧
    (reaching (access 0 0 (.mem 0))).cores = [] ∧ (List.replicate 4 (0 : Byte)).length = (access 0 0 (.mem 0)).len ∧
    (wcEntry 0).line % 128 = 0 ∧ base.fw.keySlots.getLsbD (paKey (wcEntry 0).line) = true ∧
    (let n := fieldOf base.nt.fab.toNat 24 24
     ((access 1 (10000000 - n) (.mem 0)).sent + n ≤ base.clk ∧ base.clk < (access 1 10000000 (.mem 0)).sent + n)) ∧
    paPkg 0x80000000000 = 1 ∧ base.pkg ≠ 1 ∧ ((reaching (access 1 0 (.mem 0x80000000000))).team? 2).isSome = true ∧
    (let s := reaching (access 1 0 (.mem 0x80000000000))
     s.msgs = [] ∧ s.queues = [] ∧ s.cmds = [] ∧ s.fills = []) ∧
    here base (fun t g _ => (let s := withSet (fun ts => { ts with phase := .ready }) (reaching (access 1 0 (.mem 0x80000000000)))
      s.parkedJoin == false) && t.id == 2 && g.index == 0) = true := by decide +kernel
/-- A fill of a probe slot from a page that lies on package 1. -/
def farFill : Fill := ⟨7, 2, 0, [5], 0, 5, some 0, 512, 0x11000, 0⟩
def fillingFar : State :=
  { base with members := [0, 1], fills := [farFill], tlbs := ⟨0, 0, 17, 0x80000011000, false, 0, false, 1⟩ :: base.tlbs }
theorem witness_FillTimesOut : fillingFar.fillPkg farFill = some 1 ∧ fillingFar.accesses = [] ∧ fillingFar.cmds = [] ∧ fillingFar.msgs = [] ∧ fillingFar.queues = [] ∧
    farFill.slot ≠ none ∧ (fillingFar.team? 2).isSome = true ∧ fillingFar.allHold polderLinks = false ∧
    ({ fillingFar with clk := 2 ^ 24 } : State).fillPkg farFill = some 1 ∧
    farFill.since + fieldOf fillingFar.nt.fab.toNat 24 24 ≤ ({ fillingFar with clk := 2 ^ 24 } : State).clk := by decide +kernel
/-- Endpoint 0 selected, in a state, its address inside or outside the allowlist, with or without one message of one packet. -/
def message : Msg := ⟨9, 2, 0, [5], 0, 5, ⟨0, none, 0, 1, 0x10000, false, 0, 4, false, false⟩, [1, 2, 3, 4], 1, 4096, [], [], 1, false, 0⟩
def linkedTo (st since : Nat) (ms : List Msg) : State :=
  { base with eps := [(0, { state := st, gen := 1, addr1 := 1, since := since })], msgs := ms,
              nt := { base.nt with allow := [(2 ^ 64, 128)] } }
theorem oneMessage (st since : Nat) : ∃ t, OneMessage (linkedTo st since [message]) message t :=
  ⟨_, rfl, ⟨rfl, rfl, rfl⟩, rfl, rfl, rfl⟩
theorem witness_Endpoints :
    fieldOf (0x10 : BitVec 64).toNat 4 2 = 1 ∧ fieldOf (0x20 : BitVec 64).toNat 4 2 = 2 ∧
    (∀ st ∈ [0, 1, 2], ((linkedTo st 0 []).ep (linkedTo st 0 []).nt.epsel).state = st ∧ (linkedTo st 0 []).msgs = []) ∧
    (∃ x ∈ (linkedTo 0 0 []).nt.allow, x.2 ≤ 128 ∧
      (((linkedTo 0 0 []).ep 0).addr1.toNat * 2 ^ 64 + ((linkedTo 0 0 []).ep 0).addr0.toNat) / 2 ^ (128 - x.2) = x.1 / 2 ^ (128 - x.2)) ∧
    ({ linkedTo 0 0 [] with nt := base.nt } : State).nt.allow = [] ∧ (linkedTo 0 0 []).portFailed ((linkedTo 0 0 []).ep 0) = false ∧
    (∀ st ∈ [2, 5], let s := { linkedTo 0 0 [] with links := [(1536, { state := 5 }), (1537, { state := st })] }
      s.portFailed (s.ep 0) = true ∧ (s.link 1537).state = st) ∧
    (let n := fieldOf base.nt.pkt.toNat 5 27
     n ≠ 0 ∧ n ≤ 100000000 ∧ ((linkedTo 2 0 []).ep 0).since + n ≤ ({ linkedTo 2 0 [] with clk := 100000000 } : State).clk ∧
       base.clk < ((linkedTo 2 10000000 []).ep 0).since + n) ∧
    (∀ st ∈ [1, 2], (linkedTo st 0 [message]).portHolds ((linkedTo st 0 [message]).ep message.args.ep) = false) ∧
    (aget 0 message.retx 0 < fieldOf base.nt.pkt.toNat 32 8 ∧
      fieldOf base.nt.pkt.toNat 32 8 ≤ aget 0 ({ message with retx := [(0, 255)] } : Msg).retx 0) := by decide +kernel
/-- The endpoint whose peer has the address 2^64. -/
theorem epMatches (st : Nat) (e : Ep) (h : st = 1 ∨ st = 2) (ha : e.addr1 ++ e.addr0 = (1 : BitVec 64) ++ (0 : BitVec 64))
    (hj : e.job = 0) (hs : e.state = st) : EpMatches ((1 : BitVec 64) ++ (0 : BitVec 64)) 0 (0, e) :=
  ⟨by rw [hs]; exact h, ha, hj⟩
theorem witness_PacketsArePlaced_match : ∀ st ∈ [1, 2], ∃ e, (linkedTo st 0 []).eps = [] ++ (0, e) :: [] ∧
    EpMatches ((1 : BitVec 64) ++ (0 : BitVec 64)) 0 (0, e) ∧ (linkedTo st 0 []).portHolds e = false ∧ e.placed.contains 4 = false := by
  intro st h
  exact ⟨_, rfl, epMatches st _ (by simpa using h) rfl rfl rfl, rfl, rfl⟩
theorem witness_PacketsArePlaced_none : ∀ x ∈ (linkedTo 3 0 []).eps, ¬EpMatches ((1 : BitVec 64) ++ (0 : BitVec 64)) 0 x := by
  intro x h
  simp only [linkedTo, List.mem_singleton] at h
  subst h
  rintro ⟨h | h, -⟩ <;> simp at h
/-- A packet that endpoint 0 has forwarded to package 1, and one that it may forward. -/
def forwarding : State :=
  { linkedTo 1 0 [] with members := [0, 1], eps := [(0, { state := 1, gen := 1, addr1 := 1, sent := [(4, 77)] })] }
theorem witness_PacketsForwarded :
    (∀ a ∈ forwarding.accesses, a.id ≠ 77) ∧ (forwarding.ep 0).sent = [(4, 77)] ∧ forwarding.allHold polderLinks = false ∧
    forwarding.polderCut = false ∧ (polder 5 forwarding).polderCut = true ∧ (polder 5 forwarding).allHold polderLinks = false ∧
    vaClass (0xFE * 2 ^ 48 + 1 * 2 ^ 41 + 5 * 2 ^ 25 + 512) = .aperture 1 5 512 ∧ 1 ≠ forwarding.pkg ∧ 1 ∈ forwarding.members ∧
    (let s := forwarding.setCtx 0 { forwarding.ctx 0 with tag := 3 }
     (s.ctx (s.ep 0).ctx).tag ≠ 0 ∧ (∀ x ∈ (s.ep 0).sent, x.1 ≠ 5) ∧ (s.ep 0).placed.contains 5 = false ∧ s.portHolds (s.ep 0) = false) := by
  decide +kernel
theorem witness_PacketsArePlaced :
    ((({ linkedTo 1 0 [] with eps := [(0, { state := 1, placed := [4] })] } : State).ep 0).placed.contains 4 = true) ∧
    dev (linkedTo 1 0 []) 0x10FFC 1 0x10FFC 4 = true ∧ 0x10FFC % 4096 + message.data.length = 4096 ∧
    (linkedTo 1 0 []).hbmFailed 0x10FFC 4 = false ∧
    here (linkedTo 1 0 []) (fun t _ _ => t.handle == fieldOf (t.handle * 2 ^ 25) 25 16 && (linkedTo 1 0 []).ctxOf t == ((linkedTo 1 0 []).ep 0).ctx &&
      vaClass (0xFE * 2 ^ 48 + (linkedTo 1 0 []).pkg * 2 ^ 41 + t.handle * 2 ^ 25 + 65532) == .aperture (linkedTo 1 0 []).pkg t.handle 65532 &&
      decide (65532 + message.data.length = ((linkedTo 1 0 []).kernelOf t).scratch) && !t.refuses 65532 4 && !t.waits 65532 4) = true := by
  decide +kernel

/-! #### The debugger and the profiler -/

/-- A debugger of context 0 that selects lane 5 and register v4 of the running group; the set as it stands. -/
def debugging (f : TSet → TSet) : State :=
  let s := withSet f base
  { s with dbg := { s.dbg with ctl := 1, sel := 5 <<< 19, selg := 4 <<< 32, smp := 0x0000000000271001, sring := 0x50004 } }
/-- The set stopped; at its run's start; inside its run; waiting on a tile. -/
def stopped : TSet → TSet := fun ts => { ts with stop := true }
def midRun : TSet → TSet := fun ts => { ts with fresh := false }
def onTile : TSet → TSet := fun ts => { ts with phase := .parked .tile }
theorem witness_OneSet : ∀ f ∈ [stopped, fun ts => { stopped ts with committed := true }, id, midRun, onTile], ∃ t g ts, OneSet (debugging f) t g ts ∧ SelectsGroup (debugging f) t g := by
  intro f hf
  simp only [List.mem_cons, List.not_mem_nil, or_false] at hf
  rcases hf with rfl | rfl | rfl | rfl | rfl <;>
    exact ⟨_, _, _, ⟨rfl, rfl, rfl, by decide +kernel, rfl⟩, _, rfl, by decide +kernel, by decide +kernel, by decide +kernel,
      by decide +kernel⟩
theorem witness_DebugCommands :
    here (debugging stopped) (fun _ _ ts => ts.stop && ts.phase == .ready && !ts.committed) = true ∧
    here (debugging fun ts => { stopped ts with committed := true }) (fun _ _ ts => ts.stop && ts.phase == .ready && ts.committed) = true ∧
    here (debugging id) (fun _ _ ts => !ts.stop && ts.fresh && ts.phase == .ready) = true ∧
    here (debugging midRun) (fun _ _ ts => !ts.stop && !ts.fresh && ts.phase == .ready) = true ∧
    (debugging stopped).dbg.waiting = [] ∧ (debugging stopped).dbg.edits = [] ∧
    Opd.ofBits (BitVec.ofNat 20 (fieldOf (debugging stopped).dbg.selg.toNat 32 20)) = some (.v 4) ∧
    (let s := { debugging stopped with dbg := { (debugging stopped).dbg with selg := (Opd.nx 1).bits.setWidth 64 <<< 32 } }
     (match Opd.ofBits (BitVec.ofNat 20 (fieldOf s.dbg.selg.toNat 32 20)) with | some (.nx _) => true | _ => false) = true ∧
       here s (fun _ _ ts => ts.stop && ts.held == []) = true) ∧
    (loaded base).handleKernel 0 0x1005 = some (5, plain) ∧ fieldOf (BitVec.ofNat 64 0x100500000014).toNat 32 32 = 0x1005 ∧
    fieldOf (BitVec.ofNat 64 0x100500000014).toNat 4 28 = 1 ∧ fieldOf (BitVec.ofNat 64 0x100500000014).toNat 2 2 = 1 ∧
    fieldOf (BitVec.ofNat 64 0x100500000018).toNat 2 2 = 2 ∧ 1 < plain.text.length ∧
    fieldOf (BitVec.ofNat 64 0x100500000024).toNat 4 28 = plain.text.length ∧
    (BitVec.ofNat 32 ((0 : BitVec 64).toNat / 2 ^ 32) - (debugging id).dbg.head).toNat ≤
      ((debugging id).dbg.tail - (debugging id).dbg.head).toNat := by decide +kernel
theorem witness_Samples :
    (base.dbg.smp.getLsbD 0 = false) ∧ (debugging onTile).dbg.smp.getLsbD 0 = true ∧
    (let p := max (fieldOf (debugging onTile).dbg.smp.toNat 8 24) 256
     (debugging onTile).dbg.last + p ≤ (debugging onTile).clk ∧
       ({ debugging onTile with clk := p - 1 } : State).clk < (debugging onTile).dbg.last + p) ∧
    (({ debugging onTile with dbg := { (debugging onTile).dbg with ctl := 0 } } : State).dbg.ctl.getLsbD 0 = false) ∧
    (debugging onTile).dbg.ctl.getLsbD 0 = true ∧
    here (debugging onTile) (fun t g ts => t.resident && g.slotAt == 0 && ts.phase == .parked .tile) = true ∧
    (∀ l ∈ (debugging onTile).launches, l.phase ≠ 0) ∧ (debugging onTile).shut 0x50000 = false ∧ fieldOf (debugging onTile).dbg.sring.toNat 0 5 = 4 ∧
    fieldOf (0x50014 : BitVec 64).toNat 0 5 = 20 ∧ ((debugging onTile).dbg.tail - (debugging onTile).dbg.head).toNat < 2 ^ 4 := by
  decide +kernel

/-! #### Firmware, errors and power -/

/-- A valid marker for a slot, and flash whose slots pass or fail. -/
def markerFor (slot : Nat) : List Byte :=
  let m := leBytes 4 7 ++ leBytes 1 slot ++ List.replicate 7 0
  m ++ leBytes 4 (crc32 m).toNat
/-- The bytes of an image of a version, with neither keys, signatures nor code. -/
def imgFlash (ver : Byte) : AMap Byte := aset 0 [] 0 ver
def flashed (m0 m1 : List Byte) (a b : AMap Byte) : Fw :=
  let sigs : List (List Byte × List Byte × List Byte) := [([], leBytes 8 3 ++ leBytes 8 0, [])]
  { base.fw with
    marker0 := m0, marker1 := m1, slotA := [a, a, a, a], slotB := [b, b, b, b], floor := 3, verifier := { base.fw.verifier with rsa := sigs, slh := sigs } }
/-- The image passes. -/
def imagePasses (f : Fw) (i : Image) : Bool :=
  let message := leBytes 8 i.ver ++ leBytes 8 i.len ++ i.bytes
  let digest (key : List Byte) : Option (List Byte) := (f.verifier.sha.find? fun x => x.1 == key).map (·.2)
  i.bytes.length == i.len && f.verifier.rsa.contains (i.rsaKey, message, i.rsaSig) && f.verifier.slh.contains (i.slhKey, message, i.slhSig) &&
    digest i.rsaKey == some f.rsaFuse && digest i.slhKey == some f.slhFuse && decide (f.floor ≤ i.ver)
theorem witness_PackageResetBoots :
    (∀ slot ∈ [0, 1], markerOk (markerFor slot) = true ∧ markerSlot (markerFor slot) = slot) ∧ markerOk [] = false ∧
    (∀ m ∈ [markerFor 0, markerFor 1, []],
      let f := flashed m [] (imgFlash 3) (imgFlash 2)
      f.slotA.length = 4 ∧ (f.slotA.all fun b => imagePasses f (imageAt (aget 0 b)).1) = true ∧
        (f.slotB.all fun b => imagePasses f (imageAt (aget 0 b)).1) = false) ∧
    (∀ d, d < 20 → aget 25 base.pwr.temps d < 110) ∧
    110 ≤ aget 25 ({ base with pwr := { base.pwr with temps := [(19, 110)] } } : State).pwr.temps 19 := by
  decide +kernel
/-- A live update that was asked for, at each of its steps, its area clear of the page tables. -/
def updating (phase floor : Nat) (accepts : Bool) : State :=
  { idle with fw := { base.fw with updS := 1, upd := 0x80000, phase := phase, floor := floor, accepts := accepts } }
theorem witness_FirmwareAndKeys :
    base.fw.updS ≠ 1 ∧ (updating 0 0 true).fw.state = 1 ∧ idle.queues = [] ∧
    ((updating 0 0 true).areaImages.all fun i => imagePasses (updating 0 0 true).fw i) = true ∧
    ((updating 0 1 true).areaImages.all fun i => imagePasses (updating 0 1 true).fw i) = false ∧
    (∀ p ∈ [0, 1, 2], ∀ b ∈ [false, true], (updating p 0 b).fw.phase = p ∧ (updating p 0 b).fw.accepts = b ∧ (updating p 0 b).fw.updS = 1) ∧
    (if base.fw.slot = 0 then base.fw.slotA else base.fw.slotB).length = 4 ∧
    (fieldOf (BitVec.ofNat 64 0x3F01).toNat 0 2 = 1 ∧ fieldOf (BitVec.ofNat 64 0x3F01).toNat 8 6 = 63 ∧ base.fw.keySlots.getLsbD 63 = false) ∧
    (fieldOf (1 : BitVec 64).toNat 0 2 = 1 ∧ fieldOf (1 : BitVec 64).toNat 8 6 = 0 ∧ base.fw.keySlots.getLsbD 0 = true) ∧
    fieldOf (2 : BitVec 64).toNat 0 2 = 2 ∧ fieldOf (BitVec.ofNat 64 0x3F02).toNat 0 2 = 2 := by decide +kernel
-- R343: the three steps of a live update
theorem test_live_update : (match exec .liveUpdate (updating 0 0 true) with
    | .next s => (match exec .liveUpdate s with
      | .next s => s.fw.phase == 2 && s.fw.kept.isSome && (match exec .liveUpdate s with
        | .next s => s.fw.updS == 2 && s.fw.phase == 0 | _ => false)
      | _ => false)
    | _ => false) = true := by decide +kernel
theorem witness_LiveUpdate : NoWaiters idle := noWaiters _ ⟨rfl, rfl, rfl, rfl, rfl, rfl⟩
theorem witness_Errors :
    base.fw.frozen.contains 6 = false ∧ base.fw.frozen.contains 255 = false ∧ paXcache 0xFF80000000 = true ∧
    (let f := { base.fw with sealed := [(0x6000, 64)], monitor := [(0x7000, 64)], areaLen := 64 }
     inRanges f.sealed 0x6020 = true ∧ inRanges f.monitor 0x703F = true ∧ inRanges [(fieldOf f.upd.toNat 12 31 * 4096, f.areaLen)] 0x20 = true) ∧
    (∀ k, k < 8 → ¬(12 ≤ fieldOf (aget 0 ({ base.fw with win := [] } : Fw).win k).toNat 56 8)) ∧
    (({ base with cores := [(0, { frozen := 10000000 })] } : State).core 0).frozen ≤ base.clk ∧
    base.clk < (({ base with cores := [(0, { frozen := 10000001 })] } : State).core 0).frozen ∧
    (0x10000 : BitVec 64).getLsbD 63 = false ∧ base.paHole (fieldOf (0x10000 : BitVec 64).toNat 0 56) = false ∧
    base.keyOwner (paKey (fieldOf (0x10000 : BitVec 64).toNat 0 56 / 128 * 128)) = some 0 ∧
    base.paHole (fieldOf (0x10000 : BitVec 64).toNat 0 56 / 128 * 128) = false := by decide +kernel
/-- Die 3 at a clock and a temperature since a time, its last step a time ago; and the module above its cap. -/
def clocked (mhz temp at_ since : Nat) : State := { base with pwr := { base.pwr with
  temps := [(3, temp)], hotAt := [(3, at_)], coolAt := [(3, at_)], step := [(3, mhz)], since := [(3, since)] } }
def capped (cap rail capClock overAt : Nat) : State :=
  { base with pwr := { base.pwr with cap := cap, rails := [rail], capClock := capClock, overAt := overAt } }
theorem witness_ClocksAndPower :
    (∀ mhz ∈ [300, 400, 500, 600], ∀ temp ∈ [89, 90, 95, 96, 105],
      aget 600 (clocked mhz temp 8800001 8800001).pwr.step 3 = mhz ∧ aget 25 (clocked mhz temp 8800001 8800001).pwr.temps 3 = temp) ∧
    aget 0 (clocked 400 96 8800001 8800001).pwr.hotAt 3 + 1200000 ≤ base.clk + 1 ∧
    aget 0 (clocked 400 89 8800001 8800001).pwr.coolAt 3 + 1200000 ≤ base.clk + 1 ∧
    aget 0 (clocked 400 96 8800001 8800001).pwr.since 3 + 1200000 ≤ base.clk + 1 ∧
    ¬(aget 0 (clocked 400 96 8800001 8800002).pwr.since 3 + 1200000 ≤ base.clk + 1) ∧
    ¬(aget 0 (clocked 400 96 8800002 0).pwr.hotAt 3 + 1200000 ≤ base.clk + 1) ∧
    (clocked 400 105 0 0).pwr.stopped.contains 3 = false ∧
    ({ clocked 400 94 0 0 with pwr := { (clocked 400 94 0 0).pwr with stopped := [3] } } : State).pwr.stopped.contains 3 = true ∧
    (capped 1500 1501 301 10000001).pwr.cap < (capped 1500 1501 301 10000001).pwr.rails.sum ∧
    (capped 1500 1501 301 10000001).pwr.overAt ≤ base.clk + 1 ∧ 300 < (capped 1500 1501 301 10000001).pwr.capClock ∧
    (capped 1500 1500 301 0).pwr.rails.sum ≤ (capped 1500 1500 301 0).pwr.cap ∧ 1500 ≤ 1500 ∧ 3600 ≤ 3600 ∧ 1499 < 1500 ∧ 3600 < 3601 ∧
    (List.replicate 5 700).length = 5 ∧ (List.replicate 20 60).length = 20 := by decide +kernel
/-- A page request that waits for a slot of its ring; its ring has sixteen slots. -/
def unsent : PReq := ⟨3, 0x40000000, 0, 1, 1, 2, false⟩
theorem witness_RegisterWrites :
    (∀ n ∈ [0, 1], (({ base with ctxs := [(0, { state := n })] } : State).ctx base.cxq.csel).state = n) ∧
    (base.queue base.cxq.qsel).state = 0 ∧ base.preqs = [] ∧ base.dbg.waiting = [] ∧ fieldOf (1 : BitVec 64).toNat 0 2 = 1 ∧
    ({ base with preqs := [unsent] } : State).preqs = [unsent] ∧ unsent.written = false ∧ base.shut 0x50000 = false ∧
    (∀ n ∈ [4, 16], fieldOf (BitVec.ofNat 64 (0x50000 + n)).toNat 0 5 = n) ∧ (base.pg.fqt - base.pg.fqh).toNat < 2 ^ 4 ∧
    (RegId.cxqQuant, RegName.cxqQuant, (0xFFFFFFFF : BitVec 64)) ∈ plainRegs := by decide +kernel
/-- Page tables of a hart at 0x1000 that map the first 1 GiB of addresses to the same places, for reads and writes. -/
def hartTables : State := ((base.putNat 0x4000 8 0xD7).putNat 0x2000 8 0xC01).putNat 0x3000 8 0x1001
/-- A walk from there of a hart in U mode, and of one in S mode with SUM. -/
def byTables : HartWalk := ⟨1, true, false, false⟩
def bySupervisor : HartWalk := ⟨1, false, true, false⟩
theorem witness_HartLeaf : ∀ va ∈ [0x10008, 0x10FFC, 0x11000], ∀ store ∈ [false, true],
    ∀ w ∈ [byTables, bySupervisor], HartLeaf hartTables w va store 1 0xD7 := by
  intro va hva store _ w hw
  refine ⟨fun k => 0x5000 - k * 0x1000, ?_, by omega, ?_, ?_, ?_, by decide +kernel, by decide +kernel, by decide +kernel, ?_, ?_,
    .inl (by decide +kernel), fun _ => by decide +kernel⟩
  · revert w; decide +kernel
  · revert va; decide +kernel
  rotate_right 2
  · revert w; decide +kernel
  · revert w; decide +kernel
  all_goals
    intro k h1 h2
    have : k = 1 ∨ k = 2 ∨ k = 3 ∨ k = 4 := by omega
    revert va
    rcases this with rfl | rfl | rfl | rfl <;> first | omega | decide +kernel
theorem witness_HartPages : 4096 - (0x10FFC : BitVec 64).toNat % 4096 < 8 ∧ (0x10FFC : BitVec 64).toNat / 2 ^ 56 = 0 ∧
    (0x10008 : BitVec 64).toNat % 4096 + 8 ≤ 4096 ∧
    -- R195: an access that ends in the second page has a place in each
    hartTables.hartPlace ⟨0, 0x10FFC, some byTables⟩ true 8 = some [(0x10FFC, 4), (0x11000, 4)] := by decide +kernel
theorem witness_SystemCoreAccesses :
    (0x10008 : BitVec 64).toNat / 2 ^ 56 = 0 ∧
    (∀ size ∈ [1, 2, 4, 8], base.fw.frozen.contains (16 + 239) = false ∧ base.inArea 0x10008 = false ∧ base.paHole 0x10008 = false ∧
      base.paHole (0x10008 + size - 1) = false ∧ base.fw.keySlots.getLsbD (paKey 0x10008) = true ∧ base.sealed 0x10008 = false ∧
      base.sealed (0x10008 + size - 1) = false ∧ base.links = [] ∧ base.locBad (.mem 0x10008) size = false ∧ 0x10008 % size = 0) ∧
    ({ base with fw := { base.fw with frozen := [255] } } : State).fw.frozen.contains (16 + 239) = true ∧
    base.paHole 0x18000000000 = true ∧ base.sealed 0xFF80000000 = true ∧ base.paHole 0xFF80000000 = false ∧
    (let s := { base with links := [(granuleLink (0x10008 / 1024), { state := 4 })] }
     s.linkHeld 1024 0x10008 4 = true ∧ s.sealed 0x10008 = false) ∧
    ({ base with badBytes := [0x10008] } : State).locBad (.mem 0x10008) 1 = true ∧
    keyless.fw.keySlots.getLsbD (paKey 0x10008) = false := by decide +kernel
-- R301: an AMO adds; R195: so does one by the hart's own page tables
theorem test_amo_add : ([none, some byTables].all fun root =>
    match exec (.systemCoreAccess ⟨0, 0x10008, root⟩ 4 3 2) (hartTables.putNat 0x10008 4 0xFFFFFFFF) with
    | .next s => leNat (readBytes s.mem 0x10008 4) == 1 && aget 0 s.harts 0 == 0xFFFFFFFF | _ => false) = true := by decide +kernel
-- R17, R345: a write of the translation cache is not performed, and its hart is frozen
theorem test_xcache_freeze : (match exec (.systemCoreAccess ⟨3, 0xFF80000000, none⟩ 4 1 2) base with
    | .next s => s.fw.frozen == [19] && s.fw.frzc == 3 && s.mem == base.mem | _ => false) = true := by decide +kernel
-- R6, R351: `FW_ID`, and a write of a read-write field
theorem test_fw_id : base.readRegister .fwId = 0x1601 := by decide +kernel
theorem test_register_write : (match exec (.registerWrite .pgCthr 0xF00000005) base with
    | .next s => s.readRegister .pgCthr == 5 | _ => false) = true := by decide +kernel

/-! #### Encoding and the step -/

theorem witness_DecodeUndoesEncode :
    WellFormed (.add { blankR with typ := .i32, dst := .v 0x3FFFF, sa := .g 0x3FFFF, sb := .imm 0x3FFFF }) ∧
    encode (.add { blankR with typ := .i32, dst := .v 0x3FFFF, sa := .g 0x3FFFF, sb := .imm 0x3FFFF }) ≠ none := by decide +kernel
/-- Reserved words at both ends of each reserved range: a class and an opcode. -/
def wordOf (cls opc : Nat) : Word := BitVec.ofNat 128 (cls * 2 ^ 124 + opc * 2 ^ 114)
theorem witness_ReservedEncodings :
    (∀ x ∈ [(6, 0), (7, 0x240), (7, 0x3FF), (0, 0x2D), (0, 0x3FF), (1, 0x20), (1, 0x3FF), (2, 0x0E), (3, 0x0D)],
      ((wordOf x.1 x.2).extractLsb' 124 3).toNat = x.1 ∧ ((wordOf x.1 x.2).extractLsb' 114 10).toNat = x.2) ∧
    9 ≤ ((wordOf 7 0x240).extractLsb' 120 4).toNat ∧ (wordOf 7 0 + 2 ^ 32).extractLsb' 32 46 ≠ 0 ∧
    Typ.ofCode ((wordOf 0 2 + 63 * 2 ^ 108).extractLsb' 108 6).toNat = none ∧
    (∀ b ∈ [9, 62], (wordOf 0 2 + BitVec.ofNat 128 (2 * 2 ^ 96 + b * 2 ^ 90)).extractLsb' 96 2 = 2 ∧
      ((wordOf 0 2 + BitVec.ofNat 128 (2 * 2 ^ 96 + b * 2 ^ 90)).extractLsb' 90 6).toNat = b) ∧
    (match decode (wordOf 6 0) with | .error _ => true | .ok _ => false) = true := by decide +kernel
/-- A program in place, after the tick of its first step. -/
def placed (w : Nat) : State := (State.reset.withFetchWord 128 w).tick
theorem witness_Quietly : Quietly (placed 0x50000000000000000000000000000000) := ⟨rfl, rfl, rfl, by decide +kernel⟩
theorem witness_StepRuns :
    State.reset.fw.state = 0 ∧ State.reset.pwr.off = false ∧
    (match (placed 0x50000000000000000000000000000000).choice exec with
      | (some (.word c _ _), _) => (match (placed 0x50000000000000000000000000000000).view c with
        | some (t, g, ts) => !(placed 0x50000000000000000000000000000000).dbgHit t g ts &&
            ((placed 0x50000000000000000000000000000000).kernelOf t).text[ts.pc]? == some 0x50000000000000000000000000000000
        | none => false)
      | _ => false) = true ∧
    dueInput [⟨0, .powerCapSet 2000⟩] = some (.powerCapSet 2000, []) ∧ Sys2Proof.Machine.Instr.cxqWrite (.powerCapSet 2000) = false ∧
    Sys2Proof.Machine.Instr.cxqWrite .kernelLoad = true ∧ (updating 1 0 true).fw.phase ≠ 0 ∧
    (withSet (fun ts => { ts with pass := 64 }) base).timers.find? ((withSet (fun ts => { ts with pass := 64 }) base).changes exec) ≠ none := by
  decide +kernel
/-- Nothing runs, and a walk is in flight. -/
theorem witness_StepRuns_event :
    (match ({ walking 0x40000 4 with pg := { idle.pg with epoch := base.clk } } : State).choice exec with
      | (some (.event _), _) => true | _ => false) = true := by decide +kernel
theorem witness_EveryStepKeepsMemoryCanonical : base.mem.wf = true ∧ (match step base with | .next _ => true | _ => false) = true := by
  decide +kernel

end Sys2Proof.Tests
end

section
/-!
PROOFS. Stores (O10): a word's stores go to the front of the acts that its thread set holds, and a store that is performed
changes the bytes of its place.
-/
namespace Sys2Proof.Machine

/-! ### Acts held in front of a window's own -/

/-- The window whose thread set holds the acts `hs`, newest first, in front of those that it held. -/
def W.heldFront (w : W) (hs : List Held) : W := { w with ts := { w.ts with held := hs ++ w.ts.held } }

@[simp] theorem W.heldFront_nil (w : W) : w.heldFront [] = w := rfl

@[simp] theorem W.heldFront_heldFront (w : W) (as bs : List Held) : (w.heldFront as).heldFront bs = w.heldFront (bs ++ as) := by
  simp [W.heldFront]

/-- No source reads the acts that the set holds. -/
@[simp] theorem W.src_heldFront (w : W) (hs : List Held) (o : Opd) (l : Nat) : (w.heldFront hs).src o l = w.src o l := by
  cases o <;> rfl

@[simp] theorem W.srcT_heldFront (w : W) (hs : List Held) (t : Typ) (o : Opd) (l : Nat) :
    (w.heldFront hs).srcT t o l = w.srcT t o l := by
  cases o <;> rfl

@[simp] theorem W.storeBytes_heldFront (w : W) (hs : List Held) (t : Typ) (o : Opd) (l : Nat) :
    (w.heldFront hs).storeBytes t o l = w.storeBytes t o l := by
  simp [W.storeBytes]

@[simp] theorem W.addrI_heldFront (w : W) (hs : List Held) (x : IWord) (l : Nat) : (w.heldFront hs).addrI x l = w.addrI x l := by
  simp [W.addrI]

/-- Steps of which each holds acts that do not depend on those held before: the acts of the last step come first. -/
theorem foldl_heldFront {α : Type} {step : W → α → W} {acts : α → List Held} (xs : List α) (w : W)
    (h : ∀ hs, ∀ x ∈ xs, step (w.heldFront hs) x = (w.heldFront hs).heldFront (acts x)) :
    xs.foldl step w = w.heldFront (xs.map acts).reverse.flatten := by
  suffices ∀ hs, xs.foldl step (w.heldFront hs) = w.heldFront ((xs.map acts).reverse.flatten ++ hs) by simpa using this []
  induction xs with
  | nil => intro hs; rfl
  | cons x xs ih =>
    intro hs
    rw [List.foldl_cons, h hs x List.mem_cons_self, W.heldFront_heldFront,
      ih (fun hs y hy => h hs y (List.mem_cons_of_mem _ hy))]
    simp

/-- Steps that hold one act each. -/
theorem foldl_heldFront_one {α : Type} {step : W → α → W} {act : α → Held} (xs : List α) (w : W)
    (h : ∀ hs, ∀ x ∈ xs, step (w.heldFront hs) x = (w.heldFront hs).heldFront [act x]) :
    xs.foldl step w = w.heldFront (xs.map act).reverse := by
  rw [foldl_heldFront xs w h, ← List.map_reverse, ← List.flatMap_def, ← List.map_eq_flatMap, List.map_reverse]

/-! ### The stores of a word (R203, R215, R221) -/

/-- The stores of a lane that are held by address. -/
theorem holdVa_eq (w : W) (lane va : Nat) (bs : List Byte) (multi rel : Bool) :
    w.holdVa lane va bs multi rel = w.heldFront ((List.range ((bs.length + 7) / 8)).map fun k =>
      (⟨w.ts.pc, w.act, .storeVa lane (va + 8 * k) ((bs.drop (8 * k)).take 8) multi rel, lane⟩ : Held)).reverse :=
  foldl_heldFront_one _ w fun _ _ _ => rfl

/-- One part of a lane's store, with the count of the bytes that the parts before it took. -/
def W.holdPart (act : List Nat) (lane : Nat) (rel : Bool) (bs : List Byte) (acc : W × Nat) (p : Part) : W × Nat :=
  (acc.1.heldFront [⟨acc.1.ts.pc, act, .store p.loc p.va ((bs.drop acc.2).take p.len) rel, lane⟩], acc.2 + p.len)

/-- The parts of a lane's store, of which the first `n` bytes are held. -/
theorem foldl_holdPart (lane : Nat) (rel : Bool) (bs : List Byte) (act : List Nat) (ps : List Part) (w : W) (n : Nat) :
    (ps.foldl (W.holdPart act lane rel bs) (w, n)).1 = w.heldFront (partHelds w.ts.pc act lane rel ps (bs.drop n)) := by
  induction ps generalizing w n with
  | nil => rfl
  | cons p ps ih =>
    rw [List.foldl_cons, W.holdPart, ih, W.heldFront_heldFront, partHelds, List.drop_drop]
    rfl

/-- The stores of a lane that are held by place. -/
theorem holdStores_one (w : W) (l : LaneAcc) (rel : Bool) (bytes : Nat → List Byte) :
    w.holdStores [l] rel bytes = w.heldFront (partHelds w.ts.pc w.act l.lane rel l.parts (bytes l.lane)) :=
  foldl_holdPart l.lane rel (bytes l.lane) w.act l.parts w 0

/-- The stores of a lane, by address or by place. -/
theorem holdLane_eq (w : W) (l : LaneAcc) (va : Nat) (rel : Bool) (bytes : Nat → List Byte) :
    (if l.parts = [] then w.holdVa l.lane va (bytes l.lane) false rel else w.holdStores [l] rel bytes) =
      w.heldFront (laneHelds w.ts.pc w.act va rel (bytes l.lane) l) := by
  unfold laneHelds
  split
  · exact holdVa_eq ..
  · exact holdStores_one ..

/-- The stores of a lane of `stmc` that are held by place: each part in every copy. -/
theorem holdMulti_eq (w : W) (l : LaneAcc) (rel : Bool) (bs : List Byte) :
    w.holdMulti l rel bs = w.heldFront (l.parts.flatMap fun p =>
      (if p.reps = [] then [p.loc] else p.reps.map Loc.mem).map fun loc =>
        (⟨w.ts.pc, w.act, .store loc p.va (bs.take p.len) rel, l.lane⟩ : Held)).reverse := by
  unfold W.holdMulti
  rw [foldl_heldFront _ w fun hs p _ => foldl_heldFront_one (act := fun loc =>
    (⟨w.ts.pc, w.act, .store loc p.va (bs.take p.len) rel, l.lane⟩ : Held)) _ _ fun _ _ _ => rfl]
  simp [List.flatMap_def, List.reverse_flatten, Function.comp_def]

/-- The stores of a lane of `stmc`. -/
theorem holdMultiLane_eq (w : W) (l : LaneAcc) (va : Nat) (rel : Bool) (bs : List Byte) :
    (if l.parts = [] then w.holdVa l.lane va bs true rel else w.holdMulti l rel bs) =
      w.heldFront (multiHelds w.ts.pc w.act va rel bs l) := by
  unfold multiHelds
  split
  · exact holdVa_eq ..
  · exact holdMulti_eq ..

/-- A store word whose places are known goes on, with each lane's stores held, the last lane's first. -/
theorem storeLanes_go {s : State} {t : Team} {w : W} {space len align : Nat} {addr : Nat → Nat} {ls : List LaneAcc}
    (rel : Bool) (bytes : Nat → List Byte)
    (h : gather (fun l => s.storeAcc t w false space len align (addr l) l) w.act = .ok ls) :
    s.storeLanes t w space len align rel addr bytes = .go s (w.heldFront (ls.map fun l =>
      laneHelds w.ts.pc w.act (s.recAddr t w space (addr l.lane) l.lane) rel (bytes l.lane) l).reverse.flatten) := by
  unfold State.storeLanes
  simp only [h]
  exact congrArg (Eff.go s) (foldl_heldFront ls w fun hs l _ => holdLane_eq (w.heldFront hs) l _ rel bytes)

section
variable {s : State} {c : Cur} {t : Team} {g : Group} {ts : TSet}

/-- A word that goes on with `hs` held in front completes so, with its registers and flags as they were. -/
theorem completes_of_heldFront {i : Instr} {grd : BitVec 4} {eff : State → Team → W → Eff} {hs : List Held}
    (h : Issues s c t g ts) (ha : activeLanes g ts grd ≠ []) (hi : exec i s = liftWord grd eff s)
    (he : eff s t (s.wordWindow t g ts grd) = .go s ((s.wordWindow t g ts grd).heldFront hs)) :
    Completes i s c t g ts grd fun w w1 => SameRegs w w1 ∧ w1.ts.fl = w.ts.fl ∧ w1.ts.held = hs ++ w.ts.held := by
  obtain ⟨s1, g1, ts1, h1, h2, h3, h4, h5, h6⟩ := word_hold h ha he
  exact ⟨s1, g1, ts1, hi.trans h1, h2, h3, h4, h6, h5⟩

end

theorem exec_st (x : IWord) (s : State) : exec (.st x) s = execSt x s := rfl
theorem exec_stv (x : IWord) (s : State) : exec (.stv x) s = execStv x s := rfl
theorem exec_stmc (x : IWord) (s : State) : exec (.stmc x) s = execStmc x s := rfl

/-- `st`, `stv` and `stmc` hold the stores of their lanes. -/
theorem storesHeld : Claim.StoresHeld := by
  refine ⟨?st, ?stv, ?stmc⟩
  case st =>
    intro x s c t g ts ls h ha w hg
    exact completes_of_heldFront h ha (exec_st x s) (storeLanes_go _ _ hg)
  case stv =>
    intro x s c t g ts ls h ha w hg
    exact completes_of_heldFront h ha (exec_stv x s) (storeLanes_go _ _ hg)
  case stmc =>
    intro x s c t g ts ls h ha
    dsimp only
    intro hg
    refine completes_of_heldFront h ha (exec_stmc x s) ?_
    simp only [hg]
    refine congrArg (Eff.go s) (foldl_heldFront ls _ fun hs l _ => ?_)
    rw [W.addrI_heldFront, W.storeBytes_heldFront]
    exact holdMultiLane_eq ..

/-! ### A store performed in memory (R5, R215) -/

/-- From `s` to `t` lines were counted: memory, the log of its writes, the counters, the hot ring and interrupts may differ. -/
abbrev Counted (s t : State) : Prop :=
  { t with
    mem := s.mem, badBytes := s.badBytes, wlog := s.wlog, wseq := s.wseq, counters := s.counters, irqs := s.irqs
    pg := s.pg } = s

theorem Counted.trans {s t u : State} (h : Counted s t) (k : Counted t u) : Counted s u := by
  rw [← h, ← k]

theorem hotPush_counted (s : State) (chunk : Nat) : Counted s (s.hotPush chunk) := by
  unfold State.hotPush
  split
  · refine Counted.trans (t := if s.shut _ then s else s.putNat _ 8 (chunk * 65536)) ?_ rfl
    split <;> rfl
  · dsimp only
    split <;> rfl

theorem countLine_counted (s : State) (pa : Nat) : Counted s (s.countLine pa) := by
  unfold State.countLine
  split
  · rfl
  · dsimp only
    split
    · exact Counted.trans (by rfl) (hotPush_counted _ _)
    · rfl

theorem countLines_counted (s : State) (pa n : Nat) : Counted s (s.countLines pa n) := by
  unfold State.countLines
  generalize List.range ((pa % 128 + n + 127) / 128) = ks
  induction ks generalizing s with
  | nil => rfl
  | cons k ks ih => exact (countLine_counted s _).trans (ih _)

theorem Counted.teams {s t : State} (h : Counted s t) : t.teams = s.teams := (congrArg State.teams h :)
theorem Counted.links {s t : State} (h : Counted s t) : t.links = s.links := (congrArg State.links h :)
theorem Counted.pkg {s t : State} (h : Counted s t) : t.pkg = s.pkg := (congrArg State.pkg h :)

/-- Whether a range meets a failed channel is a matter of the links. -/
theorem hbmFailed_congr {s t : State} (hl : t.links = s.links) (hp : t.pkg = s.pkg) (pa n : Nat) :
    t.hbmFailed pa n = s.hbmFailed pa n := by
  unfold State.hbmFailed State.granuleFailed State.link
  rw [hl, hp]

/-- A store to memory of the package that meets neither a missing key nor a failed channel counts its lines and writes its
bytes. -/
theorem storeAt_mem {s : State} {pa : Nat} {bs : List Byte} (f : From) (va : Nat) (hk : s.fw.keySlots.getLsbD (paKey pa) = true)
    (hp : paPkg pa = s.pkg) (hf : s.hbmFailed pa bs.length = false) :
    s.storeAt f (.mem pa) va bs = ((s.countLines pa bs.length).poke pa bs).signed s.wseq f.team f.group f.lane := by
  have hc := countLines_counted s pa bs.length
  simp [State.storeAt, State.memWrite, State.putLines, hk, hp, hbmFailed_congr hc.links hc.pkg, hf]

/-! ### A store performed in scratch (R215) -/

/-- Bytes written to scratch change no bank location and nothing that names the team. -/
@[simp] theorem scrKey_scrWrite (t : Team) (off : Nat) (bs : List Byte) (a : Nat) :
    (t.scrWrite off bs).scrKey a = t.scrKey a := by
  induction bs generalizing t off with
  | nil => rfl
  | cons b bs ih => rw [Team.scrWrite, ih]; rfl

@[simp] theorem id_scrWrite (t : Team) (off : Nat) (bs : List Byte) : (t.scrWrite off bs).id = t.id := by
  induction bs generalizing t off with
  | nil => rfl
  | cons b bs ih => rw [Team.scrWrite, ih]

/-- A location that no byte written has keeps its byte. -/
theorem scr_scrWrite_other (t : Team) (off : Nat) (bs : List Byte) (key : Nat)
    (h : ∀ k, k < bs.length → key ≠ t.scrKey (off + k)) : aget 0 (t.scrWrite off bs).scr key = aget 0 t.scr key := by
  induction bs generalizing t off with
  | nil => rfl
  | cons b bs ih =>
    rw [Team.scrWrite, ih]
    · exact aget_aset_ne _ _ _ (h 0 (Nat.zero_lt_succ _))
    · intro k hk
      rw [Nat.add_right_comm]
      exact h (k + 1) (Nat.succ_lt_succ hk)

/-- Bytes written at distinct locations read as written. -/
theorem scr_scrWrite_same (t : Team) (off : Nat) (bs : List Byte)
    (hd : ∀ i j, i < bs.length → j < bs.length → t.scrKey (off + i) = t.scrKey (off + j) → i = j) (k : Nat)
    (hk : k < bs.length) :
    aget 0 (t.scrWrite off bs).scr (t.scrKey (off + k)) = bs.getD k 0 := by
  induction bs generalizing t off k with
  | nil => cases hk
  | cons b bs ih =>
    rw [Team.scrWrite]
    cases k with
    | zero =>
      rw [scr_scrWrite_other]
      · exact aget_aset_same ..
      · intro k hk heq
        have := hd 0 (k + 1) (Nat.zero_lt_succ _) (Nat.succ_lt_succ hk) (by rw [← Nat.add_assoc, Nat.add_right_comm]; exact heq)
        cases this
    | succ k =>
      rw [show off + (k + 1) = off + 1 + k by omega]
      refine ih _ _ (fun i j hi hj heq => ?_) k (Nat.lt_of_succ_lt_succ hk)
      have := hd (i + 1) (j + 1) (Nat.succ_lt_succ hi) (Nat.succ_lt_succ hj)
        (by rw [← Nat.add_assoc, ← Nat.add_assoc, Nat.add_right_comm off i, Nat.add_right_comm off j]; exact heq)
      omega

/-- A changed team is found under its own name. -/
theorem team?_onTeam {s : State} {t : Team} {id : Nat} {f : Team → Team} (h : s.team? id = some t)
    (hf : ∀ u, (f u).id = u.id) :
    (s.onTeam id f).team? id = some (f t) := by
  unfold State.team? at h
  simp only [State.team?, State.onTeam]
  rw [find_lreplace _ _ fun u hu => by rw [hf]; exact hu, h]
  rfl

/-- What is logged of a write of scratch is neither memory nor a team. -/
theorem noteScr_kept (s : State) (team off n : Nat) (party : Option (Nat × Nat × Nat)) :
    (s.noteScr team off n party).mem = s.mem ∧ (s.noteScr team off n party).teams = s.teams := by
  unfold State.noteScr
  split <;> exact ⟨rfl, rfl⟩

/-- What a performed store changes, in memory and in scratch. -/
theorem storesPerformed : Claim.StoresPerformed := by
  refine ⟨?memory, ?scratch⟩
  case memory =>
    intro s f pa va bs hk hp hf hc
    rw [storeAt_mem f va hk hp hf]
    have hm (a : Nat) : readByte (((s.countLines pa bs.length).poke pa bs).signed s.wseq f.team f.group f.lane).mem a =
        if pa ≤ a ∧ a < pa + bs.length then bs.getD (a - pa) 0 else readByte s.mem a := by
      rw [← hc]
      exact readByte_poke ..
    refine ⟨fun k hk => ?_, fun a ha => ?_, (countLines_counted s pa bs.length).teams⟩
    · rw [hm, if_pos (by omega), Nat.add_sub_cancel_left]
    · rw [hm, if_neg (by omega)]
  case scratch =>
    intro s f t off va bs ht hd
    obtain ⟨hm, hts⟩ := noteScr_kept s t.id off bs.length (some (f.team, f.group, f.lane))
    have ht' : (s.noteScr t.id off bs.length (some (f.team, f.group, f.lane))).team? t.id = some t := by
      unfold State.team? at *
      rw [hts, ht]
    refine ⟨hm, _, team?_onTeam ht' fun u => id_scrWrite u off bs, fun k hk => ?_, fun a ha => ?_⟩
    · unfold Team.scrByte
      exact (congrArg _ (scrKey_scrWrite t off bs (off + k))).trans (scr_scrWrite_same t off bs hd k hk)
    · unfold Team.scrByte
      exact (congrArg _ (scrKey_scrWrite t off bs a)).trans (scr_scrWrite_other t off bs _ ha)

/-- Settles O10: the stores of `st`, `stv` and `stmc` are held by folding over the lanes, and a performed store writes its bytes
one by one. -/
theorem storesComplete : Obligations.StoresComplete := ⟨storesHeld, storesPerformed⟩

end Sys2Proof.Machine
end

section
/-!
PROOFS. Writes of registers (O52): what each shared way of writing one leaves, and what is read back.
-/
namespace Sys2Proof.Machine

theorem exec_registerWrite (reg : RegId) (v : BitVec 64) (s : State) :
    exec (.registerWrite reg v) s = execRegisterWrite reg v s := rfl

/-! ### What a register write keeps (R6) -/

/-- From `s` to `t` no team, no launch, no byte of memory and no interrupt differs. -/
structure KeepsWork (s t : State) : Prop where
  teams : t.teams = s.teams
  launches : t.launches = s.launches
  mem : t.mem = s.mem
  irqs : t.irqs = s.irqs

theorem freeCtx_keeps (s : State) (f : Ctx → Ctx) : KeepsWork s (s.freeCtx f) := by
  unfold State.freeCtx
  dsimp only
  split <;> exact ⟨rfl, rfl, rfl, rfl⟩

theorem freeEp_keeps (s : State) (f : Ep → Ep) : KeepsWork s (s.freeEp f) := by
  unfold State.freeEp
  dsimp only
  split <;> exact ⟨rfl, rfl, rfl, rfl⟩

theorem onLink_keeps (s : State) (f : Link → Link) : KeepsWork s (s.onLink f) := by
  unfold State.onLink
  split <;> exact ⟨rfl, rfl, rfl, rfl⟩

/-- A write of a register that is not a ring's keeps all work in flight. -/
theorem registerWrite_keeps (s : State) (reg : RegId) (v : BitVec 64) (hq : reg ≠ .pgFq) (hr : reg ≠ .dbgSring) :
    ∃ t, exec (.registerWrite reg v) s = .next t ∧ KeepsWork s t := by
  cases reg with
  | cxqCkeys | cxqCtag | cxqCfring | cxqCswap | cxqCswlen => exact ⟨_, rfl, freeCtx_keeps ..⟩
  | ntEpcfg | ntEpaddr0 | ntEpaddr1 => exact ⟨_, rfl, freeEp_keeps ..⟩
  | lkThr | lkCtl => exact ⟨_, rfl, onLink_keeps ..⟩
  | pgFq => exact absurd rfl hq
  | dbgSring => exact absurd rfl hr
  | _ => exact ⟨_, rfl, rfl, rfl, rfl, rfl⟩

/-- From `s` to `t` no team and no launch differs. -/
def KeepsTeams (s t : State) : Prop := t.teams = s.teams ∧ t.launches = s.launches

/-- Steps of a list that each keep the teams and launches keep them together. -/
theorem foldl_keepsTeams {α : Type} {step : State → α → State} (h : ∀ s x, KeepsTeams s (step s x)) (xs : List α)
    (s : State) : KeepsTeams s (xs.foldl step s) := by
  induction xs generalizing s with
  | nil => exact ⟨rfl, rfl⟩
  | cons x xs ih => exact ⟨(ih _).1.trans (h s x).1, (ih _).2.trans (h s x).2⟩

/-- A slot of a ring that is written, unless it is shut, is in no team and no launch. -/
theorem poke_unless_keepsTeams (b : Bool) (s : State) (pa : Nat) (bs : List Byte) :
    KeepsTeams s (if b then s else s.poke pa bs) := by
  cases b <;> exact ⟨rfl, rfl⟩

theorem writeReq_keepsTeams (s : State) (r : PReq) : KeepsTeams s (s.writeReq r) := by
  unfold State.writeReq
  split
  · exact ⟨rfl, rfl⟩
  · exact poke_unless_keepsTeams ..

theorem dbgWrite_keepsTeams (s : State) (r : Nat) : KeepsTeams s (s.dbgWrite r) := by
  unfold State.dbgWrite
  exact poke_unless_keepsTeams ..

/-- The requests and the stop records that a ring's new register lets in touch no team. -/
theorem flushReqs_keepsTeams (s : State) : KeepsTeams s s.flushReqs := foldl_keepsTeams writeReq_keepsTeams _ _

theorem flushStops_keepsTeams (s : State) : KeepsTeams s s.flushStops := by
  refine foldl_keepsTeams (fun s x => ?_) _ _
  split
  · exact dbgWrite_keepsTeams s _
  · exact ⟨rfl, rfl⟩

/-- Every register write completes and touches no team. -/
theorem registerWrite_completes (s : State) (reg : RegId) (v : BitVec 64) :
    ∃ t, exec (.registerWrite reg v) s = .next t ∧ t.teams = s.teams ∧ t.launches = s.launches ∧
      (reg ≠ .pgFq → reg ≠ .dbgSring → t.mem = s.mem ∧ t.irqs = s.irqs) := by
  by_cases hq : reg = .pgFq
  · subst hq
    have h := flushReqs_keepsTeams { s with pg := { s.pg with fq := v &&& 0x00FFFFFFFFFFF01F } }
    exact ⟨_, rfl, h.1, h.2, fun h => absurd rfl h⟩
  by_cases hr : reg = .dbgSring
  · subst hr
    have h := flushStops_keepsTeams { s with dbg := { s.dbg with sring := v &&& 0x00FFFFFFFFFFF01F } }
    exact ⟨_, rfl, h.1, h.2, fun _ h => absurd rfl h⟩
  obtain ⟨t, ht, hk⟩ := registerWrite_keeps s reg v hq hr
  exact ⟨t, ht, hk.teams, hk.launches, fun _ _ => ⟨hk.mem, hk.irqs⟩⟩

/-! ### What is read back (R6) -/

/-- A field at bit 0 is the value under its mask. -/
theorem fields_fieldOf_low (v : BitVec 64) {n : Nat} (hn : n ≤ 64) :
    fields [(0, fieldOf v.toNat 0 n)] = v &&& BitVec.ofNat 64 (2 ^ n - 1) := by
  have hv : v.toNat % 2 ^ n < 2 ^ 64 := (Nat.mod_le _ _).trans_lt v.isLt
  have hm : 2 ^ n - 1 < 2 ^ 64 := by
    have := Nat.pow_le_pow_right (show 0 < 2 by decide) hn
    omega
  apply BitVec.eq_of_toNat_eq
  rw [BitVec.toNat_and, BitVec.toNat_ofNat, Nat.mod_eq_of_lt hm, Nat.and_two_pow_sub_one_eq_mod]
  simpa [fields, fieldOf] using hv

/-- A field of a value under a mask that has all bits of the field is that of the value. -/
theorem fieldOf_and (v m : BitVec 64) (lo n : Nat) (h : fieldOf m.toNat lo n = 2 ^ n - 1) :
    fieldOf (v &&& m).toNat lo n = fieldOf v.toNat lo n := by
  unfold fieldOf at *
  rw [BitVec.toNat_and, Nat.shiftRight_and_distrib, Nat.and_mod_two_pow, h, Nat.and_two_pow_sub_one_eq_mod, Nat.mod_mod]

@[simp] theorem State.mig_setMig_same (s : State) (n : Nat) (m : Mig) : (s.setMig n m).mig n = m := aget_aset_same ..

/-- A write of a register and a read of it after that give the value's bits under a mask. -/
def ReadsBack (s : State) (v : BitVec 64) (x : RegId × RegName × BitVec 64) : Prop :=
  ∃ t, exec (.registerWrite x.1 v) s = .next t ∧ t.readRegister x.2.1 = v &&& x.2.2

/-- The registers of the quay dies. -/
theorem quay_readsBack (s : State) (v : BitVec 64) (k : Fin 4) :
    ReadsBack s v (.pgMsrc k, .pgMsrc k, 0x00FFFFFFFFFFF000) ∧ ReadsBack s v (.pgMdst k, .pgMdst k, 0x00FFFFFFFFFFF000) ∧
      ReadsBack s v (.pgMpte k, .pgMpte k, 0x00FFFFFFFFFFFFF8) :=
  ⟨⟨_, rfl, congrArg Mig.src (State.mig_setMig_same ..)⟩, ⟨_, rfl, congrArg Mig.dst (State.mig_setMig_same ..)⟩,
    ⟨_, rfl, congrArg Mig.pte (State.mig_setMig_same ..)⟩⟩

/-- A register that is kept as a number and read as the field at bit 0. -/
theorem readsBack_of_field {s t : State} {v : BitVec 64} {reg : RegId} {name : RegName} {n : Nat} (hn : n ≤ 64)
    (he : exec (.registerWrite reg v) s = .next t) (hr : t.readRegister name = fields [(0, fieldOf v.toNat 0 n)]) :
    ReadsBack s v (reg, name, BitVec.ofNat 64 (2 ^ n - 1)) :=
  ⟨t, he, hr.trans (fields_fieldOf_low v hn)⟩

/-- Every plain register reads back: one that is kept as a number by its field, another as it was written. -/
theorem plainRegs_readBack (s : State) (v : BitVec 64) : ∀ x ∈ plainRegs, ReadsBack s v x := by
  have csel : ReadsBack s v (.cxqCsel, .cxqCsel, 0x3F) := readsBack_of_field (n := 6) (by decide) rfl rfl
  have qsel : ReadsBack s v (.cxqQsel, .cxqQsel, 0x3FF) := readsBack_of_field (n := 10) (by decide) rfl rfl
  have epsel : ReadsBack s v (.ntEpsel, .ntEpsel, 0x3FFF) := readsBack_of_field (n := 14) (by decide) rfl rfl
  simp only [plainRegs, List.forall_mem_append, List.forall_mem_cons, List.forall_mem_flatMap, List.not_mem_nil, false_implies,
    implies_true, and_true]
  exact ⟨⟨csel, qsel, ⟨_, rfl, rfl⟩, ⟨_, rfl, rfl⟩, ⟨_, rfl, rfl⟩, ⟨_, rfl, rfl⟩, ⟨_, rfl, rfl⟩, ⟨_, rfl, rfl⟩, epsel,
    ⟨_, rfl, rfl⟩, ⟨_, rfl, rfl⟩, ⟨_, rfl, rfl⟩, ⟨_, rfl, rfl⟩⟩, fun k _ => quay_readsBack s v k⟩

/-! ### Registers of a context and of rings (R70 to R72, R85, R198) -/

theorem freeCtx_of_free {s : State} (h : (s.ctx s.cxq.csel).state = 0) (f : Ctx → Ctx) :
    s.freeCtx f = s.setCtx s.cxq.csel (f (s.ctx s.cxq.csel)) := if_pos h

theorem freeCtx_of_held {s : State} (h : (s.ctx s.cxq.csel).state ≠ 0) (f : Ctx → Ctx) : s.freeCtx f = s := if_neg h

@[simp] theorem PReq.bytes_length (r : PReq) : r.bytes.length = 32 := by simp [PReq.bytes]

/-- A request that waits, with a slot free that is not shut, is written there. -/
theorem writeReq_eq {s : State} {r : PReq} {n : Nat} (hw : r.written = false) (hn : fieldOf s.pg.fq.toNat 0 5 = n) (h4 : 4 ≤ n)
    (h16 : n ≤ 16) (hroom : (s.pg.fqt - s.pg.fqh).toNat < 2 ^ n)
    (hs : s.shut (fieldOf s.pg.fq.toNat 12 44 * 4096 + 32 * (s.pg.fqt.toNat % 2 ^ n)) = false) :
    s.writeReq r = ({ s.poke (fieldOf s.pg.fq.toNat 12 44 * 4096 + 32 * (s.pg.fqt.toNat % 2 ^ n)) r.bytes with
      pg := { s.pg with fqt := s.pg.fqt + 1 }
      preqs := lreplace (fun x => x.id == r.id) (fun x => { x with written := true }) s.preqs } : State).irq .page := by
  have hslots : s.fqSlots = 2 ^ n := by simp [State.fqSlots, hn, h4, h16]
  have hgo : ¬(r.written = true ∨ ¬(s.pg.fqt - s.pg.fqh).toNat < s.fqSlots) := by
    rw [hw, hslots]
    exact fun h => h.elim Bool.false_ne_true fun h => h hroom
  unfold State.writeReq
  rw [if_neg hgo]
  simp only [hslots, hs, Bool.false_eq_true, if_false, State.poke_pg, State.poke_preqs]

/-- `PG_FQ` with one request that waits: its slot is written, and nothing else of memory. -/
theorem pgFq_writes {s : State} {v : BitVec 64} {r : PReq} {n : Nat} (hp : s.preqs = [r]) (hw : r.written = false)
    (hn : fieldOf v.toNat 0 5 = n) (h4 : 4 ≤ n) (h16 : n ≤ 16) (hroom : (s.pg.fqt - s.pg.fqh).toNat < 2 ^ n)
    (hs : s.shut (fieldOf v.toNat 12 44 * 4096 + 32 * (s.pg.fqt.toNat % 2 ^ n)) = false) :
    ∃ t, exec (.registerWrite .pgFq v) s = .next t ∧
      t.mem = (s.poke (fieldOf v.toNat 12 44 * 4096 + 32 * (s.pg.fqt.toNat % 2 ^ n)) r.bytes).mem ∧
      t.irqs = s.irqs ++ [.page] ∧ t.preqs = [{ r with written := true }] := by
  have hlow : fieldOf (v &&& 0x00FFFFFFFFFFF01F).toNat 0 5 = n := (fieldOf_and v _ 0 5 rfl).trans hn
  have hbase : fieldOf (v &&& 0x00FFFFFFFFFFF01F).toNat 12 44 = fieldOf v.toNat 12 44 := fieldOf_and v _ 12 44 rfl
  have hwr := writeReq_eq (s := { s with pg := { s.pg with fq := v &&& 0x00FFFFFFFFFFF01F } }) hw hlow h4 h16 hroom
    (by rw [hbase]; exact hs)
  have hfl : ({ s with pg := { s.pg with fq := v &&& 0x00FFFFFFFFFFF01F } } : State).flushReqs =
      ({ s with pg := { s.pg with fq := v &&& 0x00FFFFFFFFFFF01F } } : State).writeReq r := by
    show List.foldl State.writeReq _ s.preqs = _
    rw [hp]
    rfl
  refine ⟨_, congrArg Host.Outcome.next (hfl.trans hwr), ?_, ?_, ?_⟩
  · simp only [hbase, State.irq_mem, State.poke_mem]
  · simp only [State.irq_irqs, State.poke_irqs]
  · simp [hp, lreplace]

/-- Settles O52: each register is written through one of a few shared ways, and a ring's new register lets in what waits for its
slots. -/
theorem registerWritesComplete : Obligations.RegisterWritesComplete := by
  refine ⟨registerWrite_completes, plainRegs_readBack, fun s v => ?_, fun s => ⟨rfl, rfl, rfl, rfl, rfl⟩⟩
  dsimp only
  refine ⟨fun h => ?free, fun h => ?held, fun h => ?ring, fun h => ?requests, ?request, fun h => ?stops, fun h => ?update⟩
  case free =>
    exact ⟨congrArg _ (freeCtx_of_free h _), congrArg _ (freeCtx_of_free h _), congrArg _ (freeCtx_of_free h _)⟩
  case held =>
    exact ⟨congrArg _ (freeCtx_of_held h _), congrArg _ (freeCtx_of_held h _), congrArg _ (freeCtx_of_held h _),
      congrArg _ (freeCtx_of_held h _)⟩
  case ring => exact congrArg (fun x => Host.Outcome.next (s.setQueue s.cxq.qsel x)) (if_pos h)
  case requests =>
    rw [exec_registerWrite]
    simp only [execRegisterWrite, State.flushReqs, h, List.foldl_nil]
  case request =>
    intro r n hp hw hn h4 h16 hroom hs
    obtain ⟨t, ht, hm, hi, hq⟩ := pgFq_writes hp hw hn h4 h16 hroom hs
    refine ⟨t, ht, ?_, hi, hq, fun a ha => ?_⟩
    · rw [hm]
      simpa using readBytes_poke s _ r.bytes
    · rw [hm, readByte_poke, if_neg (by simpa [Inside] using ha)]
  case stops =>
    rw [exec_registerWrite]
    simp only [execRegisterWrite, State.flushStops, h, List.foldl_nil]
  case update => exact ⟨_, rfl, if_pos h⟩

end Sys2Proof.Machine
end

section
/-!
PROOFS. Resets, firmware and keys (O49): a lost byte in the update area ends a live update whose images all pass.
-/
namespace Sys2Proof.Machine

/-- A live update whose area has a lost byte that the verification would read gives 3, whatever the images are (R348). -/
theorem liveUpdate_of_areaLost {s : State} (hrun : s.fw.state = 1) (hasked : s.fw.updS = 1) (hphase : s.fw.phase = 0)
    (hlost : s.areaLost = true) : exec .liveUpdate s = .next { s with fw := { s.fw with updS := 3 } } := by
  show execLiveUpdate s = _
  simp [execLiveUpdate, hrun, hasked, hphase, hlost]

/-- A package in RUN, after its reset, that was asked for a live update, with the first byte of the update area lost. Its area
holds four images of version 0, with neither keys, signatures nor code, which the tables of the standards let pass. -/
def lostAreaByte : State := { State.reset with badBytes := [0], fw := { state := 1, updS := 1 } }

theorem lostAreaByte_areaLost : lostAreaByte.areaLost = true := by decide +kernel

theorem lostAreaByte_passes : ∀ i ∈ lostAreaByte.areaImages, ImagePasses lostAreaByte.fw i := by
  have h : lostAreaByte.areaImages = List.replicate 4 ⟨0, 0, [], [], [], [], []⟩ := by decide +kernel
  rw [h]
  intro i hi
  rw [List.eq_of_mem_replicate hi]
  unfold ImagePasses
  decide +kernel

/-- Refutes O49: where the images of the update area pass, the statement has taking stop; but the model reads no image of an area
with a lost byte (R348), and answers 3. -/
theorem not_resetFirmwareAndKeysComplete : ¬ Obligations.ResetFirmwareAndKeysComplete := by
  rintro ⟨-, hfw⟩
  obtain ⟨-, -, hverified, -⟩ := hfw lostAreaByte
  have hstops := hverified rfl rfl rfl lostAreaByte_passes
  rw [liveUpdate_of_areaLost rfl rfl rfl lostAreaByte_areaLost] at hstops
  exact absurd (congrArg (fun t : State => t.fw.phase) (Host.Outcome.next.inj hstops)) (by decide)

end Sys2Proof.Machine
end

section
/-!
PROOFS. Floating words, markers and idle words (O2, O5): a floating word is a check of its sources for markers before one write, and
every word under a guard issues in one way, which with no active lane only advances the set.
-/
namespace Sys2Proof.Machine

/-! ### Floating words (R37, R39) -/

/-- The word checks the sources `srcs` for markers, then does what `e` says and nothing else. -/
def MarkedWord (i : Instr) (srcs : List (Nat × Opd)) (e : RegSpec) : Prop :=
  ∃ f : W → W, (∀ s, exec i s = regWord e.grd (markedBody srcs f) s) ∧ ∀ w, f w = (w.dst e.dst (e.val w)).raise (e.fl w)

/-- `fclass` raises no flag (R183). -/
theorem markedWord_fclass {x : RWord} {srcs : List (Nat × Opd)} {e : RegSpec} (h : floatSpec (.fclass x) = some (srcs, e)) :
    MarkedWord (.fclass x) srcs e := by
  cases h
  exact ⟨_, fun _ => rfl, fun _ => (W.raise_zero _).symm⟩

/-- `flg` has a form for each value of `.scl` (R184). -/
theorem markedWord_flg {x : RWord} {srcs : List (Nat × Opd)} {e : RegSpec} (h : floatSpec (.flg x) = some (srcs, e)) :
    MarkedWord (.flg x) srcs e := by
  have hx (s : State) : exec (.flg x) s = regWord x.grd (flgBody x) s := rfl
  simp only [floatSpec] at h
  split at h <;> rename_i hscl <;> cases h <;> refine ⟨_, fun s => ?_, fun _ => rfl⟩
  · rw [hx, flgBody, if_pos hscl]; rfl
  · rw [hx, flgBody, if_neg hscl]; rfl

/-- Every floating word is a marker check before one write; all but `fclass` and `flg` are so as they stand. -/
theorem markedWord_of_floatSpec {i : Instr} {srcs : List (Nat × Opd)} {e : RegSpec} (h : floatSpec i = some (srcs, e)) :
    MarkedWord i srcs e := by
  have hspec := h
  unfold floatSpec at h
  split at h
  case h_22 => exact markedWord_fclass hspec
  case h_23 => exact markedWord_flg hspec
  case h_32 => cases h
  all_goals
    cases h
    exact ⟨_, fun _ => rfl, fun _ => rfl⟩

/-- A marked body with no marker among its sources writes. -/
theorem markedBody_none {srcs : List (Nat × Opd)} {f : W → W} {w : W} (h : w.markCheck srcs = none) :
    markedBody srcs f w = .ok (f w) := by
  simp [markedBody, h]

/-- A marked body with a marker among its sources faults. -/
theorem markedBody_some {srcs : List (Nat × Opd)} {f : W → W} {w : W} {e : FInfo} (h : w.markCheck srcs = some e) :
    markedBody srcs f w = .error e := by
  simp [markedBody, h]

/-- Settles O2: past its marker check, a floating word writes one destination and raises flags (`word_dst`). -/
theorem floatWordsComplete : Obligations.FloatWordsComplete := by
  intro i srcs e s c t g ts hspec hissues hact hmark
  obtain ⟨f, hexec, hf⟩ := markedWord_of_floatSpec hspec
  obtain ⟨s1, g1, ts1, hnext, honly, hadv, hdone⟩ := word_dst hissues (grd := e.grd)
    (eff := fun s _ w => match markedBody srcs f w with | .ok w1 => .go s w1 | .error e => .err e) hact
    (by simp only [markedBody_none hmark]; exact congrArg (Eff.go s) (hf _))
  exact ⟨s1, g1, ts1, (hexec s).trans hnext, honly, hadv, hdone⟩

/-! ### The marker check (R37) -/

/-- A source that holds the marker is a lane register, a uniform register or a temporary that reads as the marker, and its record
names it. -/
theorem marked_eq_true {w : W} {o : Opd} {l : Nat} (h : w.marked o l = true) :
    w.src o l = marker ∧
      ((∃ n, o = .v n ∧ markKind o = (0, n.toNat)) ∨ (∃ n, o = .g n ∧ markKind o = (1, n.toNat)) ∨
        ∃ k, o = .t k ∧ markKind o = (2, k.val)) := by
  cases o with
  | v n => exact ⟨eq_of_beq h, .inl ⟨n, rfl, rfl⟩⟩
  | g n => exact ⟨eq_of_beq h, .inr (.inl ⟨n, rfl, rfl⟩)⟩
  | t k => exact ⟨eq_of_beq h, .inr (.inr ⟨k, rfl, rfl⟩)⟩
  | _ => cases h

/-- What the marker check of one lane gives. -/
def laneMark (w : W) (srcs : List (Nat × Opd)) (l : Nat) : Option FInfo :=
  srcs.findSome? fun s =>
    if w.marked s.2 l then
      some { code := 2, lane := l, detail := (markKind s.2).2, kind := (markKind s.2).1, src := s.1 }
    else none

/-- The record of a lane is that of a marked source of it. -/
theorem laneMark_some {w : W} {srcs : List (Nat × Opd)} {l : Nat} {f : FInfo} (h : laneMark w srcs l = some f) :
    ∃ s ∈ srcs, w.marked s.2 l = true ∧
      f = { code := 2, lane := l, detail := (markKind s.2).2, kind := (markKind s.2).1, src := s.1 } := by
  obtain ⟨s, hs, hf⟩ := List.exists_of_findSome?_eq_some h
  split at hf
  · exact ⟨s, hs, ‹_›, (Option.some.inj hf).symm⟩
  · cases hf

/-- A lane without a record has no marked source. -/
theorem laneMark_none {w : W} {srcs : List (Nat × Opd)} {l : Nat} (h : laneMark w srcs l = none) :
    ∀ s ∈ srcs, w.marked s.2 l = false := by
  intro s hs
  have := List.findSome?_eq_none_iff.1 h s hs
  simpa using this

/-- An element that stands before another in a list is in what comes before it. -/
theorem mem_of_idxOf_lt {xs ys : List Nat} {a l : Nat} (h : (xs ++ a :: ys).idxOf l < (xs ++ a :: ys).idxOf a) : l ∈ xs := by
  by_contra hl
  have ha : (xs ++ a :: ys).idxOf a ≤ xs.length := by
    by_cases hx : a ∈ xs
    · rw [List.idxOf_append_of_mem hx]
      exact (List.idxOf_lt_length_of_mem hx).le
    · simp [List.idxOf_append_of_notMem hx]
  rw [List.idxOf_append_of_notMem hl] at h
  omega

/-- A floating word that finds a marker takes the fault of the lowest lane, and of its first source, that holds it. -/
theorem markerFaults : Claim.MarkerFaults := by
  intro i srcs e s c t g ts f hspec hissues hact hmark
  obtain ⟨body, hexec, -⟩ := markedWord_of_floatSpec hspec
  have hfault : exec i s = .next (s.faultAt c ts.pc f) := by
    rw [hexec]
    exact liftWord_err hissues hact (by simp only [markedBody_some hmark])
  obtain ⟨below, l, above, hlanes, hl, hbelow⟩ := List.findSome?_eq_some_iff.1 hmark
  obtain ⟨⟨k, o⟩, hsrc, hmarked, rfl⟩ := laneMark_some hl
  have hw : activeLanes g ts e.grd = below ++ l :: above := hlanes
  obtain ⟨hvalue, hkind⟩ := marked_eq_true hmarked
  refine ⟨hfault, rfl, ?_, ⟨o, hsrc, hvalue, ?_⟩, ?_⟩
  · simp [hw]
  · rcases hkind with ⟨n, rfl, -⟩ | ⟨n, rfl, -⟩ | ⟨n, rfl, -⟩
    · exact .inl ⟨n, rfl, rfl, rfl⟩
    · exact .inr (.inl ⟨n, rfl, rfl, rfl⟩)
    · exact .inr (.inr ⟨n, rfl, rfl, rfl⟩)
  · intro l' o' k' hs' hlt
    rw [hw] at hlt
    exact laneMark_none (hbelow l' (mem_of_idxOf_lt hlt)) (k', o') hs'

/-! ### Words with no active lane (R48) -/

section
variable {s : State} {c : Cur} {t : Team} {g : Group} {ts : TSet} {grd : BitVec 4}

/-- A set with no active lane does not stop at a `brk` (R79). -/
theorem brkStops_idle (h : Issues s c t g ts) (hact : activeLanes g ts grd = []) : s.brkStops grd = false := by
  simp [State.brkStops, h.cur, h.view, hact]

/-- A set with no active lane does not return from a handler (R60). -/
theorem inHandler_idle (h : Issues s c t g ts) (hact : activeLanes g ts grd = []) : s.inHandler grd = none := by
  simp only [State.inHandler, h.cur, h.view, hact, if_true]
  split <;> rfl

/-- With no active lane every word under a guard issues by `liftWord`; `brk` and `emuret` first look whether they have a lane to
stop or to return. -/
theorem exec_liftWord_of_wordGuard {i : Instr} (hguard : wordGuard i = some grd) (h : Issues s c t g ts)
    (hact : activeLanes g ts grd = []) : ∃ eff, exec i s = liftWord grd eff s := by
  unfold wordGuard at hguard
  split at hguard
  case h_156 => cases hguard
  all_goals
    cases hguard
    simp only [exec, regWord, execMov, execMovi, execAdd, execSub, execNeg, execAbs, execMin, execMax, execMul, execMulhi,
      execMad, execMadw, execDiv, execRem, execSad, execDot4, execAnd, execOr, execXor, execNot, execAndn, execShl, execShr,
      execSar, execRot, execBfx, execBfi, execPopc, execClz, execCtz, execBrev, execPerm, execSwz, execPack, execUnpk, execLea,
      execSel, execCmp, execCmpv, execCvt, execPand, execPor, execPxor, execPnot, execPmov, execFadd, execFsub, execFmul,
      execFma, execFmin, execFmax, execFabs, execFneg, execFdiv, execFsqrt, execFrcp, execFrsq, execEx2, execLg2, execFexp,
      execFlog, execFsin, execFcos, execFtanh, execFsigm, execFcmp, execFclass, execFrnd, execFcvt, execF2i, execI2f, execQmax,
      execQscl, execQcvt, execDqcvt, execFdot2, execFlg, execLd, execSt, execLdv, execStv, execLdk, execAtom, execAtomc, execRed,
      execFence, execPref, execProbe, execPrinv, execStmc, execCctl, execLsplit, execLsjoin, execVote, execBallot, execShfl,
      execBcast, execGred, execGscan, execMatchEq, execElect, execLmask, execRdfl, execTpost, execTwait, execTtake, execTtst,
      execTmark, execTmask, execTbind, execBank, execCp, execCpmc, execCpgat, execCpst, execCpcan, execFfcfg, execFfst, execSigt,
      execMxset, execMxseti, execMxgo, execMxab, execMxst, execAcld, execAcst, execAcclr, execAcred, execAcflg, execNsend,
      execNcc, execNst, execNop, execRdsr, execWrsr, execSys, execTrap, execHint, execProf, execEmuwr, execEmuret,
      execClk, execBinit, execBarr, execBwait, execBsync, execBdrop, execBphase, execBarm, execGbar, execQrec, execQpush,
      execQjoin, execQsig,
      execBrk, execEmuret, brkStops_idle h hact, inHandler_idle h hact]
    exact ⟨_, rfl⟩

end

/-- A word with no active lane only advances its set. -/
theorem noActiveLaneNoEffect : Claim.NoActiveLaneNoEffect := by
  intro i grd s c t g ts hguard hissues hact
  obtain ⟨eff, hexec⟩ := exec_liftWord_of_wordGuard hguard hissues hact
  obtain ⟨s1, hnext, honly⟩ := liftWord_idle hissues (eff := eff) hact
  exact ⟨s1, _, _, hexec.trans hnext, honly, advanced_advance _ _ _ rfl, ⟨rfl, rfl, rfl⟩, rfl,
    ⟨rfl, rfl, rfl, rfl, rfl, rfl, rfl, rfl⟩⟩

/-- Settles O5: the check of a floating word goes over its lanes and their sources in order, and a word with no active lane leaves
its window as it found it. -/
theorem markersFaultAndIdleLanesDoNothing : Obligations.MarkersFaultAndIdleLanesDoNothing :=
  ⟨noActiveLaneNoEffect, markerFaults⟩

end Sys2Proof.Machine
end

section
/-!
PROOFS. Loads (O9): a `.s` load whose place lies across a link in training waits, which the statement of scratch loads leaves out.
-/
namespace Sys2Proof.Machine

section
variable {s : State} {c : Cur} {t : Team} {g : Group} {ts : TSet}

theorem exec_ld (x : IWord) (s : State) : exec (.ld x) s = execLd x s := rfl

/-- A load whose places are known waits while a link in training holds one of them (R305). -/
theorem ld_waits {x : IWord} {ls : List LaneAcc} (h : Issues s c t g ts) (ha : activeLanes g ts x.grd ≠ [])
    (hplaces : s.places t (s.wordWindow t g ts x.grd) 0 false (spaceI x) (tyBytes x.typ) (tyBytes x.typ)
      ((s.wordWindow t g ts x.grd).addrI x) ((s.wordWindow t g ts x.grd).loadLanes x.dst) = .ok ls)
    (hheld : s.partsHeld t (s.wordWindow t g ts x.grd) ls = true) :
    exec (.ld x) s = .next (s.putWindow c { s.wordWindow t g ts x.grd with ts := ts.park .link }) := by
  rw [exec_ld, execLd, liftWord_eq h, if_neg ha]
  simp only [State.readLanes, hplaces, hheld, if_true, ReadRes.toEff]
  rfl

/-- A word that parks its set does not complete. -/
theorem not_completes_of_parks {i : Instr} {grd : BitVec 4} {p : Park} {P : W → W → Prop} (h : Issues s c t g ts)
    (hi : exec i s = .next (s.putWindow c { s.wordWindow t g ts grd with ts := ts.park p })) :
    ¬Completes i s c t g ts grd P := by
  rintro ⟨s1, g1, ts1, hnext, honly, hadv, -⟩
  obtain ⟨t1, hview, -⟩ := honly.here
  obtain ⟨t2, hparked, -⟩ := (onGroup_only h.view g (ts.park p) (Nat.max s.free s.free) rfl rfl rfl).here
  cases Host.Outcome.next.inj (hi.symm.trans hnext)
  have hts : (t1, g1, ts1) = (t2, g.setTset (ts.park p), ts.park p) := Option.some.inj (hview.symm.trans hparked)
  have hphase : (ts.park p).phase = .ready := by
    simp only [Prod.mk.injEq] at hts
    rw [← hts.2.2]
    exact hadv.ready
  cases hphase

/-- The issuing set's `.s` load meets no fault and no lost byte, and a link in training holds its places. -/
def LinkHoldsLoad (s : State) (t : Team) (w : W) (x : IWord) : Prop :=
  w.act ≠ [] ∧ spaceI x = 1 ∧
    (∀ l ∈ w.loadLanes x.dst, scratchFault s t (tyBytes x.typ) (w.addrI x l) l = none) ∧
    (∀ l ∈ w.loadLanes x.dst, s.locBad (.scr t.id (w.addrI x l)) (tyBytes x.typ) = false) ∧
    (match s.places t w 0 false (spaceI x) (tyBytes x.typ) (tyBytes x.typ) (w.addrI x) (w.loadLanes x.dst) with
      | .ok ls => s.partsHeld t w ls
      | _ => false) = true

/-- The statement of scratch loads, which names no link, fails of such a load. -/
theorem not_scratchLoads_of_linkHolds {x : IWord} (h : Issues s c t g ts)
    (hx : LinkHoldsLoad s t (s.wordWindow t g ts x.grd) x) : ¬Claim.ScratchLoads := by
  obtain ⟨hact, hspace, hfault, hbad, hheld⟩ := hx
  intro hscratch
  split at hheld
  next ls hplaces =>
    exact not_completes_of_parks h (ld_waits h hact hplaces hheld) (hscratch x s c t g ts h hact hspace hfault hbad)
  · cases hheld

end

/-- A team of two cores on different dies, its scratch on the second, with the quay links of the first die in training. Its one
group, on the first core, issues. -/
def scratchAcrossDies : State :=
  let s := State.reset.withText []
  { s.onTeam 2 fun t => { t with cores := [0, 16], plan := [⟨0, 1, 0, 0, 0, 65536, 0, 0⟩] } with
    launches := s.launches.map fun l => { l with kernel := { l.kernel with cores := 2, scratch := 65536 } }
    links := [(512, { state := 1 }), (513, { state := 1 }), (514, { state := 1 }), (515, { state := 1 })]
    cur := some (2, 0, 0) }

/-- A load of the first word of scratch. -/
def scratchWordLoad : IWord :=
  { dbg := false, typ := .n32, mod := 0, grd := 0, dst := .v 3, sa := .z, sb := .z, imm := 0, aux6 := 1 }

/-- In that state the load is held by the links. -/
theorem scratchAcrossDies_holds :
    ∃ t g ts, Issues scratchAcrossDies (2, 0, 0) t g ts ∧
      LinkHoldsLoad scratchAcrossDies t (scratchAcrossDies.wordWindow t g ts scratchWordLoad.grd) scratchWordLoad := by
  have hview : (scratchAcrossDies.view (2, 0, 0)).isSome = true := by decide +kernel
  have hheld : ∀ v ∈ scratchAcrossDies.view (2, 0, 0),
      LinkHoldsLoad scratchAcrossDies v.1 (scratchAcrossDies.wordWindow v.1 v.2.1 v.2.2 scratchWordLoad.grd) scratchWordLoad := by
    unfold LinkHoldsLoad
    decide +kernel
  obtain ⟨v, hv⟩ := Option.isSome_iff_exists.1 hview
  exact ⟨v.1, v.2.1, v.2.2, ⟨rfl, hv⟩, hheld v hv⟩

/-- Refutes O9: an aligned `.s` load inside SCRATCH of a bank on another die is held by a quay link in training (R305, R307), so it
parks its set and does not complete. -/
theorem not_loadsComplete : ¬ Obligations.LoadsComplete := by
  rintro ⟨hscratch, -, -⟩
  obtain ⟨t, g, ts, hissues, hheld⟩ := scratchAcrossDies_holds
  exact not_scratchLoads_of_linkHolds hissues hheld hscratch

end Sys2Proof.Machine
end

section
/-!
PROOFS. Commits (O15), what acts leave: an act names no team, group or thread set anew, and in the package's memory it writes its own
bytes, the ring of hot chunks and bytes that a core buffers.
-/
namespace Sys2Proof.Machine

/-! ### Names of teams, groups and thread sets -/

/-- What names a group and its thread sets. -/
def Group.names (g : Group) : Nat × List Nat := (g.index, g.tsets.map (·.id))
/-- What names a team and its groups. -/
def Team.names (t : Team) : Nat × List (Nat × List Nat) := (t.id, t.groups.map Group.names)
/-- What names every thread set. -/
def State.names (s : State) : List (Nat × List (Nat × List Nat)) := s.teams.map Team.names

/-- Replacing elements by others of the same name keeps the list of names. -/
theorem map_lreplace {α β : Type} (n : α → β) (p : α → Bool) (f : α → α) (l : List α)
    (h : ∀ x, l.find? p = some x → n (f x) = n x) : (lreplace p f l).map n = l.map n := by
  induction l with
  | nil => rfl
  | cons x xs ih =>
    by_cases hx : p x = true
    · simp [lreplace, hx, h x (by simp [hx])]
    · simp [lreplace, hx, ih fun y hy => h y (by simpa [hx] using hy)]

theorem names_onTeam {s : State} {id : Nat} {f : Team → Team} (hf : ∀ t, (f t).names = t.names) :
    (s.onTeam id f).names = s.names :=
  map_lreplace Team.names _ f s.teams fun t _ => hf t

theorem names_onGroup {s : State} {id n : Nat} {f : Group → Group} (hf : ∀ g, (f g).names = g.names) :
    (s.onGroup id n f).names = s.names :=
  names_onTeam fun t => congrArg (Prod.mk t.id) (map_lreplace Group.names _ f t.groups fun g _ => hf g)

theorem names_onTset {s : State} {c : Cur} {f : TSet → TSet} (hf : ∀ x, (f x).id = x.id) : (s.onTset c f).names = s.names :=
  names_onGroup fun g => congrArg (Prod.mk g.index) (map_lreplace (·.id) _ f g.tsets fun x _ => hf x)

theorem names_setTeam {s : State} {t t1 : Team} (h : s.team? t1.id = some t) (hn : t1.names = t.names) :
    (s.setTeam t1).names = s.names :=
  map_lreplace Team.names _ _ s.teams fun u hu => by cases hu.symm.trans h; exact hn

theorem names_setGroup {t : Team} {g g1 : Group} (h : t.group? g1.index = some g) (hn : g1.names = g.names) :
    (t.setGroup g1).names = t.names :=
  congrArg (Prod.mk t.id) (map_lreplace Group.names _ _ t.groups fun x hx => by cases hx.symm.trans h; exact hn)

theorem names_setTset (g : Group) (ts1 : TSet) : (g.setTset ts1).names = g.names :=
  congrArg (Prod.mk g.index) (map_lreplace (·.id) _ _ g.tsets fun x hx => by
    have hid : x.id = ts1.id := by simpa using List.find?_some hx
    exact hid.symm)

/-- A thread set is there under its names. -/
def named (n : List (Nat × List (Nat × List Nat))) (c : Cur) : Bool :=
  match n.find? (·.1 == c.1) with
  | none => false
  | some t => match t.2.find? (·.1 == c.2.1) with
    | none => false
    | some g => (g.2.find? (· == c.2.2)).isSome

theorem view_isSome (s : State) (c : Cur) : (s.view c).isSome = named s.names c := by
  unfold State.view named State.names State.team?
  rw [List.find?_map]
  change _ = match (s.teams.find? fun t => t.id == c.1).map Team.names with | none => false | some _ => _
  cases s.teams.find? fun t => t.id == c.1 with
  | none => rfl
  | some t =>
    simp only [Option.map_some, Team.names, Team.group?]
    rw [List.find?_map]
    change _ = match (t.groups.find? fun g => g.index == c.2.1).map Group.names with | none => false | some _ => _
    cases t.groups.find? fun g => g.index == c.2.1 with
    | none => rfl
    | some g =>
      simp only [Option.map_some, Group.names, Group.tset?]
      rw [List.find?_map]
      change _ = Option.isSome ((g.tsets.find? fun x => x.id == c.2.2).map _)
      cases g.tsets.find? fun x => x.id == c.2.2 <;> rfl

/-- A state with the same names shows the same thread sets. -/
theorem view_of_names {s t : State} (h : t.names = s.names) {c : Cur} (hv : s.view c ≠ none) : ∃ x, t.view c = some x := by
  rw [← Option.isSome_iff_exists, view_isSome, h, ← view_isSome]
  exact Option.isSome_iff_ne_none.mpr hv

/-! ### Steps that write given bytes -/

/-- Base of the ring of hot chunks (R202). -/
def State.ring (s : State) : Nat := fieldOf s.pg.hotq.toNat 12 44 * 4096

/-- From `s` to `t` memory differs at most at the bytes `B`, and neither names, buffers, keys, links nor the place of the hot ring
differ. -/
structure Writes (B : Nat → Prop) (s t : State) : Prop where
  names : t.names = s.names
  pkg : t.pkg = s.pkg
  links : t.links = s.links
  fw : t.fw = s.fw
  ring : t.ring = s.ring
  cores : t.cores = s.cores
  mem : ∀ a, ¬B a → readByte t.mem a = readByte s.mem a

/-- Nothing of this is written. -/
abbrev Calm (s t : State) : Prop := Writes (fun _ => False) s t

section
variable {B B' : Nat → Prop} {s t u : State}

theorem Writes.refl (B : Nat → Prop) (s : State) : Writes B s s := ⟨rfl, rfl, rfl, rfl, rfl, rfl, fun _ _ => rfl⟩

theorem Writes.trans (h : Writes B s t) (k : Writes B t u) : Writes B s u :=
  ⟨k.names.trans h.names, k.pkg.trans h.pkg, k.links.trans h.links, k.fw.trans h.fw, k.ring.trans h.ring, k.cores.trans h.cores,
    fun a ha => (k.mem a ha).trans (h.mem a ha)⟩

/-- `Writes.trans`, the later step first. -/
theorem Writes.after (k : Writes B t u) (h : Writes B s t) : Writes B s u := h.trans k

theorem Writes.mono (h : Writes B s t) (hB : ∀ a, B a → B' a) : Writes B' s t :=
  { h with mem := fun a ha => h.mem a fun hb => ha (hB a hb) }

theorem Writes.of_calm (h : Calm s t) : Writes B s t := h.mono fun _ hf => hf.elim

/-- A state whose other fields differ is calm. -/
theorem calm_of_eq (h : (t.teams, t.pkg, t.links, t.fw, t.pg, t.cores, t.mem) = (s.teams, s.pkg, s.links, s.fw, s.pg, s.cores, s.mem)) :
    Calm s t := by
  simp only [Prod.mk.injEq] at h
  obtain ⟨h1, h2, h3, h4, h5, h6, h7⟩ := h
  exact ⟨by rw [State.names, h1]; rfl, h2, h3, h4, by rw [State.ring, h5]; rfl, h6, fun a _ => by rw [h7]⟩

/-- A state whose teams alone differ, not in their names, is calm. -/
theorem calm_of_names (h : { t with teams := s.teams } = s) (hn : t.names = s.names) : Calm s t := by
  have := fun a => congrArg (fun x : State => readByte x.mem a) h
  exact ⟨hn, (congrArg State.pkg h :), (congrArg State.links h :), (congrArg State.fw h :), (congrArg State.ring h :),
    (congrArg State.cores h :), fun a _ => this a⟩

/-- Steps in turn that each write bytes `B`; the place of the hot ring may be used. -/
theorem Writes.foldl {α : Type} {step : State → α → State} {xs : List α} (s : State)
    (h : ∀ t x, x ∈ xs → t.ring = s.ring → Writes B t (step t x)) : Writes B s (xs.foldl step s) := by
  induction xs generalizing s with
  | nil => exact .refl B s
  | cons x xs ih =>
    have hx := h s x (by simp) rfl
    exact hx.trans (ih _ fun t y hy hr => h t y (by simp [hy]) (hr.trans hx.ring))

theorem Calm.foldl {α : Type} {step : State → α → State} (xs : List α) (s : State) (h : ∀ t x, Calm t (step t x)) :
    Calm s (xs.foldl step s) :=
  Writes.foldl s fun t x _ _ => h t x

end

theorem onTeam_calm {s : State} {id : Nat} {f : Team → Team} (hf : ∀ t, (f t).names = t.names) : Calm s (s.onTeam id f) :=
  calm_of_names rfl (names_onTeam hf)

theorem onGroup_calm {s : State} {id n : Nat} {f : Group → Group} (hf : ∀ g, (f g).names = g.names) : Calm s (s.onGroup id n f) :=
  calm_of_names rfl (names_onGroup hf)

theorem setTeam_calm {s : State} {t t1 : Team} (h : s.team? t1.id = some t) (hn : t1.names = t.names) : Calm s (s.setTeam t1) :=
  calm_of_names rfl (names_setTeam h hn)

theorem poke_writes (s : State) (pa : Nat) (bs : List Byte) : Writes (Inside pa bs.length) s (s.poke pa bs) :=
  ⟨rfl, rfl, rfl, rfl, rfl, rfl, fun a ha => (readByte_poke s pa bs a).trans (if_neg ha)⟩

/-! ### Barriers and signals -/

theorem charge_calm (s : State) (id n : Nat) (ls : List Nat) (pc : Nat) (e : FInfo) : Calm s (s.charge id n ls pc e) :=
  onTeam_calm fun _ => rfl

theorem releaseBar_names (t : Team) (b clk : Nat) : (t.releaseBar b clk).names = t.names := by
  refine congrArg (Prod.mk t.id) ?_
  refine (List.map_map ..).trans (List.map_congr_left fun g _ => congrArg (Prod.mk g.index) ?_)
  refine (List.map_map ..).trans (List.map_congr_left fun x _ => ?_)
  simp only [Function.comp_apply]
  split <;> rfl

theorem flipAll_calm (s : State) (ids : List Nat) (b : Nat) : Calm s (s.flipAll ids b) :=
  Writes.after (Calm.foldl ids _ fun _ _ => onTeam_calm fun _ => releaseBar_names _ _ _)
    (Calm.foldl ids s fun _ _ => onTeam_calm fun _ => rfl)

/-- A team found under its identity carries it. -/
theorem id_of_team? {s : State} {id : Nat} {t : Team} (h : s.team? id = some t) : t.id = id := by simpa using List.find?_some h

/-- A found team put back with the same names is calm. -/
theorem setTeam_found_calm {s : State} {id : Nat} {t t1 : Team} (h : s.team? id = some t) (hn : t1.names = t.names) :
    Calm s (s.setTeam t1) := by
  have hid : t1.id = id := (congrArg Prod.fst hn).trans (id_of_team? h)
  exact setTeam_calm (by rw [hid]; exact h) hn

theorem testBar_calm (s : State) (id b : Nat) : Calm s (s.testBar id b) := by
  unfold State.testBar
  split
  · exact .refl _ s
  · rename_i t ht
    dsimp only
    split
    · exact .refl _ s
    · split
      · exact flipAll_calm ..
      · have hset : Calm s (s.setTeam (t.setBar b { t.bar b with held := true })) := setTeam_found_calm ht rfl
        split
        · exact hset.trans (flipAll_calm ..)
        · exact hset

theorem sigAdd_calm (s : State) (id n : Nat) (sig : Option Nat) (k : Nat) : Calm s (s.sigAdd id n sig k) := by
  unfold State.sigAdd
  split
  · exact .refl _ s
  · exact onGroup_calm fun _ => rfl

theorem linkArrive_calm (s : State) (id n i : Nat) : Calm s (s.linkArrive id n i) := by
  refine Calm.foldl _ s fun t b => ?_
  split
  · exact .refl _ t
  · rename_i u hu
    dsimp only
    split
    · exact Writes.after (testBar_calm ..) (setTeam_found_calm hu rfl)
    · exact .refl _ t

theorem sigDec_calm (s : State) (id n : Nat) (sig : Option Nat) : Calm s (s.sigDec id n sig) := by
  unfold State.sigDec
  split
  · exact .refl _ s
  · exact Writes.after (linkArrive_calm ..) (onGroup_calm fun _ => rfl)

/-! ### Nests, copies and messages -/

theorem noteAcc_calm (s : State) (t : Team) (core : Nat) (old new : Nest) : Calm s (s.noteAcc t core old new) := by
  unfold State.noteAcc
  split
  · exact .refl _ s
  · exact calm_of_eq rfl

theorem noteAcc_teams (s : State) (t : Team) (core : Nat) (old new : Nest) : (s.noteAcc t core old new).teams = s.teams := by
  unfold State.noteAcc
  split <;> rfl

theorem putNest_calm (s : State) (id core : Nat) (n : Nest) : Calm s (s.putNest id core n) := by
  unfold State.putNest
  split
  · exact .refl _ s
  · rename_i t ht
    refine (noteAcc_calm ..).trans (setTeam_found_calm (t := t) (id := id) ?_ rfl)
    unfold State.team? at *
    rw [noteAcc_teams, ht]

theorem armNest_calm (s : State) (t : Team) (core : Nat) (set : AMap Nat) (n : Nat) (ls : List Nat) (pc : Nat) :
    Calm s (s.arm t core set n ls pc) :=
  Calm.foldl _ s fun _ _ => putNest_calm ..

theorem releaseFifos_names (t : Team) (core : Nat) : (t.releaseFifos core).names = t.names := by
  unfold Team.releaseFifos
  generalize List.range 8 = fs
  induction fs generalizing t with
  | nil => rfl
  | cons f fs ih =>
    rw [List.foldl_cons, ih]
    dsimp only
    split <;> rfl

theorem endNests_calm (s : State) (places : List (Nat × Nat)) (armed aborted : Bool) : Calm s (s.endNests places armed aborted) := by
  refine Calm.foldl places s fun t p => ?_
  have h : ∀ n, Calm t ((t.putNest p.1 p.2 n).onTeam p.1 fun u => u.releaseFifos p.2) := fun n =>
    (putNest_calm ..).trans (onTeam_calm fun u => releaseFifos_names u p.2)
  dsimp only
  split
  · split
    · exact (h _).trans (sigDec_calm ..)
    · exact h _
  · exact h _

theorem abortNests_calm (s : State) (t : Team) (core : Nat) : Calm s (s.abortNests t core) := by
  have h1 : Calm s (match (t.nest core).active with
      | some a => s.endNests (s.nestPlaces t core a.gang) false true | none => s) := by
    split
    · exact endNests_calm ..
    · exact .refl _ s
  unfold State.abortNests
  dsimp only
  split
  · exact h1.trans (endNests_calm ..)
  · exact h1

theorem noteCmd_calm (s : State) (c : Cmd) (code st : Nat) : Calm s (s.noteCmd c code st) := onGroup_calm fun _ => rfl

theorem settleCmd_calm (s : State) (c : Cmd) : Calm s (s.settleCmd c) := by
  unfold State.settleCmd
  split
  · exact Writes.after (noteCmd_calm ..) (calm_of_eq rfl)
  · have h1 : Calm s { s with cmds := s.cmds.filter fun x => x.id != c.id } := calm_of_eq rfl
    dsimp only
    split
    · exact ((h1.trans (noteCmd_calm ..)).trans (charge_calm ..)).trans (sigDec_calm ..)
    · exact (h1.trans (noteCmd_calm ..)).trans (sigDec_calm ..)

theorem putPred_names (g : Group) (o : Opd) (vals : List (Nat × Bool)) : (g.putPred o vals).names = g.names := by
  unfold Group.putPred
  split
  · split <;> rfl
  · rfl

theorem cancelCopy_calm (s : State) (t : Team) (g : Group) (dst : Opd) (k : Nat) (ls : List Nat) :
    Calm s (s.cancelCopy t g dst k ls) := by
  have h1 (live : Bool) : Calm s (s.onGroup t.id g.index fun x => x.putPred dst (ls.map fun l => (l, live))) :=
    onGroup_calm fun x => putPred_names ..
  unfold State.cancelCopy
  dsimp only
  split
  · exact h1 _
  · split
    · exact h1 _
    · split
      · exact (h1 _).trans (calm_of_eq rfl)
      · exact (h1 _).trans (settleCmd_calm ..)

theorem issueCopy_calm (s : State) (t : Team) (g : Group) (h : Held) (a : CopyArgs) : Calm s (s.issueCopy t g h a) :=
  Writes.after (sigAdd_calm ..) (Writes.after (onGroup_calm fun _ => rfl) (calm_of_eq rfl))

theorem issuePost_calm (s : State) (t : Team) (g : Group) (h : Held) (sig : Option Nat) (b : Bool) (ps : List PostLane) :
    Calm s (s.issuePost t g h sig b ps) :=
  Calm.foldl ps s fun _ _ => Writes.after (sigAdd_calm ..) (calm_of_eq rfl)

theorem failMsg_calm (s : State) (m : Msg) (e : FInfo) : Calm s (s.failMsg m e) :=
  Writes.after (sigDec_calm ..) (Writes.after (charge_calm ..) (calm_of_eq rfl))

theorem addWalks_calm (s : State) (w : Who) (vas : List Nat) : Calm s (s.addWalks w vas) := by
  refine Calm.foldl vas s fun t va => ?_
  unfold State.addWalk
  split <;> exact calm_of_eq rfl

theorem remoteAtoms_calm (s : State) (t : Team) (g : Group) (h : Held) (ps : List AtomLane) (w : Nat) :
    Calm s (s.remoteAtoms t g h ps w) := by
  refine Calm.foldl _ s fun t p => ?_
  extract_lets away
  split
  · exact calm_of_eq rfl
  · exact .refl _ t

end Sys2Proof.Machine
end

section
/-!
PROOFS. Commits (O15), the memory that acts write: lines counted, stores performed, and what cores buffer.
-/
namespace Sys2Proof.Machine

/-! ### The ring of hot chunks (R202) -/

theorem ring_next (v : BitVec 64) (h : ¬fieldOf v.toNat 0 12 + 1 = hotSlots) :
    fieldOf (v + 1).toNat 12 44 = fieldOf v.toNat 12 44 := by
  have h1 : (1 : BitVec 64).toNat = 1 := rfl
  simp only [fieldOf, hotSlots, BitVec.toNat_add, Nat.shiftRight_eq_div_pow, h1] at *
  omega

theorem ring_wrap (v : BitVec 64) (h : fieldOf v.toNat 0 12 + 1 = hotSlots) :
    fieldOf (v - 4095).toNat 12 44 = fieldOf v.toNat 12 44 := by
  have h1 : (4095 : BitVec 64).toNat = 4095 := rfl
  simp only [fieldOf, hotSlots, BitVec.toNat_sub, Nat.shiftRight_eq_div_pow, h1] at *
  omega

theorem ring_drop (v d : BitVec 64) (h : d.toNat % 2 ^ 56 = 0) : fieldOf (v + d).toNat 12 44 = fieldOf v.toNat 12 44 := by
  simp only [fieldOf, BitVec.toNat_add, Nat.shiftRight_eq_div_pow]
  omega

theorem ring_congr {s t : State} (h : fieldOf t.pg.hotq.toNat 12 44 = fieldOf s.pg.hotq.toNat 12 44) : t.ring = s.ring := by
  unfold State.ring
  rw [h]

/-- The paging registers replaced, the place of the ring among them as it was. -/
theorem setPg_calm (s : State) (pg : Pg) (h : fieldOf pg.hotq.toNat 12 44 = fieldOf s.pg.hotq.toNat 12 44) :
    Calm s { s with pg := pg } :=
  ⟨rfl, rfl, rfl, rfl, ring_congr h, rfl, fun _ _ => rfl⟩

theorem irq_calm (s : State) (i : Irq) : Calm s (s.irq i) := calm_of_eq rfl

theorem hotPush_writes (s : State) (chunk : Nat) : Writes (Inside s.ring 32768) s (s.hotPush chunk) := by
  have htail : fieldOf s.pg.hotq.toNat 0 12 < 4096 := Nat.mod_lt _ (by decide)
  have hslot (a : Nat) : Inside (s.ring + 8 * fieldOf s.pg.hotq.toNat 0 12) 8 a → Inside s.ring 32768 a := by
    simp only [Inside]; omega
  unfold State.hotPush
  extract_lets base tail s1 last regs drop
  have h1 : Writes (Inside s.ring 32768) s s1 := by
    unfold s1
    split
    · exact .refl _ s
    · exact (poke_writes s _ (leBytes 8 (chunk * 65536))).mono fun a ha => hslot a (by rwa [leBytes_length] at ha)
  have hq : s1.pg.hotq = s.pg.hotq := by unfold s1; split <;> rfl
  split
  · refine Writes.after (Writes.of_calm (irq_calm _ .hot)) (h1.trans (.of_calm (setPg_calm s1 _ ?_)))
    dsimp only
    rw [hq]
    split
    · rw [ring_wrap _ ‹_›]
    · rw [ring_next _ ‹_›]
  · split
    · exact .refl _ s
    · have hd : (1 <<< 56 : BitVec 64).toNat % 2 ^ 56 = 0 := by decide
      refine .of_calm (setPg_calm s _ ?_)
      rw [ring_drop _ _ hd]

theorem countLine_writes (s : State) (pa : Nat) : Writes (Inside s.ring 32768) s (s.countLine pa) := by
  unfold State.countLine
  split
  · exact .refl _ s
  · extract_lets chunk old thr new s1
    split
    · have hpg : s1.pg = s.pg := rfl
      have hr : s1.ring = s.ring := ring_congr (by rw [hpg])
      rw [← hr]
      exact Writes.after (hotPush_writes s1 chunk) (.of_calm (calm_of_eq rfl))
    · exact .of_calm (calm_of_eq rfl)

theorem countLines_writes (s : State) (pa n : Nat) : Writes (Inside s.ring 32768) s (s.countLines pa n) :=
  Writes.foldl s fun t k _ hr => by rw [← hr]; exact countLine_writes ..

/-! ### Bytes of the package's memory -/

theorem lineLost_calm (s : State) (pa : Nat) : Calm s (s.lineLost pa) := by
  unfold State.lineLost
  split
  · exact .refl _ s
  · exact calm_of_eq rfl

theorem putLines_writes (s : State) (pa : Nat) (bs : List Byte) : Writes (Inside pa bs.length) s (s.putLines pa bs) := by
  unfold State.putLines
  split
  · refine Writes.foldl s fun t k _ _ => ?_
    extract_lets lo hi
    split
    · exact .of_calm (lineLost_calm ..)
    · refine (poke_writes ..).mono fun a ha => ?_
      have hlo : pa ≤ lo := Nat.le_max_left ..
      have hlen : ((bs.drop (lo - pa)).take (hi - lo)).length ≤ bs.length - (lo - pa) := by
        rw [List.length_take, List.length_drop]
        exact Nat.min_le_right ..
      unfold Inside at *
      omega
  · exact poke_writes ..

theorem signed_calm (s : State) (order team n lane : Nat) : Calm s (s.signed order team n lane) := calm_of_eq rfl

/-! ### What acts leave -/

theorem hotRing_congr {s t : State} (h : t.ring = s.ring) {a : Nat} : hotRing t a = hotRing s a := by
  have hring (u : State) : hotRing u a = Inside u.ring 32768 a := rfl
  rw [hring, hring, h]

/-- From `s` to `t` names, keys, links and the place of the hot ring are as before; and under `one`, if what cores buffer lies on
other packages, it still does, and of the package's memory only bytes `P` and the hot ring may differ. -/
structure Leaves (one : Prop) (P : Nat → Prop) (s t : State) : Prop where
  names : t.names = s.names
  pkg : t.pkg = s.pkg
  links : t.links = s.links
  fw : t.fw = s.fw
  ring : t.ring = s.ring
  away : one → BuffersAway s → BuffersAway t
  mem : one → BuffersAway s → ∀ a, paPkg a = s.pkg → ¬hotRing s a → ¬P a → readByte t.mem a = readByte s.mem a

section
variable {one one' : Prop} {P P' : Nat → Prop} {s t u : State}

theorem Leaves.trans (h : Leaves one P s t) (k : Leaves one P t u) : Leaves one P s u where
  names := k.names.trans h.names
  pkg := k.pkg.trans h.pkg
  links := k.links.trans h.links
  fw := k.fw.trans h.fw
  ring := k.ring.trans h.ring
  away ho hs := k.away ho (h.away ho hs)
  mem ho hs a hp hr ha := by
    have hr' : ¬hotRing t a := by rwa [hotRing_congr h.ring]
    exact (k.mem ho (h.away ho hs) a (hp.trans h.pkg.symm) hr' ha).trans (h.mem ho hs a hp hr ha)

/-- `Leaves.trans`, the later step first. -/
theorem Leaves.after (k : Leaves one P t u) (h : Leaves one P s t) : Leaves one P s u := h.trans k

theorem Leaves.mono (h : Leaves one P s t) (ho : one' → one) (hP : ∀ a, P a → P' a) : Leaves one' P' s t :=
  { h with
    away := fun h1 => h.away (ho h1)
    mem := fun h1 hs a hp hr ha => h.mem (ho h1) hs a hp hr fun hb => ha (hP a hb) }

theorem Writes.leaves {B : Nat → Prop} (h : Writes B s t) (hB : ∀ a, B a → paPkg a = s.pkg → hotRing s a ∨ P a) :
    Leaves one P s t where
  names := h.names
  pkg := h.pkg
  links := h.links
  fw := h.fw
  ring := h.ring
  away _ hs := by
    unfold BuffersAway State.core at *
    rw [h.cores, h.pkg]
    exact hs
  mem _ _ a hp hr ha := h.mem a fun hb => (hB a hb hp).elim hr ha

theorem Calm.leaves (h : Calm s t) : Leaves one P s t := Writes.leaves h fun _ hf => hf.elim

theorem Leaves.refl (one : Prop) (P : Nat → Prop) (s : State) : Leaves one P s s := (Writes.refl _ s).leaves fun _ hf _ => Or.inl hf

theorem Leaves.foldl {α : Type} {step : State → α → State} (xs : List α) (s : State)
    (h : ∀ t x, x ∈ xs → t.pkg = s.pkg → Leaves one P t (step t x)) : Leaves one P s (xs.foldl step s) := by
  induction xs generalizing s with
  | nil => exact .refl one P s
  | cons x xs ih =>
    have hx := h s x (by simp) rfl
    exact hx.trans (ih _ fun t y hy hp => h t y (by simp [hy]) (hp.trans hx.pkg))

end

theorem countLines_leaves {one : Prop} {P : Nat → Prop} (s : State) (pa n : Nat) : Leaves one P s (s.countLines pa n) :=
  (countLines_writes s pa n).leaves fun _ h _ => Or.inl h

/-! ### Buffers (R299) -/

/-- Buffered bytes of a line. -/
def WcEntry.holds (e : WcEntry) (a : Nat) : Prop := ∃ x ∈ e.bytes, e.line + x.1 = a

/-- An entry performed writes its own bytes. -/
theorem drainEntry_writes (s : State) (core : Nat) (e : WcEntry) : Writes e.holds s (s.drainEntry core e) := by
  unfold State.drainEntry
  extract_lets bs undo busy s1 access
  split
  · exact .of_calm (Calm.foldl _ s fun _ _ => charge_calm ..)
  · refine Writes.after (t := s1) (.of_calm (calm_of_eq rfl)) (Writes.foldl s fun t y hy _ => ?_)
    obtain ⟨x, hx, hxy⟩ := List.mem_filterMap.mp hy
    obtain ⟨b, -, rfl⟩ := Option.map_eq_some_iff.mp hxy
    refine (poke_writes t (e.line + x.1) [b]).mono fun a ha => ⟨x, hx, ?_⟩
    simp only [Inside, List.length_singleton] at ha
    omega

/-- A core's buffer replaced. -/
theorem setCore_leaves {one : Prop} {P : Nat → Prop} {s : State} (core : Nat) (x : Core)
    (h : one → BuffersAway s → ∀ e ∈ x.wc, ∀ a, e.holds a → paPkg a ≠ s.pkg) : Leaves one P s (s.setCore core x) where
  names := rfl
  pkg := rfl
  links := rfl
  fw := rfl
  ring := rfl
  away ho hs n e he y hy := by
    by_cases hn : n = core
    · subst hn
      rw [State.core_setCore, if_pos rfl] at he
      exact h ho hs e he _ ⟨y, hy, rfl⟩
    · refine hs n e ?_ y hy
      rwa [State.core_setCore, if_neg hn] at he
  mem _ _ _ _ _ _ := rfl

theorem BuffersAway.holds {s : State} (h : BuffersAway s) {core : Nat} {e : WcEntry} (he : e ∈ (s.core core).wc) {a : Nat}
    (ha : e.holds a) : paPkg a ≠ s.pkg := by
  obtain ⟨x, hx, rfl⟩ := ha
  exact h core e he x hx

/-- Bytes of the entries of a core's buffer. -/
def State.buffers (s : State) (core a : Nat) : Prop := ∃ e ∈ (s.core core).wc, e.holds a

theorem drainWc_leaves {one : Prop} {P : Nat → Prop} (s : State) (core : Nat) (p : WcEntry → Bool) :
    Leaves one P s (s.drainWc core p) := by
  unfold State.drainWc
  extract_lets c s1
  have h1 : Leaves one P s s1 := setCore_leaves core _ fun _ hs e he a ha => hs.holds (List.mem_filter.mp he).1 ha
  have h2 : Writes (s.buffers core) s1 ((c.wc.filter p).foldl (fun s e => s.drainEntry core e) s1) :=
    Writes.foldl s1 fun t e he _ => (drainEntry_writes t core e).mono fun a ha => ⟨e, (List.mem_filter.mp he).1, ha⟩
  have h3 (hs : BuffersAway s) : Leaves one P s1 ((c.wc.filter p).foldl (fun s e => s.drainEntry core e) s1) :=
    h2.leaves fun a ⟨e, he, ha⟩ hp => (hs.holds he ha hp).elim
  exact
    { names := h2.names.trans h1.names, pkg := h2.pkg.trans h1.pkg, links := h2.links.trans h1.links, fw := h2.fw.trans h1.fw,
      ring := h2.ring.trans h1.ring, away := fun ho hs => (h1.trans (h3 hs)).away ho hs,
      mem := fun ho hs => (h1.trans (h3 hs)).mem ho hs }

theorem drainAll_leaves {one : Prop} {P : Nat → Prop} (s : State) (core : Nat) : Leaves one P s (s.drainAll core) :=
  drainWc_leaves ..

theorem drainIf_leaves {one : Prop} {P : Nat → Prop} (s : State) (core : Nat) (b : Bool) :
    Leaves one P s (if b then s.drainAll core else s) := by
  split
  · exact drainAll_leaves ..
  · exact .refl _ _ s

end Sys2Proof.Machine
end

section
/-!
PROOFS. Commits (O15), what each act leaves, and where the stores of a run land.
-/
namespace Sys2Proof.Machine

/-! ### Stores -/

theorem mem_lreplace {α : Type} {p : α → Bool} {f : α → α} {l : List α} {y : α} (h : y ∈ lreplace p f l) :
    y ∈ l ∨ ∃ x ∈ l, p x = true ∧ y = f x := by
  induction l with
  | nil => cases h
  | cons x xs ih =>
    by_cases hx : p x = true
    · simp only [lreplace, if_pos hx, List.mem_cons] at h
      rcases h with rfl | h
      · exact Or.inr ⟨x, by simp, hx, rfl⟩
      · exact Or.inl (by simp [h])
    · simp only [lreplace, if_neg hx, List.mem_cons] at h
      rcases h with rfl | h
      · exact Or.inl (by simp)
      · rcases ih h with h | ⟨z, hz, hpz, rfl⟩
        · exact Or.inl (by simp [h])
        · exact Or.inr ⟨z, by simp [hz], hpz, rfl⟩

theorem mem_aset {α : Type} [DecidableEq α] {d : α} {m : AMap α} {i : Nat} {x : α} {e : Nat × α} (h : e ∈ aset d m i x) :
    e = (i, x) ∨ e ∈ m := by
  induction m with
  | nil =>
    unfold aset at h
    split at h
    · cases h
    · exact Or.inl (by simpa using h)
  | cons y m ih =>
    obtain ⟨k, v⟩ := y
    have hdel : e ∈ adel m i → e ∈ m := fun h => (List.mem_filter.mp h).1
    unfold aset at h
    grind

/-- One byte of a store buffered: it lies on another package. -/
theorem wcByteStore_leaves {one : Prop} {P : Nat → Prop} (s : State) (f : From) (va pa : Nat) (b : Byte)
    (h : one → paPkg pa ≠ s.pkg) : Leaves one P s (s.wcByteStore f va pa b) := by
  have hline : pa / 128 * 128 + pa % 128 = pa := by omega
  unfold State.wcByteStore
  extract_lets c line put s1 c1
  split
  · refine setCore_leaves _ _ fun ho hs e he a ha => ?_
    rcases mem_lreplace he with he | ⟨y, hy, hyl, rfl⟩
    · exact hs.holds he ha
    · obtain ⟨x, hx, hxa⟩ := ha
      have hput : (put y).line = y.line := by
        show (y.issuedBy f va).line = y.line
        unfold WcEntry.issuedBy
        dsimp only
        split <;> rfl
      rw [hput] at hxa
      rcases mem_aset hx with rfl | hx
      · have hy : y.line = line := by simpa using hyl
        rw [hy, show line + pa % 128 = pa from hline] at hxa
        exact hxa ▸ h ho
      · exact hs.holds hy ⟨x, hx, hxa⟩
  · have h1 : Leaves one P s s1 := by
      unfold s1
      split
      · exact drainWc_leaves ..
      · exact .refl _ _ s
    refine h1.trans (setCore_leaves _ _ fun ho hs e he a ha => ?_)
    rcases List.mem_append.mp he with he | he
    · exact hs.holds he ha
    · obtain ⟨x, hx, hxa⟩ := ha
      rw [List.mem_singleton.mp he] at hx hxa
      rw [List.mem_singleton.mp hx, show line + pa % 128 = pa from hline] at hxa
      rw [← hxa, h1.pkg]
      exact h ho

theorem wcStore_leaves {one : Prop} {P : Nat → Prop} (s : State) (f : From) (va pa : Nat) (bs : List Byte)
    (h : one → ∀ k, k < bs.length → paPkg (pa + k) ≠ s.pkg) : Leaves one P s (s.wcStore f va pa bs) := by
  refine Leaves.after (drainWc_leaves ..) (Leaves.foldl _ s fun t x hx hp => wcByteStore_leaves t f va _ _ fun ho => ?_)
  have hlt : x.2 < bs.length := by
    have := List.snd_lt_of_mem_zipIdx hx
    omega
  rw [hp]
  exact h ho _ hlt

theorem memWrite_leaves {one : Prop} (s : State) (pa : Nat) (bs : List Byte) :
    Leaves one (Inside pa bs.length) s (s.memWrite pa bs) :=
  Leaves.after ((putLines_writes ..).leaves fun _ h _ => Or.inr h) (countLines_leaves s pa bs.length)

theorem scrWrite_names (t : Team) (off : Nat) (bs : List Byte) : (t.scrWrite off bs).names = t.names := by
  induction bs generalizing t off with
  | nil => rfl
  | cons b bs ih => rw [Team.scrWrite, ih]; rfl

theorem noteScr_calm (s : State) (team off n : Nat) (p : Option (Nat × Nat × Nat)) : Calm s (s.noteScr team off n p) := by
  unfold State.noteScr
  split
  · exact .refl _ s
  · exact calm_of_eq rfl

/-- The bytes that a store writes in the package's memory, of a place of memory its own. -/
def Loc.bytes (l : Loc) (n a : Nat) : Prop := match l with | .mem pa => Inside pa n a | _ => False

/-- All bytes of a store to memory lie on one package. -/
def Loc.whole (l : Loc) (n : Nat) : Prop := match l with | .mem pa => ∀ k, k < n → paPkg (pa + k) = paPkg pa | _ => True

theorem storeAt_leaves (s : State) (f : From) (l : Loc) (va : Nat) (bs : List Byte) :
    Leaves (l.whole bs.length) (l.bytes bs.length) s (s.storeAt f l va bs) := by
  cases l with
  | mem pa =>
    simp only [State.storeAt]
    split
    · exact (charge_calm ..).leaves
    · split
      · rename_i hp
        exact wcStore_leaves s f va pa bs fun ho k hk => by rw [ho k hk]; exact hp
      · exact Leaves.after (signed_calm ..).leaves (memWrite_leaves ..)
  | scr t off =>
    exact Calm.leaves (Writes.after (onTeam_calm fun u => scrWrite_names u off bs) (noteScr_calm ..))
  | far p h off => exact Calm.leaves (calm_of_eq rfl)

/-! ### Acts -/

/-- All bytes of a held store to memory lie on one package. -/
def Held.whole (h : Held) : Prop := match h.act with | .store l _ bs _ => l.whole bs.length | _ => True

/-- The bytes of a held store are bytes that it writes. -/
theorem writes_of_store {h : Held} {l : Loc} {va : Nat} {bs : List Byte} {rel : Bool} (hact : h.act = .store l va bs rel) (a : Nat)
    (ha : l.bytes bs.length a) : h.writes a := by
  unfold Held.writes
  rw [hact]
  cases l with
  | mem pa => exact ha
  | scr _ _ => exact ha.elim
  | far _ _ _ => exact ha.elim

theorem sawOwn_names (g : Group) (ts : TSet) (l : Loc) (va n order : Nat) : (g.sawOwn ts l va n order).names = g.names := by
  cases l <;> rfl

theorem performStore_leaves (s : State) (core : Nat) (rel : Bool) (f : From) (l : Loc) (va : Nat) (bs : List Byte) (id n : Nat)
    (note : State → Group → Group) (hn : ∀ t g, (note t g).names = g.names) :
    Leaves (l.whole bs.length) (l.bytes bs.length) s
      (((if rel then s.drainAll core else s).storeAt f l va bs).onGroup id n (note (if rel then s.drainAll core else s))) := by
  exact Leaves.after (Calm.leaves (onGroup_calm (hn _))) (Leaves.after (storeAt_leaves ..) (drainIf_leaves ..))

theorem stepCounter_writes (s : State) (pa amount : Nat) (err : Bool) : Writes (Inside pa 8) s (s.stepCounter pa amount err) := by
  have h := poke_writes s pa (leBytes 8 (counterStep (s.word64 pa) amount err))
  rwa [leBytes_length] at h

theorem stepHeld_leaves {one : Prop} (s : State) (f : From) (pa va amount : Nat) (err : Bool) :
    Leaves one (Inside pa 8) s (s.stepHeld f pa va amount err) := by
  unfold State.stepHeld
  extract_lets fail s1 s2 busy undo
  have hfail (code detail : Nat) : Leaves one (Inside pa 8) s (fail code detail) := (charge_calm ..).leaves
  have h1 : Leaves one (Inside pa 8) s s1 := Leaves.after (countLines_leaves ..) (drainAll_leaves ..)
  have h2 : Leaves one (Inside pa 8) s s2 :=
    Leaves.after (signed_calm ..).leaves (h1.trans ((stepCounter_writes ..).leaves fun _ h _ => Or.inr h))
  split
  · exact hfail 7 0
  · split
    · exact hfail 15 1
    · split
      · exact hfail 8 0
      · split
        · exact h2
        · exact h2.trans (Calm.leaves (calm_of_eq rfl))

theorem postMsg_leaves {one : Prop} {P : Nat → Prop} (s : State) (m : Msg) : Leaves one P s (s.postMsg m) := by
  unfold State.postMsg
  split
  · exact .refl _ _ s
  · extract_lets core send
    have hsend (u : State) (bs : List Byte) : Leaves one P u (send u bs) := Calm.leaves (calm_of_eq rfl)
    split
    · exact .refl _ _ s
    · split
      · exact hsend s []
      · split
        · split
          · exact (failMsg_calm ..).leaves
          · exact hsend s _
        · split
          · exact Leaves.after (hsend _ _) (Leaves.foldl _ s fun t x _ _ => countLines_leaves ..)
          · exact Calm.leaves (Writes.after (failMsg_calm ..) (calm_of_eq rfl))
          · exact (addWalks_calm ..).leaves

theorem issueSend_leaves {one : Prop} {P : Nat → Prop} (s : State) (t : Team) (g : Group) (h : Held) (a : MsgArgs) :
    Leaves one P s (s.issueSend t g h a) := by
  unfold State.issueSend
  extract_lets f m src s1 e
  have h1 : Leaves one P s s1 := by
    unfold s1
    exact Calm.leaves (Writes.after (sigAdd_calm ..) (calm_of_eq rfl))
  split
  · exact h1.trans (failMsg_calm ..).leaves
  · split
    · exact h1.trans (failMsg_calm ..).leaves
    · exact h1.trans (postMsg_leaves ..)

theorem noteTemps_names (g : Group) (ts : List (Nat × Reg)) : (g.noteTemps ts).names = g.names := rfl

theorem put_names (g : Group) (o : Opd) (vals : List (Nat × Reg)) : (g.put o vals).names = g.names := by
  unfold Group.put
  split
  · rfl
  · split <;> rfl
  · rfl

theorem deliver_names (g : Group) (n : Nat) (o : Opd) (vals : List (Nat × Reg)) : (g.deliver n o vals).names = g.names := by
  unfold Group.deliver
  extract_lets old
  split
  · exact put_names ..
  · exact (names_setTset _ _).trans ((noteTemps_names ..).trans (put_names ..))

theorem commitBank_names (t : Team) (core bank mode : Nat) : (t.commitBank core bank mode).names = t.names := by
  unfold Team.commitBank
  extract_lets t1
  have h1 : t1.names = t.names := by unfold t1; split <;> rfl
  split
  · exact h1
  · exact h1

/-- The team with the tiles of lanes' offsets emptied. -/
def Team.emptied (t : Team) (offs : List (Nat × Nat)) : Team := offs.foldl (fun u o => u.emptyTile o.2) t

/-- Emptying tiles changes tags alone. -/
theorem emptied_rest (t : Team) (offs : List (Nat × Nat)) : { t.emptied offs with tags := t.tags } = t := by
  induction offs generalizing t with
  | nil => rfl
  | cons o offs ih => exact congrArg (fun u : Team => { u with tags := t.tags }) (ih (t.emptyTile o.2))

theorem deliver_index (g : Group) (n : Nat) (o : Opd) (vals : List (Nat × Reg)) : (g.deliver n o vals).index = g.index :=
  congrArg Prod.fst (deliver_names g n o vals)

/-- What `ttake` puts back has the names that the team had. -/
theorem take_names {t : Team} {g : Group} (hg : t.group? g.index = some g) (offs : List (Nat × Nat)) (n : Nat) (o : Opd)
    (vals : List (Nat × Reg)) :
    ((t.emptied offs).setGroup (g.deliver n o vals)).names = t.names := by
  have hrest := emptied_rest t offs
  have hn : (t.emptied offs).names = t.names := (congrArg Team.names hrest :)
  refine (names_setGroup (g := g) ?_ (deliver_names ..)).trans hn
  rw [deliver_index, ← hg]
  exact (congrArg (fun u : Team => u.group? g.index) hrest :)

theorem setCtx_calm (s : State) (n : Nat) (x : Ctx) : Calm s (s.setCtx n x) := calm_of_eq rfl

/-- What an act leaves: all but its own bytes of the package's memory. -/
theorem act_leaves (s : State) (c : Cur) (h : Held) : Leaves h.whole h.writes s (s.act c h) := by
  unfold State.act
  split
  · exact .refl _ _ s
  rename_i t g ts hv
  obtain ⟨ht, hg, -⟩ := view_team hv
  obtain ⟨-, hgi, -⟩ := view_ids hv
  have hcalm {t1 : Team} (hn : t1.names = t.names) : Leaves h.whole h.writes s (s.setTeam t1) := (setTeam_found_calm ht hn).leaves
  extract_lets tc core from_
  cases hact : h.act with
  | store l va bs rel =>
    have hst := performStore_leaves s core (g.releases h rel) from_ l va bs t.id g.index
      (fun u x => x.sawOwn ts l va bs.length u.wseq) fun u x => sawOwn_names ..
    have hw : h.whole = l.whole bs.length := by unfold Held.whole; rw [hact]
    rw [hw]
    exact hst.mono id (writes_of_store hact)
  | storeVa _ _ _ _ _ => exact .refl _ _ s
  | mxset f v => exact hcalm rfl
  | tmark off full => exact hcalm rfl
  | tbind k src soff len => exact hcalm rfl
  | acst tile idx bits => exact (putNest_calm ..).leaves
  | acclr tile => exact (putNest_calm ..).leaves
  | acflg tile fl => exact hcalm rfl
  | bank core bank mode => exact hcalm (commitBank_names ..)
  | ffcfg f first nb entry => exact hcalm rfl
  | mxab => exact (abortNests_calm ..).leaves
  | cpcan dst k => exact (cancelCopy_calm ..).leaves
  | qsig l va amount err =>
    cases l with
    | mem pa => exact (stepHeld_leaves ..).mono id fun a ha => by unfold Held.writes; rw [hact]; exact ha
    | scr _ _ => exact .refl _ _ s
    | far _ _ _ => exact .refl _ _ s
  | emuTemp i vals =>
    dsimp only
    split
    · exact .refl _ _ s
    · exact Calm.leaves (calm_of_names rfl (names_onTset fun _ => rfl))
  | atom isRed isCmp op typ dst parts rel =>
    exact Leaves.after (remoteAtoms_calm ..).leaves (drainWc_leaves ..)
  | fence kind order scope =>
    dsimp only
    split
    · split
      · refine Leaves.after (Calm.leaves (onGroup_calm fun x => ?_)) (drainAll_leaves ..)
        split <;> rfl
      · exact .refl _ _ s
    · exact Leaves.after (Calm.leaves (onTeam_calm fun _ => rfl)) (drainAll_leaves ..)
    · exact Calm.leaves (onGroup_calm fun _ => rfl)
  | tpost sig isSealed rel parts =>
    exact Leaves.after (issuePost_calm ..).leaves (drainIf_leaves ..)
  | ttake typ dst offs =>
    exact hcalm (take_names (by rw [hgi, hg]) offs ..)
  | copy a => exact (issueCopy_calm ..).leaves
  | mxgo => exact Calm.leaves (Writes.after (sigAdd_calm ..) (armNest_calm ..))
  | acred sig aD aS => exact Calm.leaves (Writes.after (sigAdd_calm ..) (calm_of_eq rfl))
  | nsend a =>
    exact Leaves.after (issueSend_leaves ..) (drainIf_leaves ..)
  | qpush =>
    dsimp only
    exact Leaves.after (setCtx_calm ..).leaves (hcalm (t1 := { t with children := _ }) rfl)
  | qjoin _ _ => exact .refl _ _ s
  | sys _ _ _ => exact .refl _ _ s
  | barrier op b n sig dst =>
    dsimp only
    refine Leaves.after (testBar_calm ..).leaves (Leaves.after (Calm.leaves (onTeam_calm fun _ => rfl)) ?_)
    split
    · exact (Calm.leaves (onGroup_calm fun x => deliver_names ..))
    · exact drainIf_leaves ..

/-! ### The stores of a run (R51, R215) -/

/-- One of the acts writes the byte. -/
def writesAny (held : List Held) (a : Nat) : Prop := ∃ h ∈ held, h.writes a

theorem performAll_leaves (s : State) (c : Cur) (held : List Held) :
    Leaves (∀ h ∈ held, h.whole) (writesAny held) s (performAll s c held) := by
  induction held with
  | nil => exact .refl _ _ s
  | cons h held ih =>
    have hrun := ih.mono (one' := ∀ x ∈ h :: held, x.whole) (fun hw x hx => hw x (by simp [hx]))
      (P' := writesAny (h :: held)) fun a ⟨x, hx, ha⟩ => ⟨x, by simp [hx], ha⟩
    exact hrun.trans ((act_leaves (performAll s c held) c h).mono (fun hw => hw h (by simp)) fun a ha => ⟨h, by simp, ha⟩)

theorem performAll_append (s : State) (c : Cur) (later earlier : List Held) :
    performAll s c (later ++ earlier) = performAll (performAll s c earlier) c later :=
  List.foldr_append

/-- A store performed in the package's memory, under a key and on no failed channel: its bytes read as written. -/
theorem readByte_storeAt (s : State) (f : From) {pa : Nat} (va : Nat) {bs : List Byte}
    (hk : s.fw.keySlots.getLsbD (paKey pa) = true) (hp : paPkg pa = s.pkg) (hf : s.hbmFailed pa bs.length = false) {k : Nat}
    (hlt : k < bs.length) : readByte (s.storeAt f (.mem pa) va bs).mem (pa + k) = bs.getD k 0 := by
  rw [storeAt_mem f va hk hp hf]
  refine (readByte_poke ..).trans ?_
  rw [if_pos ⟨by omega, by omega⟩, Nat.add_sub_cancel_left]

/-- A store performed: a release drains the core's buffer first. -/
theorem act_store {s : State} {c : Cur} {t : Team} {g : Group} {ts : TSet} (hv : s.view c = some (t, g, ts)) {h : Held} {l : Loc}
    {va : Nat} {bs : List Byte} {rel : Bool} (hact : h.act = .store l va bs rel) :
    let core := t.coreNo (s.tcore t g.index)
    let s1 := if g.releases h rel then s.drainAll core else s
    s.act c h = (s1.storeAt ⟨t.id, g.index, h.lanes, h.pc, h.lane, core⟩ l va bs).onGroup t.id g.index
      fun x => x.sawOwn ts l va bs.length s1.wseq := by
  simp only [State.act, hv, hact]

theorem readByte_act_store {s : State} {c : Cur} (hv : s.view c ≠ none) {h : Held} {pa va : Nat} {bs : List Byte} {rel : Bool}
    (hact : h.act = .store (.mem pa) va bs rel) (hk : s.fw.keySlots.getLsbD (paKey pa) = true) (hp : paPkg pa = s.pkg)
    (hf : s.hbmFailed pa bs.length = false) {k : Nat} (hlt : k < bs.length) :
    readByte (s.act c h).mem (pa + k) = bs.getD k 0 := by
  obtain ⟨⟨t, g, ts⟩, hv⟩ := Option.ne_none_iff_exists'.mp hv
  rw [act_store hv hact]
  have hd : Leaves True (fun _ => False) s (if g.releases h rel then s.drainAll (t.coreNo (s.tcore t g.index)) else s) :=
    drainIf_leaves ..
  refine readByte_storeAt _ _ _ ?_ ?_ ?_ hlt
  · rw [hd.fw]; exact hk
  · rw [hd.pkg]; exact hp
  · rw [hbmFailed_congr hd.links hd.pkg]; exact hf

/-- A store that no later act overwrites stays: a byte of it reads as written when the run is performed. -/
theorem readByte_performAll_store {s : State} {c : Cur} (hv : s.view c ≠ none) (haway : BuffersAway s) {h : Held}
    (hwhole : h.whole) {pa va : Nat} {bs : List Byte} {rel : Bool} (hact : h.act = .store (.mem pa) va bs rel)
    (hk : s.fw.keySlots.getLsbD (paKey pa) = true) (hf : s.hbmFailed pa bs.length = false) (hp : paPkg pa = s.pkg) {k : Nat}
    (hlt : k < bs.length) (hpk : paPkg (pa + k) = s.pkg) (hr : ¬hotRing s (pa + k)) {later : List Held}
    (hlater : ∀ x ∈ later, x.whole) (hw : ∀ y ∈ later, ¬y.writes (pa + k)) :
    readByte (performAll (s.act c h) c later).mem (pa + k) = bs.getD k 0 := by
  have e1 := act_leaves s c h
  have e2 := performAll_leaves (s.act c h) c later
  have hr' : ¬hotRing (s.act c h) (pa + k) := by rwa [hotRing_congr e1.ring]
  have hw' : ¬writesAny later (pa + k) := fun ⟨y, hy, ha⟩ => hw y hy ha
  exact (e2.mem hlater (e1.away hwhole haway) (pa + k) (hpk.trans e1.pkg.symm) hr' hw').trans
    (readByte_act_store hv hact hk hp hf hlt)

theorem heldStoresLand : Claim.HeldStoresLand := by
  intro s c held hv haway hheld
  have hone : ∀ h ∈ held, h.whole := by
    intro h hh
    unfold Held.whole
    split
    · rename_i l va bs rel hact
      cases l with
      | mem pa => exact fun k hk => (hheld h hh).2.2 pa va bs rel k hact hk
      | scr _ _ => trivial
      | far _ _ _ => trivial
    · trivial
  refine ⟨fun a hp hr hw => ?_, fun later h earlier pa va bs rel hsplit hact hp hk hf k hlt hr hw => ?_⟩
  · exact (performAll_leaves s c held).mem hone haway a hp hr fun ⟨h, hh, ha⟩ => hw h hh ha
  · subst hsplit
    have hpk : paPkg (pa + k) = s.pkg := ((hheld h (by simp)).2.2 pa va bs rel k hact hlt).trans hp
    have e := performAll_leaves s c earlier
    rw [performAll_append]
    refine readByte_performAll_store (s := performAll s c earlier) ?_ (e.away (fun x hx => hone x (by simp [hx])) haway)
      (hone h (by simp)) hact ?_ ?_ ?_ hlt ?_ ?_ (fun x hx => hone x (by simp [hx])) hw
    · obtain ⟨x, hx⟩ := view_of_names e.names hv
      rw [hx]
      exact Option.some_ne_none x
    · rw [e.fw]; exact hk
    · rw [hbmFailed_congr e.links e.pkg]; exact hf
    · rw [e.pkg]; exact hp
    · rw [e.pkg]; exact hpk
    · rw [hotRing_congr e.ring]; exact hr

end Sys2Proof.Machine
end

section
/-!
PROOFS. Commits (O15), what single acts of a commit do.
-/
namespace Sys2Proof.Machine

/-! ### Teams and groups after a change -/

theorem team?_setTeam {s : State} {t t1 : Team} (h : s.team? t1.id = some t) : (s.setTeam t1).team? t1.id = some t1 := by
  unfold State.team? at h
  simp only [State.team?, State.setTeam]
  rw [find_lreplace _ _ fun _ _ => by simp, h]
  rfl

theorem team?_setTeam_other (s : State) {t1 : Team} {id : Nat} (h : id ≠ t1.id) : (s.setTeam t1).team? id = s.team? id := by
  simp only [State.team?, State.setTeam]
  refine find_lreplace_other _ _ _ (fun u hu => ?_) _
  have hu : u.id = t1.id := by simpa using hu
  have hn : (t1.id == id) = false := beq_false_of_ne h.symm
  rw [hu]
  exact ⟨rfl, hn⟩

theorem team?_onTeam_other (s : State) {id id' : Nat} {f : Team → Team} (hf : ∀ u, (f u).id = u.id) (h : id' ≠ id) :
    (s.onTeam id f).team? id' = s.team? id' := by
  simp only [State.team?, State.onTeam]
  refine find_lreplace_other _ _ _ (fun u hu => ?_) _
  have hu : u.id = id := by simpa using hu
  rw [hf, hu]
  exact ⟨rfl, beq_false_of_ne h.symm⟩

theorem group?_setGroup {t : Team} {g g1 : Group} (h : t.group? g1.index = some g) : (t.setGroup g1).group? g1.index = some g1 := by
  unfold Team.group? at h
  simp only [Team.group?, Team.setGroup]
  rw [find_lreplace _ _ fun _ _ => by simp, h]
  rfl

theorem group?_setGroup_other (t : Team) {g1 : Group} {n : Nat} (h : n ≠ g1.index) : (t.setGroup g1).group? n = t.group? n := by
  simp only [Team.group?, Team.setGroup]
  refine find_lreplace_other _ _ _ (fun u hu => ?_) _
  have hu : u.index = g1.index := by simpa using hu
  rw [hu]
  exact ⟨rfl, beq_false_of_ne h.symm⟩

/-- The team with a function applied to one of its groups. -/
def Team.mapGroup (t : Team) (n : Nat) (f : Group → Group) : Team :=
  { t with groups := lreplace (fun x => x.index == n) f t.groups }

theorem group?_mapGroup {t : Team} {n : Nat} {g : Group} {f : Group → Group} (h : t.group? n = some g)
    (hf : ∀ x, (f x).index = x.index) : (t.mapGroup n f).group? n = some (f g) := by
  unfold Team.group? at h
  simp only [Team.group?, Team.mapGroup]
  rw [find_lreplace _ _ fun u hu => by rw [hf]; exact hu, h]
  rfl

theorem group?_mapGroup_other (t : Team) {n k : Nat} {f : Group → Group} (hf : ∀ x, (f x).index = x.index) (h : k ≠ n) :
    (t.mapGroup n f).group? k = t.group? k := by
  simp only [Team.group?, Team.mapGroup]
  refine find_lreplace_other _ _ _ (fun u hu => ?_) _
  have hu : u.index = n := by simpa using hu
  rw [hf, hu]
  exact ⟨rfl, beq_false_of_ne h.symm⟩

theorem team?_onGroup {s : State} {id n : Nat} {t : Team} (f : Group → Group) (h : s.team? id = some t) :
    (s.onGroup id n f).team? id = some (t.mapGroup n f) :=
  team?_onTeam h fun _ => rfl

/-! ### Tiles (R223, R234) -/

theorem tag_setTag_same (t : Team) {off a : Nat} (x : Tag) (h : t.scrKey a / 512 = t.scrKey off / 512) : (t.setTag off x).tag a = x := by
  show aget tag0 (aset tag0 t.tags (t.scrKey off / 512) x) (t.scrKey a / 512) = x
  rw [h, aget_aset_same]

theorem tag_setTag_other (t : Team) {off a : Nat} (x : Tag) (h : t.scrKey a / 512 ≠ t.scrKey off / 512) :
    (t.setTag off x).tag a = t.tag a :=
  aget_aset_ne _ _ _ h

theorem tag_emptied_other (t : Team) (offs : List (Nat × Nat)) (a : Nat)
    (h : ∀ o ∈ offs, t.scrKey a / 512 ≠ t.scrKey o.2 / 512) : (t.emptied offs).tag a = t.tag a := by
  induction offs generalizing t with
  | nil => rfl
  | cons o offs ih =>
    exact (ih (t.emptyTile o.2) fun x hx => h x (by simp [hx])).trans (tag_setTag_other t _ (h o (by simp)))

theorem mask_emptied (t : Team) (offs : List (Nat × Nat)) (a : Nat) (h : ∃ o ∈ offs, t.scrKey a / 512 = t.scrKey o.2 / 512) :
    ((t.emptied offs).tag a).mask = 0 := by
  induction offs generalizing t with
  | nil => simp at h
  | cons x offs ih =>
    by_cases hin : ∃ o ∈ offs, t.scrKey a / 512 = t.scrKey o.2 / 512
    · exact ih (t.emptyTile x.2) hin
    · have hout : ∀ o ∈ offs, t.scrKey a / 512 ≠ t.scrKey o.2 / 512 := fun o ho heq => hin ⟨o, ho, heq⟩
      have hx : t.scrKey a / 512 = t.scrKey x.2 / 512 := by
        obtain ⟨o, ho, heq⟩ := h
        rcases List.mem_cons.mp ho with rfl | ho
        · exact heq
        · exact absurd heq (hout o ho)
      have hrest := tag_emptied_other (t.emptyTile x.2) offs a hout
      rw [Team.emptyTile, tag_setTag_same t _ hx] at hrest
      exact congrArg Tag.mask hrest

/-! ### Destinations of closing words -/

theorem v_deliver (g : Group) (k : Nat) (o : Opd) (vals : List (Nat × Reg)) : (g.deliver k o vals).v = (g.put o vals).v := by
  unfold Group.deliver
  extract_lets old
  split <;> rfl

/-- Lane registers that no value is delivered to keep theirs. -/
theorem aget_putLanes_other (n : Nat) (vals : List (Nat × Reg)) (m : AMap Reg) {k : Nat} (h : ∀ e ∈ vals, k ≠ laneKey n e.1) :
    aget marker (vals.foldl (fun m e => aset marker m (laneKey n e.1) e.2) m) k = aget marker m k := by
  induction vals generalizing m with
  | nil => rfl
  | cons e vals ih =>
    exact (ih _ fun x hx => h x (by simp [hx])).trans (aget_aset_ne _ _ _ (h e (by simp)))

/-- Each lane's register holds the value delivered to it. -/
theorem aget_putLanes_same (n : Nat) (vals : List (Nat × Reg)) (m : AMap Reg) (hd : (vals.map (·.1)).Nodup) {e : Nat × Reg}
    (he : e ∈ vals) : aget marker (vals.foldl (fun m e => aset marker m (laneKey n e.1) e.2) m) (laneKey n e.1) = e.2 := by
  induction vals generalizing m with
  | nil => cases he
  | cons x vals ih =>
    obtain ⟨hx, hd⟩ := List.nodup_cons.mp hd
    rcases List.mem_cons.mp he with rfl | he
    · refine (aget_putLanes_other n vals _ fun y hy heq => hx ?_).trans (aget_aset_same ..)
      have heq : e.1 = y.1 := by simpa [laneKey] using heq
      show e.1 ∈ _
      rw [heq]
      exact List.mem_map_of_mem hy
    · exact ih _ hd he

/-! ### Buffers that drain (R299) -/

/-- Cores are as before. -/
theorem Writes.core {B : Nat → Prop} {s t : State} (h : Writes B s t) (n : Nat) : t.core n = s.core n := by
  unfold State.core
  rw [h.cores]

theorem drainAll_empties (s : State) (core : Nat) : ((s.drainAll core).core core).wc = [] := by
  unfold State.drainAll State.drainWc
  extract_lets c s1
  have hw : Writes (s.buffers core) s1 ((c.wc.filter fun _ => true).foldl (fun s e => s.drainEntry core e) s1) :=
    Writes.foldl s1 fun t e he _ => (drainEntry_writes t core e).mono fun a ha => ⟨e, (List.mem_filter.mp he).1, ha⟩
  have hc : ((c.wc.filter fun _ => true).foldl (fun s e => s.drainEntry core e) s1).core core = s1.core core :=
    hw.core core
  rw [hc, State.core_setCore_same]
  simp

/-- Every team is still there, with the bytes that engines may still read as they were (R219). -/
def SameUnf (s t : State) : Prop := ∀ id u, s.team? id = some u → ∃ u1, t.team? id = some u1 ∧ u1.unf = u.unf

theorem SameUnf.refl (s : State) : SameUnf s s := fun _ u h => ⟨u, h, rfl⟩

theorem SameUnf.trans {s t u : State} (h : SameUnf s t) (k : SameUnf t u) : SameUnf s u := fun id x hx => by
  obtain ⟨y, hy, hxy⟩ := h id x hx
  obtain ⟨z, hz, hyz⟩ := k id y hy
  exact ⟨z, hz, hyz.trans hxy⟩

theorem SameUnf.of_teams {s t : State} (h : t.teams = s.teams) : SameUnf s t := fun id u hu => by
  refine ⟨u, ?_, rfl⟩
  unfold State.team? at *
  rw [h, hu]

theorem SameUnf.foldl {α : Type} {step : State → α → State} (xs : List α) (s : State)
    (h : ∀ t x, SameUnf t (step t x)) : SameUnf s (xs.foldl step s) := by
  induction xs generalizing s with
  | nil => exact .refl s
  | cons x xs ih => exact (h s x).trans (ih _)

theorem charge_sameUnf (s : State) (id n : Nat) (ls : List Nat) (pc : Nat) (e : FInfo) : SameUnf s (s.charge id n ls pc e) := by
  intro id' u hu
  by_cases h : id' = id
  · subst h
    exact ⟨_, team?_onTeam hu fun _ => rfl, rfl⟩
  · exact ⟨u, by rw [State.charge, team?_onTeam_other s (fun _ => by rfl) h, hu], rfl⟩

theorem drainEntry_sameUnf (s : State) (core : Nat) (e : WcEntry) : SameUnf s (s.drainEntry core e) := by
  unfold State.drainEntry
  extract_lets bs undo busy s1 access
  split
  · exact SameUnf.foldl _ s fun _ _ => charge_sameUnf _ _ _ _ _ _
  · have h1 : SameUnf s s1 := by
      unfold s1
      exact SameUnf.foldl _ s fun _ _ => .of_teams rfl
    exact h1.trans (.of_teams rfl)

theorem drainAll_sameUnf (s : State) (core : Nat) : SameUnf s (s.drainAll core) := by
  unfold State.drainAll State.drainWc
  extract_lets c s1
  have h1 : SameUnf s s1 := .of_teams rfl
  exact h1.trans (SameUnf.foldl _ s1 fun _ _ => drainEntry_sameUnf _ _ _)

/-- A `fence.op` leaves none of its threads' older bytes (R219). -/
theorem mem_unfAfter {threads done : List Nat} {es : List (Nat × Nat × Byte)} {e : Nat × Nat × Byte}
    (h : e ∈ unfAfter threads done es) : e ∈ es ∧ e.1 ∉ threads := by
  induction es generalizing done with
  | nil => cases h
  | cons x es ih =>
    unfold unfAfter at h
    split at h
    · exact ⟨List.mem_cons_of_mem _ (ih h).1, (ih h).2⟩
    · split at h
      · exact ⟨List.mem_cons_of_mem _ (ih h).1, (ih h).2⟩
      · rename_i hx
        rcases List.mem_cons.mp h with rfl | h
        · exact ⟨List.mem_cons_self, by simpa using hx⟩
        · exact ⟨List.mem_cons_of_mem _ (ih h).1, (ih h).2⟩

/-! ### What single acts do -/

/-- A signal added to: its count alone has grown. -/
theorem sigAdd_counts {s : State} {id n : Nat} {t : Team} {g : Group} (ht : s.team? id = some t) (hg : t.group? n = some g)
    (sig : Option Nat) (m : Nat) :
    ∃ t1 g1, (s.sigAdd id n sig m).team? id = some t1 ∧ t1.group? n = some g1 ∧ { g1 with sig := g.sig } = g ∧
      (∀ i, aget 0 g1.sig i = aget 0 g.sig i + (if sig = some i then m else 0)) ∧
      { s.sigAdd id n sig m with teams := s.teams } = s := by
  cases sig with
  | none => exact ⟨t, g, ht, hg, rfl, fun i => by simp, rfl⟩
  | some j =>
    refine ⟨_, _, team?_onGroup _ ht, group?_mapGroup hg fun _ => rfl, rfl, fun i => ?_, rfl⟩
    rw [aget_aset]
    by_cases hij : i = j
    · simp [hij]
    · simp [hij, Ne.symm hij]

/-- The group with the status of a new copy command. -/
def Group.startCopy (g : Group) (id : Nat) : Group := { g with copies := (⟨id, 0, 0, 1⟩ :: g.copies).take 16 }

/-- The state with a new command. -/
def State.joinCmd (s : State) (k : Cmd) : State := { s with nextId := s.nextId + 1, cmds := s.cmds ++ [k] }

section
variable {s : State} {c : Cur} {t : Team} {g : Group} {ts : TSet} {h : Held} (hv : s.view c = some (t, g, ts))
include hv

theorem act_tmark {off : Nat} {full : Bool} (hact : h.act = .tmark off full) :
    ∃ t1, (s.act c h).team? c.1 = some t1 ∧ (t1.tag off).mask = (if full then 0xFFFF else 0) ∧
      (t1.tag off).ovr = (full && (t.tag off).ovr) ∧
      (∀ o, t.scrKey o / 512 ≠ t.scrKey off / 512 → t1.tag o = t.tag o) ∧ { t1 with tags := t.tags } = t ∧
      { s.act c h with teams := s.teams } = s := by
  obtain ⟨ht, -, -⟩ := view_team hv
  obtain ⟨hid, -, -⟩ := view_ids hv
  rw [← hid] at ht ⊢
  simp only [State.act, hv, hact]
  refine ⟨_, team?_setTeam (t1 := t.setTag off _) ht, ?_, ?_, fun o ho => tag_setTag_other t _ ho, rfl, rfl⟩
  · rw [tag_setTag_same t _ rfl]
    split <;> rfl
  · rw [tag_setTag_same t _ rfl]
    cases full <;> rfl

theorem act_ttake_eq {typ : Typ} {dst : Opd} {offs : List (Nat × Nat)} (hact : h.act = .ttake typ dst offs) :
    s.act c h = s.setTeam ((t.emptied offs).setGroup (g.deliver ts.id dst
      (offs.map fun o => (o.1, moveReg typ (BitVec.ofNat 64 (leNat (t.scrRead o.2 (tyBytes typ)))))))) := by
  simp only [State.act, hv, hact, List.map_map]
  rfl

theorem act_ttake {typ : Typ} {n : BitVec 18} {offs : List (Nat × Nat)} (hact : h.act = .ttake typ (.v n) offs)
    (hd : (offs.map fun o => o.1).Nodup) :
    ∃ t1 g1, (s.act c h).team? c.1 = some t1 ∧ t1.group? c.2.1 = some g1 ∧
      (∀ o ∈ offs, (t1.tag o.2).mask = 0 ∧
        aget marker g1.v (laneKey n.toNat o.1) = moveReg typ (BitVec.ofNat 64 (leNat (t.scrRead o.2 (tyBytes typ))))) ∧
      (∀ k, (∀ o ∈ offs, k ≠ laneKey n.toNat o.1) → aget marker g1.v k = aget marker g.v k) ∧
      (∀ a, (∀ o ∈ offs, t.scrKey a / 512 ≠ t.scrKey o.2 / 512) → t1.tag a = t.tag a) ∧ t1.scr = t.scr ∧
      (s.act c h).mem = s.mem := by
  obtain ⟨ht, hg, -⟩ := view_team hv
  obtain ⟨hid, hgi, -⟩ := view_ids hv
  rw [act_ttake_eq hv hact]
  let value (o : Nat × Nat) : Reg := moveReg typ (BitVec.ofNat 64 (leNat (t.scrRead o.2 (tyBytes typ))))
  let g1 := g.deliver ts.id (.v n) (offs.map fun o => (o.1, value o))
  have hrest := emptied_rest t offs
  have hindex : g1.index = c.2.1 := (deliver_index ..).trans hgi
  have hid1 : ((t.emptied offs).setGroup g1).id = c.1 := (congrArg Team.id hrest :).trans hid
  have hg1 : (t.emptied offs).group? g1.index = some g := by
    rw [hindex, ← hg]
    exact (congrArg (fun u : Team => u.group? c.2.1) hrest :)
  have hv1 : g1.v = (offs.map fun o => (o.1, value o)).foldl (fun m e => aset marker m (laneKey n.toNat e.1) e.2) g.v :=
    v_deliver ..
  have hkeys : ((offs.map fun o => (o.1, value o)).map (·.1)).Nodup := by
    rw [List.map_map]
    exact hd
  refine ⟨(t.emptied offs).setGroup g1, g1, ?_, ?_, fun o ho => ⟨?_, ?_⟩, fun k hk => ?_, fun a ha => ?_,
    (congrArg Team.scr hrest :), rfl⟩
  · rw [← hid1]
    exact team?_setTeam (by rw [hid1]; exact ht)
  · rw [← hindex]
    exact group?_setGroup hg1
  · exact mask_emptied t offs o.2 ⟨o, ho, rfl⟩
  · rw [hv1]
    exact aget_putLanes_same n.toNat _ g.v hkeys (List.mem_map_of_mem ho)
  · rw [hv1]
    refine aget_putLanes_other n.toNat _ g.v fun e he => ?_
    obtain ⟨o, ho, rfl⟩ := List.mem_map.mp he
    exact hk o ho
  · exact tag_emptied_other t offs a ha

/-- A copy joins the commands and the group's status, and counts on its signal (R284, R286). -/
theorem act_copy_eq {a : CopyArgs} (hact : h.act = .copy a) :
    ∃ k : Cmd, s.act c h = ((s.joinCmd k).onGroup t.id g.index fun x => x.startCopy s.nextId).sigAdd t.id g.index a.sig 1 ∧
      k.id = s.nextId ∧ k.args = a ∧ k.team = t.id ∧ k.group = g.index ∧ k.pc = h.pc ∧ k.lanes = h.lanes := by
  have hissue : s.act c h = s.issueCopy t g h a := by simp only [State.act, hv, hact]
  rw [hissue]
  exact ⟨_, rfl, rfl, rfl, rfl, rfl, rfl, rfl⟩

theorem act_copy {a : CopyArgs} (hact : h.act = .copy a) :
    ∃ k g1 t1, (s.act c h).cmds = s.cmds ++ [k] ∧ k.id = s.nextId ∧ k.args = a ∧ k.team = c.1 ∧ k.group = c.2.1 ∧
      k.pc = h.pc ∧ k.lanes = h.lanes ∧ (s.act c h).team? c.1 = some t1 ∧ t1.group? c.2.1 = some g1 ∧
      g1.copies = (⟨s.nextId, 0, 0, 1⟩ :: g.copies).take 16 ∧
      (∀ i, aget 0 g1.sig i = aget 0 g.sig i + (if a.sig = some i then 1 else 0)) ∧ (s.act c h).mem = s.mem := by
  obtain ⟨ht, hg, -⟩ := view_team hv
  obtain ⟨hid, hgi, -⟩ := view_ids hv
  obtain ⟨k, hk, k1, k2, k3, k4, k5, k6⟩ := act_copy_eq hv hact
  rw [hk, ← hid, ← hgi]
  rw [← hid] at ht
  rw [← hgi] at hg
  have hnoted := team?_onGroup (s := s.joinCmd k) (n := g.index) (fun x => x.startCopy s.nextId) ht
  have hgroup := group?_mapGroup (f := fun x => x.startCopy s.nextId) hg fun _ => rfl
  obtain ⟨t1, g1, ht1, hg1, hrest, hsig, hsame⟩ := sigAdd_counts hnoted hgroup a.sig 1
  exact ⟨k, g1, t1, (congrArg State.cmds hsame :), k1, k2, k3, k4, k5, k6, ht1, hg1, (congrArg Group.copies hrest :), hsig,
    (congrArg State.mem hsame :)⟩

theorem act_release {order scope : Nat} (hact : h.act = .fence 0 order scope) (ho : order = 2 ∨ order = 3) :
    ((s.act c h).core (t.coreNo (s.tcore t g.index))).wc = [] := by
  simp only [State.act, hv, hact, if_pos ho]
  exact drainAll_empties ..

theorem act_arrival {op b n : Nat} {sig : Option Nat} {dst : Opd} (hact : h.act = .barrier op b n sig dst)
    (ha : arrives op = true) : ((s.act c h).core (t.coreNo (s.tcore t g.index))).wc = [] := by
  have h5 : op ≠ 5 := by rintro rfl; cases ha
  simp only [State.act, hv, hact, if_neg h5, if_pos ha]
  rw [(testBar_calm ..).core]
  exact drainAll_empties ..

theorem act_fenceOp {order scope : Nat} (hact : h.act = .fence 1 order scope) :
    ((s.act c h).core (t.coreNo (s.tcore t g.index))).wc = [] ∧
      ∃ t1, (s.act c h).team? c.1 = some t1 ∧ ∀ e ∈ t1.unf, e ∈ t.unf ∧ e.1 ∉ ts.lanes.map (32 * g.index + ·) := by
  obtain ⟨ht, -, -⟩ := view_team hv
  obtain ⟨hid, -, -⟩ := view_ids hv
  simp only [State.act, hv, hact]
  obtain ⟨u, hu, huf⟩ := drainAll_sameUnf s (t.coreNo (s.tcore t g.index)) c.1 t ht
  refine ⟨drainAll_empties .., u.fenceOp (ts.lanes.map (32 * g.index + ·)), ?_, fun e he => ?_⟩
  · rw [hid]
    exact team?_onTeam hu fun _ => rfl
  · rw [← huf]
    exact mem_unfAfter he

theorem act_qpush_eq (hact : h.act = .qpush) :
    let words := (List.range 7).map fun k => aget 0 g.recb k
    let x := s.ctx (s.ctxOf t)
    s.act c h = (s.setTeam { t with children := t.children ++ [words ++ [x.launchNo.zeroExtend 64]] }).setCtx (s.ctxOf t)
      { x with launchNo := x.launchNo + 1 } := by
  simp only [State.act, hv, hact]
  rfl

theorem act_qpush (hact : h.act = .qpush) :
    ∃ t1, (s.act c h).team? c.1 = some t1 ∧ t1.children = t.children ++
        [((List.range 7).map fun k => aget 0 g.recb k) ++ [(s.ctx (s.ctxOf t)).launchNo.zeroExtend 64]] ∧
      ((s.act c h).ctx (s.ctxOf t)).launchNo = (s.ctx (s.ctxOf t)).launchNo + 1 ∧ (s.act c h).mem = s.mem := by
  obtain ⟨ht, -, -⟩ := view_team hv
  obtain ⟨hid, -, -⟩ := view_ids hv
  rw [← hid] at ht ⊢
  rw [act_qpush_eq hv hact, State.ctx_setCtx_same]
  let t1 : Team := { t with children := t.children ++
    [((List.range 7).map fun k => aget 0 g.recb k) ++ [(s.ctx (s.ctxOf t)).launchNo.zeroExtend 64]] }
  exact ⟨t1, team?_setTeam (t1 := t1) ht, rfl, rfl, rfl⟩

end

theorem heldActs : Claim.HeldActs := by
  intro s c t g ts h hv
  exact ⟨fun off full hact => act_tmark hv hact, fun typ n offs hact hd => act_ttake hv hact hd, fun a hact => act_copy hv hact,
    fun order scope hact ho => act_release hv hact ho, fun op b n sig dst hact ha => act_arrival hv hact ha,
    fun order scope hact => act_fenceOp hv hact, fun hact => act_qpush hv hact⟩

end Sys2Proof.Machine
end

section
/-!
PROOFS. Commits (O15), from the performed acts of a run to the next words of its lanes.
-/
namespace Sys2Proof.Machine

/-! ### A group that moves on -/

/-- The group has moved on by `k` runs: its registers, predicates, signals and what else does not follow its lanes are as before. -/
structure MovedOn (k : Nat) (g g1 : Group) : Prop where
  rest : { g1 with
    tsets := g.tsets, depth := g.depth, stk := g.stk, runs := g.runs, exited := g.exited, nextTs := g.nextTs } = g
  runs : g1.runs = g.runs + k

/-- From `p` to `q` only the group of `c` has changed, having moved on by `k` runs, with the counts of probe slots of its team and the
translation entries. -/
structure Onward (c : Cur) (k : Nat) (p q : State) (tp t1 : Team) (gp g1 : Group) : Prop where
  rest : { q with teams := p.teams, tcache := p.tcache } = p
  team : q.team? c.1 = some t1
  others : ∀ id, id ≠ c.1 → q.team? id = p.team? id
  teamRest : { t1 with groups := tp.groups, slots := tp.slots } = tp
  group : t1.group? c.2.1 = some g1
  groups : ∀ n, n ≠ c.2.1 → t1.group? n = tp.group? n
  moved : MovedOn k gp g1

section
variable {c : Cur} {k k' : Nat} {p q r : State} {tp t1 t2 : Team} {gp g1 g2 : Group}

theorem MovedOn.refl (g : Group) : MovedOn 0 g g := ⟨rfl, rfl⟩

theorem MovedOn.trans (h : MovedOn k gp g1) (h' : MovedOn k' g1 g2) : MovedOn (k + k') gp g2 where
  rest := by rw [← h.rest, ← h'.rest]
  runs := by rw [h'.runs, h.runs, Nat.add_assoc]

theorem MovedOn.index (h : MovedOn k gp g1) : g1.index = gp.index := (congrArg Group.index h.rest :)

theorem Onward.refl (ht : p.team? c.1 = some tp) (hg : tp.group? c.2.1 = some gp) : Onward c 0 p p tp tp gp gp :=
  ⟨rfl, ht, fun _ _ => rfl, rfl, hg, fun _ _ => rfl, .refl gp⟩

theorem Onward.trans (h : Onward c k p q tp t1 gp g1) (h' : Onward c k' q r t1 t2 g1 g2) : Onward c (k + k') p r tp t2 gp g2 where
  rest := by rw [← h.rest, ← h'.rest]
  team := h'.team
  others id hid := (h'.others id hid).trans (h.others id hid)
  teamRest := by rw [← h.teamRest, ← h'.teamRest]
  group := h'.group
  groups n hn := (h'.groups n hn).trans (h.groups n hn)
  moved := h.moved.trans h'.moved

/-- A change of the group alone. -/
theorem Onward.onGroup (h : Onward c k p q tp t1 gp g1) (f : Group → Group) (hi : ∀ x, (f x).index = x.index)
    (hf : MovedOn k' g1 (f g1)) : Onward c (k + k') p (q.onGroup c.1 c.2.1 f) tp (t1.mapGroup c.2.1 f) gp (f g1) :=
  h.trans
    { rest := rfl
      team := team?_onGroup f h.team
      others := fun _ hid => team?_onTeam_other q (fun _ => rfl) hid
      teamRest := rfl
      group := group?_mapGroup h.group hi
      groups := fun _ hn => group?_mapGroup_other t1 hi hn
      moved := hf }

/-- The group with a function applied to one of its sets. -/
def Group.mapTset (g : Group) (id : Nat) (f : TSet → TSet) : Group := { g with tsets := lreplace (fun x => x.id == id) f g.tsets }

theorem tset?_mapTset {g : Group} {id : Nat} {ts : TSet} {f : TSet → TSet} (h : g.tset? id = some ts) (hf : ∀ x, (f x).id = x.id) :
    (g.mapTset id f).tset? id = some (f ts) := by
  unfold Group.tset? at h
  simp only [Group.tset?, Group.mapTset]
  rw [find_lreplace _ _ fun u hu => by rw [hf]; exact hu, h]
  rfl

/-- A change of a thread set of the group. -/
theorem Onward.onTset (h : Onward c k p q tp t1 gp g1) (f : TSet → TSet) :
    Onward c k p (q.onTset c f) tp (t1.mapGroup c.2.1 fun g => g.mapTset c.2.2 f) gp (g1.mapTset c.2.2 f) :=
  h.onGroup (k' := 0) (fun g => g.mapTset c.2.2 f) (fun _ => rfl) ⟨rfl, rfl⟩

/-- A change of the team's probe slots. -/
theorem Onward.onSlots (h : Onward c k p q tp t1 gp g1) (f : Team → Team) (hf : ∀ t, { f t with slots := t.slots } = t) :
    Onward c k p (q.onTeam c.1 f) tp (f t1) gp g1 := by
  have hid (t : Team) : (f t).id = t.id := (congrArg Team.id (hf t) :)
  have hgr (n : Nat) : (f t1).group? n = t1.group? n := (congrArg (fun t : Team => t.group? n) (hf t1) :)
  refine h.trans (k' := 0)
    { rest := rfl
      team := team?_onTeam h.team hid
      others := fun _ hne => team?_onTeam_other q hid hne
      teamRest := ?_
      group := (hgr _).trans h.group
      groups := fun n _ => hgr n
      moved := .refl g1 }
  exact (congrArg (fun t : Team => { t with groups := t1.groups, slots := t1.slots }) (hf t1) :)

/-- A run counted in its launch's entry. -/
theorem Onward.countRun (h : Onward c k p q tp t1 gp g1) (t : Team) (hot : Bool) : Onward c k p (q.countRun t hot) tp t1 gp g1 :=
  { h with rest := h.rest }

/-- The team put back with its group moved on and its probe slots changed. -/
theorem Onward.setTeam (h : Onward c k p q tp t1 gp g1) (hid : t1.id = c.1) (hgi : g1.index = c.2.1) {u : Team}
    (hu : { u with slots := t1.slots } = t1) (hg : MovedOn k' g1 g2) :
    Onward c (k + k') p (q.setTeam (u.setGroup g2)) tp (u.setGroup g2) gp g2 := by
  have huid : (u.setGroup g2).id = c.1 := (congrArg Team.id hu :).trans hid
  have hi : g2.index = c.2.1 := hg.index.trans hgi
  have hgr (n : Nat) : u.group? n = t1.group? n := (congrArg (fun t : Team => t.group? n) hu :)
  refine h.trans
    { rest := rfl
      team := ?_
      others := fun id hne => team?_setTeam_other q (by rw [huid]; exact hne)
      teamRest := (congrArg (fun t : Team => { t with groups := t1.groups }) hu :)
      group := ?_
      groups := fun n hn => (group?_setGroup_other u (by rw [hi]; exact hn)).trans (hgr n)
      moved := hg }
  · rw [← huid]
    exact team?_setTeam (by rw [huid]; exact h.team)
  · rw [← hi]
    exact group?_setGroup (by rw [hi, hgr]; exact h.group)

theorem Onward.view (h : Onward c k p q tp t1 gp g1) {ts : TSet} (hts : g1.tset? c.2.2 = some ts) : q.view c = some (t1, g1, ts) := by
  simp only [State.view, h.team, h.group, hts]

theorem Onward.kernelOf (h : Onward c k p q tp t1 gp g1) : q.kernelOf t1 = p.kernelOf tp := by
  have hl : t1.launch = tp.launch := (congrArg Team.launch h.teamRest :)
  have hs : q.launches = p.launches := (congrArg State.launches h.rest :)
  unfold State.kernelOf State.launch?
  rw [hl, hs]

end

/-! ### Regrouping (R125) -/

theorem join_movedOn (g : Group) (clk : Nat) (n : TSet) : MovedOn 0 g (g.join clk n) := by
  unfold Group.join
  split
  · extract_lets mate n1
    split <;> exact ⟨rfl, rfl⟩
  · exact ⟨rfl, rfl⟩

theorem regroup_movedOn (g : Group) (ts : TSet) (clk : Nat) (yielded : Bool) (isTaken : Nat → Bool) :
    MovedOn 0 g (g.regroup ts clk yielded isTaken) := by
  unfold Group.regroup
  extract_lets out g1
  have hfold (bs : List (Nat × List Nat)) (acc : Group × Nat) (h : MovedOn 0 g acc.1) :
      MovedOn 0 g (bs.foldl (fun (acc : Group × Nat) b =>
        (acc.1.join clk (ts.child acc.2 b.2 b.1 clk (ts.conv && isTaken b.1) yielded), acc.2 + 1)) acc).1 := by
    induction bs generalizing acc with
    | nil => exact h
    | cons b bs ih => exact ih _ (h.trans (join_movedOn ..))
  have h1 : MovedOn 0 g { g1 with nextTs := g1.freshId + ts.branches.length } := ⟨rfl, rfl⟩
  exact (hfold ts.branches _ h1).trans (k' := 0) ⟨rfl, rfl⟩

theorem reprotect_slots (t : Team) (slots : List Nat) (n : Nat) : { t.reprotect slots n with slots := t.slots } = t := by
  unfold Team.reprotect
  split <;> rfl

end Sys2Proof.Machine
end

section
/-!
PROOFS. Commits (O15): a trailer whose run can commit applies its registers, performs its acts and moves its lanes on.
-/
namespace Sys2Proof.Machine

/-! ### Moves that stay on chip (R137, R140) -/

/-- A lane whose move stays on chip and meets no fault moves, and stores no entry. -/
theorem laneMove_ok {s : State} {t : Team} {w : W} {kind : Nat} {x : TWord} {l : Nat} (h : laneMoves (s.kernelOf t) w kind x l) :
    ∃ m, s.laneMove t w kind x l = .ok m ∧ m.put = none := by
  obtain ⟨hstart, hpush, hpop⟩ := h
  have hpushed (next ret : Nat) (hd : aget 0 w.grp.depth l < 4) : ∃ m, s.pushMove t w l next ret = .ok m ∧ m.put = none := by
    unfold State.pushMove
    rw [if_pos (by omega)]
    exact ⟨_, rfl, rfl⟩
  unfold State.laneMove
  extract_lets pc stay reg bad
  split
  · exact ⟨_, rfl, rfl⟩
  · exact ⟨_, rfl, rfl⟩
  · have hreg : (s.kernelOf t).runStart reg = true := hstart (by decide)
    rw [if_pos hreg]
    exact ⟨_, rfl, rfl⟩
  · exact hpushed _ _ (hpush (by decide))
  · have hreg : (s.kernelOf t).runStart reg = true := hstart (by decide)
    rw [if_pos hreg]
    exact hpushed _ _ (hpush (by decide))
  · obtain ⟨h1, h4⟩ := hpop rfl
    unfold State.popMove
    extract_lets d stk check
    have hgood : (s.kernelOf t).runStart (stk.getD (d - 1) 0) = true := hstart (by decide)
    have hd : d ≠ 0 := Nat.one_le_iff_ne_zero.mp h1
    have h4 : d ≤ 4 := h4
    simp only [if_neg hd, if_pos h4, check, if_pos hgood]
    exact ⟨_, rfl, rfl⟩
  · exact ⟨_, rfl, rfl⟩
  · exact ⟨_, rfl, rfl⟩

/-- So move all lanes of a set. -/
theorem moves_ok {s : State} {t : Team} {w : W} {kind : Nat} {x : TWord} (h : ∀ l ∈ w.ts.lanes, laneMoves (s.kernelOf t) w kind x l) :
    ∃ ms, s.moves t w kind x = .ok ms ∧ ∀ m ∈ ms, m.put = none := by
  unfold State.moves
  generalize w.ts.lanes = ls at h
  induction ls with
  | nil => exact ⟨[], rfl, by simp⟩
  | cons l ls ih =>
    obtain ⟨ms, hms, hput⟩ := ih fun l hl => h l (by simp [hl])
    obtain ⟨m, hm, hp⟩ := laneMove_ok (h l (by simp))
    refine ⟨m :: ms, ?_, ?_⟩
    · rw [List.foldr_cons, hms, hm]
      rfl
    · simpa [hp] using hput

/-- Entries on chip have no places in memory. -/
theorem popAccs_parts {s : State} {t : Team} {w : W} (h : ∀ l ∈ w.ts.lanes, aget 0 w.grp.depth l ≤ 4) :
    ∀ a ∈ s.popAccs t w, a.parts = [] := by
  intro a ha
  obtain ⟨l, hl, rfl⟩ := List.mem_map.mp ha
  exact if_pos (h l hl)

section
variable {ls : List LaneAcc} (h : ∀ a ∈ ls, a.parts = [])
include h

theorem remoteParts_of_noParts (s : State) : s.remoteParts ls = [] := by
  unfold State.remoteParts
  refine List.flatMap_eq_nil_iff.mpr fun a ha => ?_
  rw [h a ha]
  rfl

theorem partsHeld_of_noParts (s : State) (t : Team) (w : W) : s.partsHeld t w ls = false := by
  unfold State.partsHeld
  have hnone : (ls.any fun l => l.parts.any fun p => s.storeHeld (t.coreNo (s.tcore t w.grp.index)) p.loc p.len) = false := by
    refine List.any_eq_false.mpr fun a ha => ?_
    simp [h a ha]
  simp [hnone]

theorem countParts_of_noParts (s : State) : s.countParts ls = s := by
  unfold State.countParts
  induction ls with
  | nil => rfl
  | cons a ls ih =>
    rw [List.foldl_cons, h a (by simp)]
    exact ih fun b hb => h b (by simp [hb])

end

/-- No lane's move stores an entry: none waits for a link. -/
theorem movesHeld_false {s : State} {t : Team} {w : W} {pops : List LaneAcc} {ms : List Move} (hp : ∀ a ∈ pops, a.parts = [])
    (hm : ∀ m ∈ ms, m.put = none) : s.movesHeld t w pops (.ok ms) = false := by
  unfold State.movesHeld
  rw [partsHeld_of_noParts hp, Bool.false_or]
  refine List.any_eq_false.mpr fun m hmem => ?_
  simp [hm m hmem]

/-- What a lane's move rests on. -/
theorem laneMoves_congr {k : Kernel} {w w' : W} {kind : Nat} {x : TWord} {l : Nat} (hpc : w'.ts.pc = w.ts.pc)
    (hp : w'.grp.p = w.grp.p) (hstk : w'.grp.stk = w.grp.stk) (hdepth : w'.grp.depth = w.grp.depth)
    (hsrc : w'.src x.reg l = w.src x.reg l) (h : laneMoves k w kind x l) : laneMoves k w' kind x l := by
  have hguard : w'.grp.guard x.grd l = w.grp.guard x.grd l := by
    unfold Group.guard Group.pred Group.predBits
    rw [hp]
  have htarget : laneTarget w' kind x l = laneTarget w kind x l := by
    unfold laneTarget
    rw [hpc, hguard, hsrc, hstk, hdepth]
  unfold laneMoves at *
  rwa [htarget, hdepth]

/-- A register that a trailer names reads the same under the same registers. -/
theorem src_congr {w w' : W} {o : Opd} (ho : (∃ n, o = .v n) ∨ ∃ n, o = .g n) (hv : w'.grp.v = w.grp.v)
    (hg : ∀ n, w'.gRead n = w.gRead n) (l : Nat) : w'.src o l = w.src o l := by
  obtain ⟨n, rfl⟩ | ⟨n, rfl⟩ := ho
  · exact congrArg (fun m => aget marker m (laneKey n.toNat l)) hv
  · exact hg n.toNat

/-! ### The lanes move on (R136) -/

/-- From `p` to `q` only the group of `c` has moved on, and its thread set is `ts`. -/
def Stands (c : Cur) (k : Nat) (p q : State) (tp : Team) (gp : Group) (ts : TSet) : Prop :=
  ∃ t1 g1, Onward c k p q tp t1 gp g1 ∧ g1.tset? c.2.2 = some ts

section
variable {c : Cur} {k : Nat} {p q : State} {tp : Team} {gp : Group} {ts : TSet}

theorem Stands.onTset (h : Stands c k p q tp gp ts) (f : TSet → TSet) (hf : ∀ x, (f x).id = x.id) :
    Stands c k p (q.onTset c f) tp gp (f ts) := by
  obtain ⟨t1, g1, ho, hts⟩ := h
  exact ⟨_, _, ho.onTset f, tset?_mapTset hts hf⟩

theorem Stands.finishTrailer (h : Stands c k p q tp gp ts) : ∃ t1 g1, Onward c k p (q.finishTrailer c) tp t1 gp g1 := by
  obtain ⟨t1, g1, ho, hts⟩ := h
  have hv := ho.view hts
  obtain ⟨hid, hgi, -⟩ := view_ids hv
  unfold State.finishTrailer
  simp only [hv]
  split
  · exact ⟨_, _, ho.setTeam hid hgi (reprotect_slots ..) (regroup_movedOn ..)⟩
  · exact ⟨_, _, ho.onTset _⟩

theorem Stands.applyMove (h : Stands c k p q tp gp ts) (f : From) {m : Move} (hm : m.put = none) :
    Stands c k p (q.applyMove c f m) tp gp ts := by
  obtain ⟨t1, g1, ho, hts⟩ := h
  unfold State.applyMove
  simp only [hm]
  exact ⟨_, _, ho.onGroup (k' := 0) _ (fun _ => rfl) ⟨rfl, rfl⟩, hts⟩

theorem Stands.applyMoves (h : Stands c k p q tp gp ts) (f : From) {ms : List Move} (hm : ∀ m ∈ ms, m.put = none) :
    Stands c k p (ms.foldl (fun s m => s.applyMove c f m) q) tp gp ts := by
  induction ms generalizing q with
  | nil => exact h
  | cons m ms ih => exact ih (h.applyMove f (hm m (by simp))) fun m hmem => hm m (by simp [hmem])

end

theorem resolveTrailer_onward {c : Cur} {k : Nat} {p q : State} {tp t1 : Team} {gp g1 : Group} {ts : TSet} {kind : Nat} {x : TWord}
    (ho : Onward c k p q tp t1 gp g1) (hts : g1.tset? c.2.2 = some ts)
    (hm : ∀ l ∈ ts.lanes, laneMoves (q.kernelOf t1) (q.window t1 g1 ts ts.lanes) kind x l) :
    ∃ t2 g2, Onward c k p (q.resolveTrailer c kind x) tp t2 gp g2 := by
  have hpops : ∀ a ∈ (if kind = 6 then q.popAccs t1 (q.window t1 g1 ts ts.lanes) else []), a.parts = [] := by
    split
    · rename_i h6
      exact popAccs_parts fun l hl => ((hm l hl).2.2 h6).2
    · simp
  obtain ⟨ms, hms, hput⟩ := moves_ok (w := q.window t1 g1 ts ts.lanes) hm
  have hstands : Stands c k p q tp gp ts := ⟨t1, g1, ho, hts⟩
  unfold State.resolveTrailer
  simp only [ho.view hts, hms, movesHeld_false hpops hput, remoteParts_of_noParts hpops, countParts_of_noParts hpops, ne_eq,
    not_true_eq_false, false_and, if_false, Bool.false_eq_true]
  exact Stands.finishTrailer (Stands.onTset (hstands.applyMoves _ hput) _ fun _ => rfl)

/-! ### The commit (R51, R136) -/

/-- With no store waiting, every act is performed. -/
theorem performActs_all {s : State} {c : Cur} {held : List Held} (h : performable s c held) :
    s.performActs c held = (performAll s c held, []) := by
  induction held with
  | nil => rfl
  | cons a held ih =>
    obtain ⟨hperf, hwait⟩ := h
    have hcons : performAll s c (a :: held) = (performAll s c held).act c a := rfl
    rw [hcons]
    generalize performAll s c held = p at *
    unfold State.performActs
    simp only [ih hperf, ne_eq, not_true_eq_false, if_false]
    cases hv : p.view c with
    | none => simp [State.act, hv]
    | some v =>
      obtain ⟨t, g, ts⟩ := v
      simp [hwait t g ts hv]

/-- After the commit the group has what the acts left it, and one run more; its set has its lanes and its word. -/
structure Committed (c : Cur) (p q : State) (tp : Team) (gp : Group) (tsp : TSet) (t1 : Team) (g1 : Group) (ts1 : TSet) : Prop where
  onward : Onward c 1 p q tp t1 gp g1
  tset : g1.tset? c.2.2 = some ts1
  group : { g1 with tsets := gp.tsets, runs := gp.runs } = gp
  lanes : ts1.lanes = tsp.lanes
  pc : ts1.pc = tsp.pc
  gOv : ts1.gOv = tsp.gOv

theorem commitRun_committed {s : State} {c : Cur} {t : Team} {g : Group} {ts : TSet} (hv : s.view c = some (t, g, ts))
    (hperf : performable (s.applied t g ts) c ts.held) {tp : Team} {gp : Group} {tsp : TSet}
    (hp : (performAll (s.applied t g ts) c ts.held).view c = some (tp, gp, tsp)) :
    ∃ t1 g1 ts1, Committed c (performAll (s.applied t g ts) c ts.held) (s.commitRun c) tp gp tsp t1 g1 ts1 := by
  obtain ⟨htp, hgp, htsp⟩ := view_team hp
  obtain ⟨hid, -, -⟩ := view_ids hv
  have hrun : s.performRun c =
      (performAll (s.applied t g ts) c ts.held).onTset c fun x => { x with held := ts.held.filter Held.stays } := by
    have happlied : s.setTeam (t.setGroup ((g.applyRun ts).setTset ts.settled)) = s.applied t g ts := rfl
    simp only [State.performRun, hv, happlied, State.performHeld, performActs_all hperf, if_true]
  unfold State.commitRun
  simp only [hv, hrun, hid]
  generalize performAll (s.applied t g ts) c ts.held = p at *
  have h0 := (Onward.refl htp hgp).onTset fun x => { x with held := ts.held.filter Held.stays }
  have hs0 := tset?_mapTset (f := fun x => { x with held := ts.held.filter Held.stays }) htsp fun _ => rfl
  have h1 := h0.countRun t ts.hot
  have h2 := h1.onGroup (k' := 1) (fun g => { g with runs := g.runs + 1 }) (fun _ => rfl) ⟨rfl, rfl⟩
  have h3 := h2.onSlots (fun u => u.unprotect ts.prot1) fun _ => rfl
  exact ⟨_, _, _, Onward.onTset h3 _, tset?_mapTset hs0 fun _ => rfl, rfl, rfl, rfl, rfl⟩

end Sys2Proof.Machine
end

section
/-!
PROOFS. The commit of a run at a trailer (O15).
-/
namespace Sys2Proof.Machine

/-- A trailer is issued as its kind says. -/
theorem exec_trailer {i : Instr} {kind : Nat} {x : TWord} (h : trailerSpec i = some (kind, x)) (s : State) :
    exec i s = liftTrailer kind x s := by
  unfold trailerSpec at h
  split at h <;> cases h <;> rfl

theorem tset?_setTset {g : Group} {ts ts1 : TSet} (h : g.tset? ts1.id = some ts) : (g.setTset ts1).tset? ts1.id = some ts1 := by
  unfold Group.tset? at h
  simp only [Group.tset?, Group.setTset]
  rw [find_lreplace _ _ fun _ _ => by simp, h]
  rfl

/-- Registers applied: the group that commits. -/
def Group.committed (g : Group) (ts : TSet) : Group := (g.applyRun ts).setTset ts.settled

theorem committed_names {g : Group} {ts : TSet} : (g.committed ts).names = g.names := by
  refine (names_setTset (g.applyRun ts) ts.settled).trans ?_
  unfold Group.applyRun
  split <;> rfl

section
variable {s : State} {c : Cur} {t : Team} {g : Group} {ts : TSet}

theorem committed_index : (g.committed ts).index = g.index := congrArg Prod.fst committed_names

theorem applied_names (hv : s.view c = some (t, g, ts)) : (s.applied t g ts).names = s.names := by
  obtain ⟨ht, hg, -⟩ := view_team hv
  obtain ⟨-, hgi, -⟩ := view_ids hv
  have hgroup : t.group? (g.committed ts).index = some g := by rw [committed_index, hgi]; exact hg
  exact (setTeam_found_calm ht (names_setGroup hgroup committed_names)).names

theorem applied_view (hv : s.view c = some (t, g, ts)) :
    (s.applied t g ts).view c = some (t.setGroup (g.committed ts), g.committed ts, ts.settled) := by
  obtain ⟨ht, hg, hts⟩ := view_team hv
  obtain ⟨hid, hgi, hsi⟩ := view_ids hv
  have hi : (g.committed ts).index = c.2.1 := committed_index.trans hgi
  have hteam : (s.applied t g ts).team? c.1 = some (t.setGroup (g.committed ts)) := by
    rw [← hid] at ht ⊢
    exact team?_setTeam (t1 := t.setGroup (g.committed ts)) ht
  have hgroup : (t.setGroup (g.committed ts)).group? c.2.1 = some (g.committed ts) := by
    rw [← hi]
    exact group?_setGroup (by rw [hi]; exact hg)
  have hsets : (g.applyRun ts).tset? c.2.2 = some ts := by
    unfold Group.applyRun
    split <;> exact hts
  have hset : (g.committed ts).tset? c.2.2 = some ts.settled := by
    rw [← hsi] at hsets ⊢
    exact tset?_setTset (ts1 := ts.settled) hsets
  simp only [State.view, hteam, hgroup, hset]

/-- At a trailer, a run that can commit is committed, and its lanes move on (R51, R136). -/
theorem runTrailer_onward {x : TWord} (h : AtCommit s c t g ts x) {kind : Nat} {tp : Team} {gp : Group} {tsp : TSet}
    (hp : (performAll (s.applied t g ts) c ts.held).view c = some (tp, gp, tsp))
    (hm : ∀ l ∈ tsp.lanes, laneMoves ((performAll (s.applied t g ts) c ts.held).kernelOf tp)
      ((performAll (s.applied t g ts) c ts.held).window tp gp tsp tsp.lanes) kind x l) :
    ∃ t1 g1, Onward c 1 (performAll (s.applied t g ts) c ts.held) (s.runTrailer c kind x) tp t1 gp g1 := by
  have hv := h.issues.view
  obtain ⟨t1, g1, ts1, hc⟩ := commitRun_committed hv h.stores hp
  generalize performAll (s.applied t g ts) c ts.held = p at *
  have hv1 := hc.onward.view hc.tset
  unfold State.runTrailer
  simp only [hv, h.open_, placeRun_none hv h.placed, h.waits, h.faults, hv1, Bool.false_eq_true, if_false]
  split
  · refine resolveTrailer_onward hc.onward hc.tset fun l hl => ?_
    rw [hc.onward.kernelOf]
    have hgg : g1.g = gp.g := (congrArg Group.g hc.group :)
    refine laneMoves_congr (w := p.window tp gp tsp tsp.lanes) hc.pc (congrArg Group.p hc.group :) (congrArg Group.stk hc.group :)
      (congrArg Group.depth hc.group :) (src_congr h.reg (congrArg Group.v hc.group :) (fun n => ?_) l) (hm l (hc.lanes ▸ hl))
    show overlay (aget marker g1.g n) ts1.gOv n = overlay (aget marker gp.g n) tsp.gOv n
    rw [hgg, hc.gOv]
  · exact ⟨_, _, hc.onward.onTset _⟩

theorem exec_runTrailer {i : Instr} {kind : Nat} {x : TWord} (hi : trailerSpec i = some (kind, x)) (h : AtCommit s c t g ts x) :
    exec i s = .next (s.runTrailer c kind x) := by
  rw [exec_trailer hi]
  simp only [liftTrailer, h.issues.cur, h.issues.view]

end

theorem commitPerforms : Claim.CommitPerforms := by
  intro i kind x s c t g ts hi h
  dsimp only
  intro hm
  have hv := h.issues.view
  have hnames : (performAll (s.applied t g ts) c ts.held).names = s.names :=
    (performAll_leaves ..).names.trans (applied_names hv)
  obtain ⟨⟨tp, gp, tsp⟩, hp⟩ := view_of_names hnames (c := c) (by rw [hv]; exact Option.some_ne_none _)
  obtain ⟨t1, g1, ho⟩ := runTrailer_onward h hp (hm tp gp tsp hp)
  obtain ⟨htp, hgp, -⟩ := view_team hp
  exact ⟨_, t1, g1, tp, gp, exec_runTrailer hi h, ho.rest, htp, ho.team, ho.teamRest, ho.others, ho.groups, hgp, ho.group,
    ho.moved.rest⟩

/-! ### What the run wrote (R40, R77, R126, R141) -/

/-- A table under an overlay reads as the newest entry of the key, else as the table. -/
theorem aget_applyOv {α : Type} [DecidableEq α] (d : α) (m : AMap α) (ov : List (Nat × α)) (n : Nat) :
    aget d (applyOv d m ov) n = overlay (aget d m n) ov n := by
  induction ov with
  | nil => rfl
  | cons e ov ih =>
    have hcons : applyOv d m (e :: ov) = aset d (applyOv d m ov) e.1 e.2 := rfl
    rw [hcons, aget_aset]
    by_cases h : e.1 = n
    · simp [overlay, h]
    · rw [if_neg (Ne.symm h), ih]
      simp [overlay, h]

/-- A trailer with nothing held commits at once. -/
theorem AtTrailer.atCommit {s : State} {c : Cur} {t : Team} {g : Group} {ts : TSet} {x : TWord} (h : AtTrailer s c t g ts x) :
    AtCommit s c t g ts x where
  issues := h.issues
  open_ := h.open_
  placed := mustPlace_nil h.held
  waits := by simp [State.commitWait, h.held]
  faults := by simp [State.commitFault, h.held]
  stores := by rw [h.held]; trivial
  reg := h.reg

/-- What a run without a floating atomic leaves its group. -/
theorem committed_eq {g : Group} {ts : TSet} (hf : ts.floats = false) :
    g.committed ts = (({ g.noteTemps ts.temps with
      g := applyOv marker g.g ts.gOv
      ls := applyOv 32 g.ls ts.lsOv
      seed := ts.seedOv.getD g.seed
      recb := applyOv 0 g.recb ts.recOv
      uev := ts.profOv.foldr (fun e m => aset 0 m e.1 (aget 0 m e.1 + BitVec.ofNat 64 e.2)) g.uev } : Group).commitFlags
        ts.flWrite ts.fl g.slotAt).setTset ts.settled := by
  unfold Group.committed Group.applyRun
  simp only [hf, Bool.false_eq_true, if_false]

theorem commitApplies : Claim.CommitApplies := by
  intro i kind x s c t g ts hi h
  dsimp only
  intro hm
  have hv := h.issues.view
  have hc := h.atCommit
  have hp : performAll (s.applied t g ts) c ts.held = s.applied t g ts := by rw [h.held]; rfl
  have hgc := committed_eq (g := g) (ts := ts) (by simp [TSet.floats, h.held])
  have hgg : (g.committed ts).g = applyOv marker g.g ts.gOv := by rw [hgc]; rfl
  have hv1 := applied_view hv
  obtain ⟨t1, g1, ho⟩ := runTrailer_onward hc (kind := kind) (by rw [hp]; exact hv1) fun l hl => by
    rw [hp]
    refine laneMoves_congr (w := s.window t g ts ts.lanes) rfl ?_ ?_ ?_ (src_congr h.reg ?_ (fun n => ?_) l) (hm l hl)
    · show (g.committed ts).p = g.p
      rw [hgc]; rfl
    · show (g.committed ts).stk = g.stk
      rw [hgc]; rfl
    · show (g.committed ts).depth = g.depth
      rw [hgc]; rfl
    · show (g.committed ts).v = g.v
      rw [hgc]; rfl
    · show aget marker (g.committed ts).g n = overlay (aget marker g.g n) ts.gOv n
      rw [hgg, aget_applyOv]
  have hrest := ho.moved.rest
  refine ⟨_, t1, g1, exec_runTrailer hi hc, ho.team, ho.group, fun n => ?_, fun n hn => ?_, ?_, ?_, ?_⟩
  · rw [show g1.g = (g.committed ts).g from (congrArg Group.g hrest :), hgg, aget_applyOv]
    rfl
  · rw [show g1.ls = (g.committed ts).ls from (congrArg Group.ls hrest :), hgc]
    refine (aget_applyOv ..).trans ?_
    unfold W.lsRead
    rw [if_neg hn]
    rfl
  · rw [show g1.fflg = (g.committed ts).fflg from (congrArg Group.fflg hrest :), hgc]
    rfl
  · rw [show g1.seed = (g.committed ts).seed from (congrArg Group.seed hrest :), hgc]
    rfl
  · rw [ho.moved.runs, hgc]
    rfl

/-- Settles O15: the registers and the performed acts by one relation of states in which only the set's own group moves on
(`Onward`), the stores by what each act leaves of memory (`act_leaves`), and each act by its own equation. -/
theorem commitAppliesTheRun : Obligations.CommitAppliesTheRun := ⟨commitApplies, commitPerforms, heldStoresLand, heldActs⟩

end Sys2Proof.Machine
end

section
/-!
PROOFS. The reset state (O60): its tables are empty, so every entry is the default one, and its firmware is not yet up, so the first
step boots.
-/
namespace Sys2Proof.Machine

/-- Time passes without bringing the firmware up. -/
theorem tick_fw (s : State) : s.tick.fw = s.fw := rfl

theorem tick_pwr (s : State) : s.tick.pwr = s.pwr := rfl

/-- A step with the firmware not yet up, of a module that is not shut down, boots. -/
theorem step_of_boot {s : State} (hfw : s.fw.state = 0) (hoff : s.pwr.off = false) : step s = exec .packageReset s.tick := by
  unfold step State.act1
  rw [tick_fw, tick_pwr, if_pos ⟨hfw, by rw [hoff]; rfl⟩]

/-- Settles O60. -/
theorem resetStateIsIdle : Obligations.ResetStateIsIdle :=
  ⟨rfl, fun _ => rfl, fun _ => rfl, fun _ => rfl, rfl, rfl, rfl, rfl, step_of_boot rfl rfl⟩

end Sys2Proof.Machine
end

section
/-!
PROOFS. Status words (O8): a check that may fault, then one write of a destination from state that the word leaves as it is.
-/
namespace Sys2Proof.Machine

section
variable {s s1 : State} {c : Cur} {t : Team} {g g1 : Group} {ts ts1 : TSet} {i : Instr} {grd : BitVec 4}
  {chk : W → Option FInfo} {upd : W → W} {eff : State → Team → W → Eff} {o : Opd}

/-- The counter of free values is no part of what a word changes. -/
theorem OnlyGroup.setFree (h : OnlyGroup s s1 c t g g1 ts1) (n : Nat) : OnlyGroup s { s1 with free := n } c t g g1 ts1 :=
  ⟨h.here, h.sets, h.others, h.rest⟩

/-- The word `i` checks its window, in which `sr.clk` reads the time, then does `upd` to it, and takes free values at most. -/
def CheckedWord (s : State) (t : Team) (i : Instr) (grd : BitVec 4) (chk : W → Option FInfo) (upd : W → W) : Prop :=
  ∃ eff n, exec i s = liftWord grd eff s ∧
    ∀ w : W, w.env.clk = s.clk → eff s t w = match chk w with | some f => .err f | none => .go { s with free := n } (upd w)

/-- A checked word whose check fails takes the fault. -/
theorem CheckedWord.fault (hi : CheckedWord s t i grd chk upd) (h : Issues s c t g ts) (ha : activeLanes g ts grd ≠ [])
    {f : FInfo} (hf : chk (s.wordWindow t g ts grd) = some f) : exec i s = .next (s.faultAt c ts.pc f) := by
  obtain ⟨eff, n, hexec, heff⟩ := hi
  rw [hexec]
  exact liftWord_err h ha (by rw [heff _ rfl, hf])

/-- A checked word whose check passes ends as one that does `upd` and takes no free value. -/
theorem CheckedWord.done (hi : CheckedWord s t i grd chk upd) (h : Issues s c t g ts) (ha : activeLanes g ts grd ≠ [])
    (hc : chk (s.wordWindow t g ts grd) = none) {P : W → W → Prop}
    (hupd : ∃ s1 g1 ts1, liftWord grd (fun s _ w => .go s (upd w)) s = .next s1 ∧ OnlyGroup s s1 c t g g1 ts1 ∧ Advanced ts ts1 ∧
      P (s.wordWindow t g ts grd) { s.wordWindow t g ts grd with grp := g1, ts := ts1 }) :
    Completes i s c t g ts grd P := by
  obtain ⟨eff, n, hexec, heff⟩ := hi
  obtain ⟨s1, g1, ts1, hnext, honly, hadv, hP⟩ := hupd
  rw [liftWord_eq h, if_neg ha] at hnext
  have hi : exec i s = .next { s1 with free := Nat.max n (upd (s.wordWindow t g ts grd)).free } := by
    rw [hexec, liftWord_eq h, if_neg ha, heff _ rfl, hc, ← Host.Outcome.next.inj hnext]
    rfl
  exact ⟨_, g1, ts1, hi, honly.setFree _, hadv, hP⟩

/-- The write of a register word: its destination and its flags. -/
def RegSpec.put (e : RegSpec) (w : W) : W := (w.dst e.dst (e.val w)).raise (e.fl w)

/-- The write of a predicate word. -/
def PredSpec.put (e : PredSpec) (w : W) : W := (w.dstPred e.dst (e.val w)).raise (e.fl w)

/-- A check before the write of a register destination, without flags. -/
theorem checkedWord_dst {val : W → Nat → Reg} (n : Nat) (hi : exec i s = liftWord grd eff s)
    (he : ∀ w : W, w.env.clk = s.clk → eff s t w = match chk w with | some f => .err f | none => .go { s with free := n } (w.dst o (val w))) :
    CheckedWord s t i grd chk (RegSpec.put { grd := grd, dst := o, val := val }) :=
  ⟨eff, n, hi, fun w hw => by rw [he w hw, RegSpec.put, W.raise_zero]⟩

/-- A check before the write of a predicate destination, without flags. -/
theorem checkedWord_dstPred {val : W → Nat → Bool} (n : Nat) (hi : exec i s = liftWord grd eff s)
    (he : ∀ w : W, w.env.clk = s.clk → eff s t w = match chk w with | some f => .err f | none => .go { s with free := n } (w.dstPred o (val w))) :
    CheckedWord s t i grd chk (PredSpec.put { grd := grd, dst := o, val := val }) :=
  ⟨eff, n, hi, fun w hw => by rw [he w hw, PredSpec.put, W.raise_zero]⟩

end

/-! ### The arms of the status words -/

section
variable (x : RWord) (s : State)

theorem exec_rdsr : exec (.rdsr x) s = execRdsr x s := rfl
theorem exec_clk : exec (.clk x) s = execClk x s := rfl
theorem exec_cpst : exec (.cpst x) s = execCpst x s := rfl
theorem exec_ffst : exec (.ffst x) s = execFfst x s := rfl
theorem exec_mxst : exec (.mxst x) s = execMxst x s := rfl
theorem exec_nst : exec (.nst x) s = execNst x s := rfl
theorem exec_ncc : exec (.ncc x) s = execNcc x s := rfl
theorem exec_tmask : exec (.tmask x) s = execTmask x s := rfl
theorem exec_acld : exec (.acld x) s = execAcld x s := rfl
theorem exec_sigt : exec (.sigt x) s = execSigt x s := rfl
theorem exec_fcmp : exec (.fcmp x) s = regWord x.grd (fcmpBody x) s := rfl
theorem exec_ttst : exec (.ttst x) s = execTtst x s := rfl
theorem exec_acflg : exec (.acflg x) s = execAcflg x s := rfl

end

/-! ### Every status word is a check and one write -/

section
variable {s : State} {t : Team} {i : Instr} {chk : W → Option FInfo}

/-- The words with a register destination. -/
theorem checkedWord_of_statusSpec {e : RegSpec} (h : statusSpec s t i = some (e, chk)) : CheckedWord s t i e.grd chk e.put := by
  cases i <;> simp only [statusSpec, reduceCtorEq] at h
  case rdsr x => cases h; exact checkedWord_dst s.free (exec_rdsr x s) fun _ _ => rfl
  case clk x =>
    cases h
    exact checkedWord_dst s.free (exec_clk x s) fun w hw =>
      congrArg (fun k => Eff.go s (w.dst x.dst fun _ => BitVec.ofNat 64 k)) hw
  case cpst x => cases h; exact checkedWord_dst s.free (exec_cpst x s) fun _ _ => rfl
  case ffst x => cases h; exact checkedWord_dst s.free (exec_ffst x s) fun _ _ => rfl
  case mxst x => cases h; exact checkedWord_dst s.free (exec_mxst x s) fun _ _ => rfl
  case nst x => cases h; exact checkedWord_dst s.free (exec_nst x s) fun _ _ => rfl
  case ncc x =>
    cases h
    refine checkedWord_dst s.free (exec_ncc x s) fun w _ => ?_
    cases s.badHandle t w x <;> rfl
  case tmask x =>
    cases h
    refine checkedWord_dst s.free (exec_tmask x s) fun w _ => ?_
    by_cases hovr : x.mod.getLsbD 0 = true
    · simp only [hovr, if_true]
    · cases s.scratchCheck t w 1 (w.addrR x) <;> simp only [hovr, if_false, Bool.false_eq_true]
  case acld x =>
    cases h
    refine checkedWord_dst (s.free + 1) (exec_acld x s) fun w _ => ?_
    cases w.accFault x.typ x.sb <;> rfl
  case sigt x =>
    split at h <;> rename_i hzero <;> cases h
    refine checkedWord_dst s.free (exec_sigt x s) fun w _ => ?_
    simp only [hzero, if_false, Bool.false_eq_true]

/-- The words with a predicate destination. -/
theorem checkedWord_of_statusPredSpec {e : PredSpec} (h : statusPredSpec s t i = some (e, chk)) :
    CheckedWord s t i e.grd chk e.put := by
  cases i <;> simp only [statusPredSpec, reduceCtorEq] at h
  case fcmp x =>
    cases h
    refine ⟨_, s.free, exec_fcmp x s, fun w _ => ?_⟩
    cases hm : w.markCheck (srcs2 x) with
    | none => simp only [fcmpBody, markedBody_none hm, hm]; rfl
    | some f => simp only [fcmpBody, markedBody_some hm, hm]
  case ttst x =>
    cases h
    refine checkedWord_dstPred s.free (exec_ttst x s) fun w _ => ?_
    cases s.scratchCheck t w 1 (w.addrR x) <;> rfl
  case sigt x =>
    split at h <;> rename_i hzero <;> cases h
    refine checkedWord_dstPred s.free (exec_sigt x s) fun w _ => ?_
    simp only [hzero, if_true]

end

theorem statusRegisters : Claim.StatusRegisters := by
  intro i e chk s c t g ts hspec hissues hact
  have hword := checkedWord_of_statusSpec hspec
  exact ⟨fun hc => hword.done hissues hact hc (word_dst hissues hact rfl), fun f hf => hword.fault hissues hact hf⟩

theorem statusPredicates : Claim.StatusPredicates := by
  intro i e chk s c t g ts hspec hissues hact
  have hword := checkedWord_of_statusPredSpec hspec
  exact ⟨fun hc => hword.done hissues hact hc (word_dstPred hissues hact rfl), fun f hf => hword.fault hissues hact hf⟩

/-- `acflg` writes its destination in front of the act that clears what it read. -/
theorem accumulatorFlags : Claim.AccumulatorFlags := by
  intro x s c t g ts hissues hact fl
  have hr := dst_rest (s.wordWindow t g ts x.grd) x.dst fun _ => BitVec.ofNat 64 fl
  have hw := dst_wrote (s.wordWindow t g ts x.grd) x.dst fun _ => BitVec.ofNat 64 fl
  obtain ⟨eff, hexec, heff⟩ : ∃ eff, exec (.acflg x) s = liftWord x.grd eff s ∧ eff s t (s.wordWindow t g ts x.grd) =
      .go s (((s.wordWindow t g ts x.grd).dst x.dst fun _ => BitVec.ofNat 64 fl).hold (.acflg (accNo x.sa) fl)) :=
    ⟨_, exec_acflg x s, rfl⟩
  obtain ⟨s1, hnext, honly⟩ := liftWord_window hissues hact heff
    (by rw [W.hold_grp, hr]; rfl) (by rw [W.hold_grp, hr]; rfl)
    (by show ((s.wordWindow t g ts x.grd).dst x.dst _).ts.id = ts.id; rw [hr]; rfl)
  refine ⟨s1, _, _, hexec.trans hnext, honly, advanced_advance _ _ _ ?_,
    ⟨hw.lane, hw.laneOther, hw.uniform, hw.uniformOther, hw.temp, hw.tempOther, hw.group⟩, ?_, ?_, ?_⟩ <;>
    rw [hr]
  · rfl
  · rfl
  · rfl
  · exact ⟨rfl, rfl, rfl, rfl, rfl, rfl, rfl, rfl⟩

/-- Settles O8: every status word is a check before one write (`CheckedWord`), and `acflg` a write in front of one act. -/
theorem statusWordsComplete : Obligations.StatusWordsComplete := ⟨statusRegisters, statusPredicates, accumulatorFlags⟩

end Sys2Proof.Machine
end

section
/-!
PROOFS. Traps, debug stops and the swap-out of teams (O18, O23, O30) do not hold as they are stated, each for one state that the
statement leaves in: a thread set that is to end once its held stores are performed (R203), which no debugger stops, and a team that
has not yet told its gang that it leaves (R135). The states are those of the tests,
the first two with that field set.
-/
namespace Sys2Proof.Machine
open Sys2Proof.Tests

/-- The current set of a state, seen by a test, is one that stands there and passes the test. -/
theorem exists_view_of_here {s : State} {c : Cur} {p : Team → Group → TSet → Bool} (hc : s.cur = some c) (h : here s p = true) :
    ∃ t g ts, s.view c = some (t, g, ts) ∧ p t g ts = true := by
  simp only [here, hc] at h
  split at h
  · cases h
  · exact ⟨_, _, _, ‹_›, h⟩

/-- A test that the set of every test passes after an instruction tells that it stands in the next state and passes it there. -/
theorem exists_view_of_after {s s1 : State} {i : Instr} {p : Team → Group → TSet → Bool} (h : after i s p = true)
    (hs : exec i s = .next s1) : ∃ t g ts, s1.view c0 = some (t, g, ts) ∧ p t g ts = true := by
  simp only [after, hs] at h
  split at h
  · cases h
  · exact ⟨_, _, _, ‹_›, h⟩

/-- What stands in the next state in the place of the set of every test is what the test saw. -/
theorem of_after {s s1 : State} {i : Instr} {p : Team → Group → TSet → Bool} {t : Team} {g : Group} {ts : TSet}
    (h : after i s p = true) (hs : exec i s = .next s1) (hv : s1.view c0 = some (t, g, ts)) : p t g ts = true := by
  obtain ⟨t2, g2, ts2, hv2, hp⟩ := exists_view_of_after h hs
  cases hv.symm.trans hv2
  exact hp

/-- A thread set that ends once its held stores are performed, in a context with a debugger. -/
def dyingUnderDebugger : State := withSet (fun ts => { ts with dying := true }) (debugged base)

/-- Refutes O18: `brk` under a debugger does not stop a set that is dying (R203), which goes on at its next word. -/
theorem not_trapsAndBreaks : ¬ Obligations.TrapsAndBreaks := by
  rintro ⟨-, -, hbrk⟩
  obtain ⟨t, g, ts, hv, hp⟩ := exists_view_of_here (s := dyingUnderDebugger) (c := c0) rfl
    (p := fun t g ts => activeLanes g ts blankI.grd != [] && dyingUnderDebugger.attached (dyingUnderDebugger.ctxOf t) && ts.held == [] &&
      !ts.stop && g.tsets == [ts]) (by decide +kernel)
  simp only [Bool.and_eq_true, bne_iff_ne, beq_iff_eq, Bool.not_eq_true'] at hp
  obtain ⟨⟨⟨⟨hact, hatt⟩, hheld⟩, hstop⟩, hsets⟩ := hp
  obtain ⟨s1, t1, g1, ts1, hexec, hv1, hstop1, -⟩ := hbrk blankI _ c0 t g ts ⟨rfl, hv⟩ hact hatt hheld hstop hsets
  have hgoes : after (.brk blankI) dyingUnderDebugger (fun _ _ ts => !ts.stop) = true := by decide +kernel
  simpa [hstop1] using of_after hgoes hexec hv1

/-- A thread set that ends once its held stores are performed, before a word whose DBG bit is set. -/
def dyingAtBreakpoint : State := withSet (fun ts => { ts with dying := true }) breaking

/-- Refutes O23: DEBUG_STOP leaves a set that is dying (R203) as it is, even before a word whose DBG bit is set. -/
theorem not_faultAndDebugEventsComplete : ¬ Obligations.FaultAndDebugEventsComplete := by
  rintro ⟨-, -, -, hstop⟩
  obtain ⟨t, g, ts, hv, hp⟩ := exists_view_of_here (s := dyingAtBreakpoint) (c := c0) rfl
    (p := fun t g ts => ts.phase == .ready && !ts.stop && ts.resumed == none && ts.issued == none && ts.stopNext == 0 && ts.held == [] &&
      dyingAtBreakpoint.attached (dyingAtBreakpoint.ctxOf t) && (dyingAtBreakpoint.kernelOf t).dbg.contains ts.pc &&
      (dyingAtBreakpoint.kernelOf t).text[ts.pc]? == some 0x50000000000000000000000000000000 && activeLanes g ts 0 != [] && g.tsets == [ts])
    (by decide +kernel)
  simp only [Bool.and_eq_true, bne_iff_ne, beq_iff_eq, Bool.not_eq_true'] at hp
  obtain ⟨⟨⟨⟨⟨⟨⟨⟨⟨⟨hphase, hns⟩, hres⟩, hiss⟩, hnext⟩, hheld⟩, hatt⟩, hdbg⟩, htext⟩, hact⟩, hsets⟩ := hp
  obtain ⟨s1, t1, g1, ts1, hexec, hv1, hstop1, -⟩ := hstop dyingAtBreakpoint c0 t g ts _ hv hphase hns (by simp [hres]) (by simp [hiss]) hnext
    hheld hatt hdbg htext (by decide +kernel) hact hsets
  have hgoes : after (.debugStop 2 0 0) dyingAtBreakpoint (fun _ _ ts => !ts.stop) = true := by decide +kernel
  simpa [hstop1] using of_after hgoes hexec hv1

/-- Refutes O30: the first TEAM_SWAP_OUT of a quiet team only records that it leaves, even of a gang of one, since the gang's members
are asked as they stood before; the team is still on its cores. -/
theorem not_teamsSwapRetireAndCancel : ¬ Obligations.TeamsSwapRetireAndCancel := by
  rintro ⟨⟨-, hswap, -⟩, -⟩
  obtain ⟨t, g, ts, hv, hp⟩ := exists_view_of_here (s := leaving) (c := c0) rfl
    (p := fun t g ts => (match leaving.launch? t.launch with
      | some l => l.kernel.gang == 0 && decide (l.kernel.imageBytes ≤ leaving.swapRoom l.ctx)
      | none => false) && leaving.team? t.id == some t && t.groups == [g] && g.tsets == [ts] && ts.phase == .ready && ts.fresh &&
      (t.cores.all fun c => (leaving.core c).wc == []) && leaving.cmds == [] && t.wantSwap) (by decide +kernel)
  simp only [Bool.and_eq_true, beq_iff_eq, List.all_eq_true] at hp
  obtain ⟨⟨⟨⟨⟨⟨⟨⟨hlaunch, hteam⟩, hgroups⟩, hsets⟩, hphase⟩, hfresh⟩, hwc⟩, hcmds⟩, hwant⟩ := hp
  split at hlaunch
  · rename_i l hl
    simp only [Bool.and_eq_true, beq_iff_eq, decide_eq_true_eq] at hlaunch
    have hquiet : Quiet leaving t l :=
      { here := hteam, launch := hl, alone := hlaunch.1, buffers := hwc,
        sets := by simp [hgroups, hsets, hphase, hfresh]
        copies := by simp [hcmds] }
    obtain ⟨s1, u, hexec, hu, hout, -⟩ := hswap leaving t l hquiet hwant hlaunch.2
    have hid : t.id = 2 := (view_ids hv).1
    obtain ⟨u1, g1, ts1, hv1, hin⟩ := exists_view_of_after (show after (.teamSwapOut 2) leaving (fun t _ _ => t.resident) = true by
      decide +kernel) (hid ▸ hexec)
    have huv : u1 = u := Option.some.inj ((view_team hv1).1.symm.trans (by rw [← hu, hid, c0]))
    simp [huv, hout] at hin
  · cases hlaunch

end Sys2Proof.Machine
end

section
/-!
PROOFS. The driver's queue registers (O28). The one write that reaches memory is that of a halt cause owed: its translation may set a
leaf's A and D bits, and changes nothing else where it finds a place.
-/
namespace Sys2Proof.Machine

/-! ### A translation that finds its place -/

/-- Only memory and its write log differ. -/
def MemoryOnly (s t : State) : Prop := { t with mem := s.mem, badBytes := s.badBytes, wlog := s.wlog, wseq := s.wseq } = s

theorem MemoryOnly.refl (s : State) : MemoryOnly s s := rfl

theorem MemoryOnly.queues {s t : State} (h : MemoryOnly s t) : t.queues = s.queues := (congrArg State.queues h :)

theorem setAd_memoryOnly (s : State) (a p kind : Nat) : MemoryOnly s (s.setAd a p kind) := by
  unfold State.setAd
  split
  · exact .refl s
  · rfl

/-- A device's access that reaches a place has changed memory at most. -/
theorem devPlace_memoryOnly {s s0 : State} {ctx va kind n pa : Nat} (h : s.devPlace ctx va kind n = (s0, .at pa)) : MemoryOnly s s0 := by
  unfold State.devPlace at h
  split at h
  · cases h
  · split at h
    · cases h
    · cases h
    · cases h
    · dsimp only at h
      split at h
      · cases h
      · split at h
        · cases h
        · split at h
          · cases h
          · cases h
            exact setAd_memoryOnly ..

theorem cxPlace_memoryOnly {s s0 : State} {m ctx va kind n pa : Nat} (h : s.cxPlace m ctx va kind n = (s0, .at pa)) :
    MemoryOnly s s0 := by
  unfold State.cxPlace at h
  split at h
  · cases h
  · dsimp only at h
    split at h
    · split at h
      · exact devPlace_memoryOnly h
      · cases h
    · exact devPlace_memoryOnly h

theorem queuePlace_memoryOnly {s s0 : State} {core q va kind pa : Nat} (h : s.queuePlace core q va kind = (s0, .at pa)) :
    MemoryOnly s s0 := by
  unfold State.queuePlace at h
  dsimp only at h
  split at h
  · cases h
  · exact cxPlace_memoryOnly h

/-! ### A queue's write after its translation -/

theorem OnlyQueue.putNat {s t : State} {q : Nat} (h : OnlyQueue s t q) (pa n v : Nat) : OnlyQueue s (t.putNat pa n v) q := h

theorem OnlyQueue.setQueue {s t : State} {q : Nat} (h : OnlyQueue s t q) (x : Queue) : OnlyQueue s (t.setQueue q x) q :=
  ⟨h.1, fun r hr => by rw [State.queue_setQueue, if_neg hr, h.2 r hr]⟩

theorem OnlyQueue.memoryOnly {s t u : State} {q : Nat} (h : OnlyQueue s t q) (hu : MemoryOnly t u) : OnlyQueue s u q := by
  obtain ⟨hrest, hqueues⟩ := h
  have hq : ∀ r, u.queue r = t.queue r := fun r => by unfold State.queue; rw [hu.queues]
  refine ⟨?_, fun r hr => (hq r).trans (hqueues r hr)⟩
  rw [← hu] at hrest
  exact hrest

/-- A halt cause that a queue owes is written where its core reaches the wake page. -/
theorem writeErr_at {s s0 : State} {q v pa : Nat} (howed : (s.queue q).errOwed = some v) (hpaused : (s.queue q).paused = none)
    (hplace : QueueAt s q ((s.queue q).wakeVa 0x180) 1 s0 pa) :
    s.writeErr q = (s0.setQueue q { s.queue q with errOwed := none }).putNat pa 8 v := by
  have hq : s0.queue q = s.queue q := by unfold State.queue; rw [(queuePlace_memoryOnly hplace).queues]
  unfold QueueAt at hplace
  simp only [State.writeErr, howed, hpaused, hplace, hq]
  rfl

/-! ### The head of a fault ring -/

/-- A ring's head moves to a place between it and the tail. -/
theorem ringHead_within {head tail v : BitVec 32} (h : (v - head).toNat ≤ (tail - head).toNat) : ringHead head tail v = v := if_pos h

theorem ringHead_beyond {head tail v : BitVec 32} (h : head.toNat ≤ tail.toNat) (hv : tail.toNat < v.toNat) :
    ringHead head tail v = tail := by
  have hfar : ¬(v - head).toNat ≤ (tail - head).toNat := by bv_omega
  rw [ringHead, if_neg hfar, if_pos ⟨h, hv⟩]

theorem ringHead_below {head tail v : BitVec 32} (h : head.toNat ≤ tail.toNat) (hv : v.toNat < head.toNat) :
    ringHead head tail v = head := by
  have hfar : ¬(v - head).toNat ≤ (tail - head).toNat := by bv_omega
  rw [ringHead, if_neg hfar, if_neg fun hb => by omega]

theorem exec_faultRingHeadWrite (v : BitVec 32) (s : State) :
    exec (.faultRingHeadWrite v) s = .next (s.setCtx s.cxq.csel { s.ctx s.cxq.csel with
      fhead := ringHead (s.ctx s.cxq.csel).fhead (s.ctx s.cxq.csel).ftail v }) := rfl

/-! ### Enabling and disabling -/

section
variable {s : State} {v : BitVec 64}

theorem exec_queueEnable_ok (hen : v.getLsbD 0 = true) (hstate : (s.queue s.cxq.qsel).state = 0)
    (hring : (s.queue s.cxq.qsel).ringOk = true) :
    exec (.queueEnable v) s = .next (s.setQueue s.cxq.qsel { s.queue s.cxq.qsel with
      ctx := fieldOf v.toNat 8 6, pri := fieldOf v.toNat 4 2, state := 1, en := true, wake := true, lost := [] }) := by
  show execQueueEnable v s = _
  have hcfg : ∀ x : Queue, x.state = 0 → x.configure v.toNat = { x with ctx := fieldOf v.toNat 8 6, pri := fieldOf v.toNat 4 2 } :=
    fun x hx => if_pos hx
  simp only [execQueueEnable, hcfg _ hstate, hen, hstate]
  rw [if_neg (by simp)]
  exact if_pos hring

theorem exec_queueEnable_busy (hstate : (s.queue s.cxq.qsel).state ≠ 0) : exec (.queueEnable v) s = .next s := by
  show execQueueEnable v s = _
  have hcfg : (s.queue s.cxq.qsel).configure v.toNat = s.queue s.cxq.qsel := if_neg hstate
  simp only [execQueueEnable, hcfg]
  rw [if_pos (Or.inr hstate)]

theorem exec_queueDisable_enabled (hen : v.getLsbD 0 = false) (hstate : (s.queue s.cxq.qsel).state = 1) :
    exec (.queueDisable v) s = .next (s.setQueue s.cxq.qsel { s.queue s.cxq.qsel with state := 0, en := false }) := by
  show execQueueDisable v s = _
  simp only [execQueueDisable, hen, hstate]
  rfl

theorem exec_queueDisable_halted (hen : v.getLsbD 0 = false) (hstate : (s.queue s.cxq.qsel).state = 2) :
    exec (.queueDisable v) s = .next ((s.setQueue s.cxq.qsel { s.queue s.cxq.qsel with
      state := 0, en := false, err := 0, errOwed := some 0 }).writeErr s.cxq.qsel) := by
  show execQueueDisable v s = _
  simp only [execQueueDisable, hen, hstate]
  rfl

end

/-- Settles O28: the head by its place between HEAD and TAIL, a halted queue's disable by the write of the cause it owes
(`writeErr_at`). -/
theorem queueRegistersComplete : Obligations.QueueRegistersComplete := by
  intro s n c q x
  refine ⟨fun v hv => ?_, fun v hle hv => ?_, fun v hle hv => ?_, fun v hen hstate hlo hhi halign => ?_,
    fun v _ hstate => exec_queueEnable_busy hstate, fun v => exec_queueDisable_enabled, fun v s0 pa hen hstate hpaused hplace => ?_⟩
  · rw [exec_faultRingHeadWrite, ringHead_within hv]
  · rw [exec_faultRingHeadWrite, ringHead_beyond hle hv]
  · rw [exec_faultRingHeadWrite, ringHead_below hle hv]
  · exact exec_queueEnable_ok hen hstate (by simp [Queue.ringOk, x, q] at *; omega)
  · have hq := State.queue_setQueue_same s q { x with state := 0, en := false, err := 0, errOwed := some 0 }
    have hwrite := writeErr_at (q := q) (v := 0) (pa := pa) (s0 := s0) (by rw [hq]) (by rw [hq]; exact hpaused) (by rw [hq]; exact hplace)
    refine ⟨_, (exec_queueDisable_halted hen hstate).trans (congrArg _ hwrite), ?_, readBytes_putNat .., ?_⟩
    · rw [hq]
      exact State.queue_setQueue_same ..
    · have hself : OnlyQueue s s q := ⟨rfl, fun _ _ => rfl⟩
      exact (((hself.setQueue _).memoryOnly (queuePlace_memoryOnly hplace)).setQueue _).putNat ..

end Sys2Proof.Machine
end

section
/-!
PROOFS. Contexts (O27): their commands one by one, then the three events of their end. Each of these folds one step over a list: the
drain and the reclaim set entries of a table, the destroy of keys drops bytes of memory.
-/
namespace Sys2Proof.Machine

/-! ### Sparse tables under folds -/

section
variable {α : Type} (d : α)

/-- A table kept at the keys of a test reads as the default at the others. -/
theorem aget_akeep (p : Nat → Bool) (m : AMap α) (k : Nat) : aget d (akeep p m) k = if p k = true then aget d m k else d := by
  induction m with
  | nil => simp [akeep, aget]
  | cons e m ih =>
    obtain ⟨j, v⟩ := e
    unfold akeep at ih ⊢
    by_cases hj : p j = true
    · simp only [List.filter_cons, hj, if_true, aget, ih]
      by_cases hk : k = j
      · simp [hk, hj]
      · simp [hk]
    · simp only [List.filter_cons, hj, if_false, ih, aget, Bool.false_eq_true]
      by_cases hk : k = j
      · simp [hk, hj]
      · simp [hk]

/-- A key that is not listed reads as the default. -/
theorem aget_of_forall_ne {m : AMap α} {k : Nat} (h : ∀ e ∈ m, e.1 ≠ k) : aget d m k = d := by
  induction m with
  | nil => rfl
  | cons e m ih =>
    obtain ⟨j, v⟩ := e
    have hj : k ≠ j := fun hk => h (j, v) List.mem_cons_self hk.symm
    rw [aget, if_neg hj]
    exact ih fun e he => h e (List.mem_cons_of_mem _ he)

variable [DecidableEq α]

/-- The keys of a canonical table are above their bound. -/
theorem lt_of_awfFrom {m : AMap α} {b : Nat} (h : awfFrom d (some b) m = true) : ∀ e ∈ m, b < e.1 := by
  induction m generalizing b with
  | nil => simp
  | cons e m ih =>
    obtain ⟨j, v⟩ := e
    simp only [awfFrom, Bool.and_eq_true, decide_eq_true_eq] at h
    obtain ⟨⟨hb, -⟩, hm⟩ := h
    intro e he
    rcases List.mem_cons.1 he with rfl | he
    · exact hb
    · exact hb.trans (ih hm e he)

/-- An entry of a canonical table is what the table reads at its key. -/
theorem aget_of_mem_awfFrom {m : AMap α} {lo : Option Nat} (h : awfFrom d lo m = true) {e : Nat × α} (he : e ∈ m) :
    aget d m e.1 = e.2 := by
  induction m generalizing lo with
  | nil => simp at he
  | cons f m ih =>
    obtain ⟨j, v⟩ := f
    simp only [awfFrom, Bool.and_eq_true] at h
    obtain ⟨-, hm⟩ := h
    rcases List.mem_cons.1 he with rfl | he
    · simp [aget]
    · rw [aget, if_neg (Nat.ne_of_gt (lt_of_awfFrom d hm e he)), ih hm he]

/-- Entries set one after another from a list of keys, each to what its key gives. -/
theorem aget_foldl_aset (ks : List Nat) (f : Nat → α) (m : AMap α) (j : Nat) :
    aget d (ks.foldl (fun m k => aset d m k (f k)) m) j = if j ∈ ks then f j else aget d m j := by
  induction ks generalizing m with
  | nil => simp
  | cons k ks ih =>
    rw [List.foldl_cons, ih, aget_aset]
    by_cases hj : j = k
    · simp [hj]
    · simp [hj]

/-- Each entry of a canonical table whose key passes a test replaced: a key that is not listed may be thought replaced too, if the
default stays. -/
theorem aget_foldl_update {m : AMap α} (hm : awf d m = true) (p : Nat → Prop) [DecidablePred p] (f : α → α) (hf : f d = d) (j : Nat) :
    aget d (m.foldl (fun m e => if p e.1 then aset d m e.1 (f e.2) else m) m) j =
      if p j then f (aget d m j) else aget d m j := by
  have hkeys : m.foldl (fun m e => if p e.1 then aset d m e.1 (f e.2) else m) m =
      ((m.map (·.1)).filter (fun k => decide (p k))).foldl (fun n k => aset d n k (f (aget d m k))) m := by
    rw [List.foldl_filter, List.foldl_map]
    refine List.foldl_ext _ _ _ fun n e he => ?_
    simp only [decide_eq_true_eq, aget_of_mem_awfFrom d hm he]
  rw [hkeys, aget_foldl_aset]
  by_cases hp : p j
  · by_cases hj : ∃ e ∈ m, e.1 = j
    · obtain ⟨e, he, rfl⟩ := hj
      simp only [hp, if_true]
      rw [if_pos (List.mem_filter.2 ⟨List.mem_map_of_mem he, by simpa using hp⟩)]
    · have hne : ∀ e ∈ m, e.1 ≠ j := fun e he hej => hj ⟨e, he, hej⟩
      simp only [aget_of_forall_ne d hne, hf, ite_self]
  · simp [hp]

end

/-! ### Commands -/

theorem contextCommands : Claim.ContextCommands := by
  intro s n c res
  refine ⟨fun h => if_pos h, fun h0 hbad => ?_, fun h0 hkeys hfree hlo hhi hlen => ?_, fun h => if_pos h, fun h1 hroot => ?_,
    fun h1 hroot => ?_, fun h => if_pos h, fun h2 => ?_, fun h => if_pos h, fun h3 => ?_, fun h => if_pos h, fun h4 => ?_,
    fun m h3 hbusy hout => ?_⟩
  · refine (if_neg (not_not.2 h0)).trans (if_pos ?_)
    simp only [Bool.not_eq_true', Ctx.ringSet, Ctx.swapSet, Bool.and_eq_false_iff, decide_eq_false_iff_not, bne_eq_false_iff_eq]
    simp only [not_and_or] at hbad
    exact hbad
  · refine (if_neg (not_not.2 h0)).trans (if_neg ?_)
    have hring : c.ringSet = true := by simp [Ctx.ringSet, hlo, hhi]
    have hswap : c.swapSet = true := by simp [Ctx.swapSet, hlen]
    simpa [hfree] using ⟨hkeys, hring, hswap⟩
  · exact (if_neg (not_not.2 h1)).trans (if_pos (by rw [hroot]; rfl))
  · exact (if_neg (not_not.2 h1)).trans (if_neg (by rw [hroot]; simp))
  · exact if_neg (not_not.2 h2)
  · exact ⟨_, if_neg (not_not.2 h3), State.ctx_setCtx_same .., fun m hm => (State.ctx_setCtx ..).trans (if_neg hm), rfl, rfl⟩
  · exact if_neg (not_not.2 h4)
  · refine if_pos ⟨h3, hbusy, List.all_eq_true.2 fun t ht => ?_⟩
    by_cases hm : s.ctxOf t = m.val
    · rcases hout t ht hm with hr | hh
      · simp [hr]
      · simp [hh]
    · simp [hm]

/-! ### The destroy of keys -/

theorem destroyKey_readByte (s : State) (k a : Nat) :
    readByte (s.destroyKey k).mem a = if paPkg a = s.pkg ∧ paKey a = k then 0 else readByte s.mem a := by
  unfold readByte State.destroyKey
  rw [aget_akeep]
  by_cases h : paPkg a = s.pkg ∧ paKey a = k
  · simp [h]; rfl
  · simp only [h, if_false]
    rw [if_pos]
    simpa [-not_and, not_and_or] using h

/-- The key slots after a key's destroy: its own is cleared. -/
theorem destroyKey_keySlots (s : State) (k i : Nat) :
    (s.destroyKey k).fw.keySlots.getLsbD i = (s.fw.keySlots.getLsbD i && decide (i ≠ k)) := by
  by_cases hi : i < 64
  · have hbit : (BitVec.ofNat 64 (1 <<< k))[i] = decide (i = k) := by
      rw [← BitVec.getLsbD_eq_getElem, BitVec.getLsbD_ofNat, Nat.one_shiftLeft, Nat.testBit_two_pow]
      simp [hi, eq_comm]
    simp [State.destroyKey, hi, hbit]
  · simp [BitVec.getLsbD_of_ge _ _ (not_lt.1 hi)]

/-- What the destroy of some keys of a set leaves as it is: everything but memory and the key slots. -/
theorem destroyKeys_fold (keys : BitVec 64) (ks : List Nat) (s : State) :
    let t := ks.foldl (fun s k => if keys.getLsbD k then s.destroyKey k else s) s
    t.ctxs = s.ctxs ∧ t.pkg = s.pkg ∧ t.fw = { s.fw with keySlots := t.fw.keySlots } ∧
      (∀ i, t.fw.keySlots.getLsbD i = (s.fw.keySlots.getLsbD i && !(decide (i ∈ ks) && keys.getLsbD i))) ∧
      ∀ a, readByte t.mem a = if paPkg a = s.pkg ∧ paKey a ∈ ks ∧ keys.getLsbD (paKey a) = true then 0 else readByte s.mem a := by
  induction ks generalizing s with
  | nil => simp
  | cons k ks ih =>
    by_cases hk : keys.getLsbD k = true
    · obtain ⟨hctxs, hpkg, hfw, hslots, hmem⟩ := ih (s.destroyKey k)
      simp only [List.foldl_cons, hk, if_true]
      refine ⟨hctxs, hpkg, hfw, fun i => ?_, fun a => ?_⟩
      · rw [hslots, destroyKey_keySlots]
        by_cases hi : i = k
        · simp [hi, hk]
        · simp [hi]
      · have hp : (s.destroyKey k).pkg = s.pkg := rfl
        rw [hmem, destroyKey_readByte, hp]
        by_cases ha : paKey a = k
        · by_cases hpa : paPkg a = s.pkg <;> simp [ha, hpa, hk]
        · simp [ha]
    · simp only [List.foldl_cons, hk, if_false, Bool.false_eq_true]
      obtain ⟨hctxs, hpkg, hfw, hslots, hmem⟩ := ih s
      refine ⟨hctxs, hpkg, hfw, fun i => ?_, fun a => ?_⟩
      · rw [hslots]
        by_cases hi : i = k
        · simp [hi, hk]
        · simp [hi]
      · rw [hmem]
        by_cases ha : paKey a = k
        · simp [ha, hk]
        · simp [ha]

theorem paKey_lt (a : Nat) : paKey a < 64 := Nat.mod_lt _ (by decide)

/-- A set of keys destroyed: their bytes of this package are gone and their slots are clear. -/
theorem destroyKeys_gone (s : State) (keys : BitVec 64) :
    (s.destroyKeys keys).ctxs = s.ctxs ∧ (s.destroyKeys keys).fw = { s.fw with keySlots := s.fw.keySlots &&& ~~~keys } ∧
      ∀ a, readByte (s.destroyKeys keys).mem a =
        if paPkg a = s.pkg ∧ keys.getLsbD (paKey a) = true then 0 else readByte s.mem a := by
  obtain ⟨hctxs, -, hfw, hslots, hmem⟩ := destroyKeys_fold keys (List.range 64) s
  refine ⟨hctxs, hfw.trans ?_, fun a => (hmem a).trans (by simp [paKey_lt])⟩
  have hclear : (s.destroyKeys keys).fw.keySlots = s.fw.keySlots &&& ~~~keys :=
    BitVec.eq_of_getLsbD_eq fun i hi => (hslots i).trans (by simp [hi])
  rw [← hclear]
  rfl

/-! ### The end of a context -/

/-- A launch some team of which is still there is not completed. -/
theorem checkLaunch_of_team {s : State} {id : Nat} (h : ∃ t ∈ s.teams, t.launch = id) : s.checkLaunch id = s := by
  unfold State.checkLaunch
  split
  · rfl
  · obtain ⟨t, ht, hid⟩ := h
    exact if_pos (Or.inr (List.any_eq_true.2 ⟨t, ht, by simp [hid]⟩))

theorem foldl_checkLaunch {s : State} {ls : List Launch} (h : ∀ l ∈ ls, ∃ t ∈ s.teams, t.launch = l.id) :
    ls.foldl (fun s l => s.checkLaunch l.id) s = s := by
  induction ls with
  | nil => rfl
  | cons l ls ih =>
    rw [List.foldl_cons, checkLaunch_of_team (h l List.mem_cons_self)]
    exact ih fun l hl => h l (List.mem_cons_of_mem _ hl)

/-- A FREE context, or one that is on its way to FREE, is none that a destroy takes. -/
theorem contextDestroy_refused {k : Nat} (h : k = 0 ∨ 5 ≤ k) : ¬(1 ≤ k ∧ k ≤ 4) := by omega

/-- A team of a context that is destroyed. -/
def haltOf (s : State) (n : Nat) (u : Team) : Team :=
  if s.ctxOf u = n then { u with halting := true, wantSwap := false, leaving := none } else u

/-- The state in which a context's destroy looks for launches to complete. -/
def State.draining (s : State) : State :=
  { s.setCtx s.cxq.csel { s.ctx s.cxq.csel with state := 5, res := 1 } with
    teams := s.teams.map (haltOf s s.cxq.csel)
    queues := (s.queuesNear s.cxq.csel).foldl (fun m q => aset {} m q ((s.queue q).drain s.cxq.csel)) s.queues }

theorem exec_contextDestroy {s : State} (hlo : 1 ≤ (s.ctx s.cxq.csel).state) (hhi : (s.ctx s.cxq.csel).state ≤ 4)
    (hl : ∀ l ∈ s.launches, l.ctx = s.cxq.csel → (l.nextTeam ≠ 0 ∨ 2 ≤ l.phase) ∧ ∃ t ∈ s.teams, t.launch = l.id) :
    exec .contextDestroy s = .next s.draining := by
  have hwaiting : (s.draining.launches.filter fun l => l.ctx == s.cxq.csel && l.nextTeam == 0 && decide (l.phase < 2)) = [] := by
    refine List.filter_eq_nil_iff.2 fun l hmem => ?_
    simp only [Bool.and_eq_true, beq_iff_eq, decide_eq_true_eq]
    rintro ⟨⟨hctx, hnext⟩, hphase⟩
    rcases (hl l hmem hctx).1 with h | h
    · exact h hnext
    · exact absurd hphase (not_lt.2 h)
  have hteams : ∀ l ∈ s.draining.launches.filter fun l => l.ctx == s.cxq.csel, ∃ t ∈ s.draining.teams, t.launch = l.id := by
    intro l hmem
    obtain ⟨hmem, hctx⟩ := List.mem_filter.1 hmem
    obtain ⟨-, t, ht, hid⟩ := hl l hmem (by simpa using hctx)
    refine ⟨_, List.mem_map_of_mem ht, ?_⟩
    unfold haltOf
    split <;> exact hid
  have hexec : exec .contextDestroy s = .next
      (((s.draining.launches.filter fun l => l.ctx == s.cxq.csel && l.nextTeam == 0 && decide (l.phase < 2)).foldl
          (fun s l => s.finishLaunch l 0x0E) s.draining).launches.filter (fun l => l.ctx == s.cxq.csel) |>.foldl
        (fun s l => s.checkLaunch l.id)
        ((s.draining.launches.filter fun l => l.ctx == s.cxq.csel && l.nextTeam == 0 && decide (l.phase < 2)).foldl
          (fun s l => s.finishLaunch l 0x0E) s.draining)) := if_neg (not_not.2 ⟨hlo, hhi⟩)
  rw [hexec, hwaiting, List.foldl_nil, foldl_checkLaunch hteams]

/-- A queue after the destroy of the selected context: one that belongs to it is drained. -/
theorem draining_queue (s : State) {q : Nat} (hq : q < 1024) : s.draining.queue q = (s.queue q).drain s.cxq.csel := by
  show aget {} ((s.queuesNear s.cxq.csel).foldl _ s.queues) q = _
  rw [aget_foldl_aset]
  split
  · rfl
  · rename_i hfar
    unfold State.queuesNear at hfar
    split at hfar
    · exact absurd (List.mem_range.2 hq) hfar
    · rename_i hn
      have hnew : s.queue q = {} := aget_of_forall_ne _ fun e he hk => hfar (List.mem_map.2 ⟨e, he, hk⟩)
      rw [hnew]
      exact hnew.trans (if_neg fun h : 0 = _ ∧ _ => hn h.1.symm).symm

theorem drain_eq (x : Queue) (n : Nat) :
    x.drain n = if x.ctx = n ∧ x.state ≠ 3 then { x with state := 3, wake := decide (x.ring ≠ 0) } else x := by
  unfold Queue.drain
  have hring : (x.ring != 0) = decide (x.ring ≠ 0) := by rw [bne, beq_eq_decide, decide_not]
  rw [hring]

/-- A context whose launches, teams and records are gone, and whose queues have no ring, has nothing left to report. -/
theorem drained_of_nothing {s : State} {m : Nat} (hl : ∀ l ∈ s.launches, l.ctx ≠ m) (ht : ∀ t ∈ s.teams, s.ctxOf t ≠ m)
    (hf : (s.ctx m).fwait = []) (hq : ∀ e ∈ s.queues, e.2.ctx = m → e.2.ring = 0) : s.drained m = true := by
  simp only [State.drained, Bool.and_eq_true, List.all_eq_true, bne_iff_ne, beq_iff_eq]
  refine ⟨⟨⟨hl, ht⟩, hf⟩, fun e he => ?_⟩
  by_cases hm : e.2.ctx = m
  · simp [hq e he hm]
  · simp [hm]

/-- A queue at the reclaim of its context. -/
def Queue.reclaimed (n : Nat) (x : Queue) : Queue :=
  if x.ctx = n then { x with
    state := 0, en := false, head := 0, done := 0, tail := 0, err := 0, errOwed := none, wake := false, paused := none, lost := [] }
  else x

theorem Queue.reclaimed_default (n : Nat) : Queue.reclaimed n {} = {} := by
  unfold Queue.reclaimed
  split <;> rfl

/-- The state after the reclaim of the selected context. -/
def State.reclaim (s : State) : State :=
  { s.setCtx s.cxq.csel { s.ctx s.cxq.csel with
      state := 0, res := 0, keys := 0, tag := 0, fring := 0, swap := 0, swlen := 0, root := 0, rooted := false } with
    queues := s.queues.foldl (fun m e => aset {} m e.1 (e.2.reclaimed s.cxq.csel)) s.queues
    kslots := s.kslots.foldl (fun m e => if e.1 / 4096 = s.cxq.csel then aset {} m e.1 e.2.freed else m) s.kslots }

theorem exec_contextReclaim {s : State} (h : (s.ctx s.cxq.csel).state = 6) : exec .contextReclaim s = .next s.reclaim :=
  if_neg (not_not.2 h)

theorem reclaim_queue {s : State} (hs : awf {} s.queues = true) (q : Nat) :
    s.reclaim.queue q = (s.queue q).reclaimed s.cxq.csel := by
  have h := aget_foldl_update ({} : Queue) hs (fun _ => True) _ (Queue.reclaimed_default s.cxq.csel) q
  simp only [if_true] at h
  exact h

theorem reclaim_kslot {s : State} (hs : awf {} s.kslots = true) (m : Nat) {k : Nat} (hk : k < 4096) :
    s.reclaim.kslot m k = if m = s.cxq.csel then (s.kslot m k).freed else s.kslot m k := by
  have hctx : (4096 * m + k) / 4096 = m := by omega
  have h := aget_foldl_update ({} : KSlot) hs (fun k => k / 4096 = s.cxq.csel) KSlot.freed rfl (4096 * m + k)
  rw [hctx] at h
  exact h

theorem contextEnds : Claim.ContextEnds := by
  intro s hqueues hkslots n c
  refine ⟨fun h => if_pos (contextDestroy_refused h), fun hlo hhi hl => ?_, fun m h5 hl ht hf hq => ?_, fun h => if_pos h, fun h6 => ?_⟩
  · exact ⟨_, exec_contextDestroy hlo hhi hl, State.ctx_setCtx_same .., rfl,
      fun q hq => (draining_queue s hq).trans (drain_eq ..), rfl, rfl⟩
  · have hexec : exec (.contextDestroyed m) s =
        .next ((s.setCtx m.val { s.ctx m.val with state := 6, res := 0 }).destroyKeys (s.ctx m.val).keys) :=
      if_pos ⟨h5, drained_of_nothing hl ht hf hq⟩
    obtain ⟨hctxs, hfw, hmem⟩ := destroyKeys_gone (s.setCtx m.val { s.ctx m.val with state := 6, res := 0 }) (s.ctx m.val).keys
    refine ⟨_, hexec, ?_, fun a hp hk => (hmem a).trans (if_pos ⟨hp, hk⟩), fun a ha => (hmem a).trans (if_neg ha), hfw⟩
    unfold State.ctx at hctxs ⊢
    rw [hctxs]
    exact State.ctx_setCtx_same ..
  · refine ⟨_, exec_contextReclaim h6, State.ctx_setCtx_same .., reclaim_queue hqueues, fun k hk => ?_, fun m k hm hk => ?_, rfl⟩
    · exact (reclaim_kslot hkslots n hk).trans (if_pos rfl)
    · exact (reclaim_kslot hkslots m hk).trans (if_neg hm)

/-- Settles O27. -/
theorem contextsRunAndEnd : Obligations.ContextsRunAndEnd := ⟨contextCommands, contextEnds⟩

end Sys2Proof.Machine
end

section
/-!
PROOFS. Committed atomics (O20), what the steps of ATOMIC_PERFORM keep: what is read of the teams, the lines a core drains, and the
bytes lost to errors.
-/
namespace Sys2Proof.Machine

/-! ### What is read of the teams -/

/-- From `s` to `t` every team is still found, with what `π` reads of it as it was. -/
def Keeps {β : Type} (π : Team → β) (s t : State) : Prop := ∀ id, (t.team? id).map π = (s.team? id).map π

/-- A team but for the engine failures charged to it. -/
def Team.uncharged (t : Team) : Team := { t with pend := [] }

/-- What a test finds after a replacement that neither the test nor `π` tells apart. -/
theorem map_find_lreplace {α β : Type} (π : α → β) (p q : α → Bool) (f : α → α) (l : List α)
    (h : ∀ x, l.find? p = some x → q (f x) = q x ∧ π (f x) = π x) : ((lreplace p f l).find? q).map π = (l.find? q).map π := by
  induction l with
  | nil => rfl
  | cons x xs ih =>
    by_cases hx : p x = true
    · obtain ⟨hq, hπ⟩ := h x (by simp [hx])
      cases hqx : q x <;> simp [lreplace, hx, hq, hqx, hπ]
    · have ih := ih fun y hy => h y (by simpa [hx] using hy)
      cases hqx : q x <;> simp [lreplace, hx, hqx, ih]

section
variable {β : Type} {π : Team → β} {s t u : State}

theorem Keeps.refl (π : Team → β) (s : State) : Keeps π s s := fun _ => rfl

theorem Keeps.trans (h : Keeps π s t) (k : Keeps π t u) : Keeps π s u := fun id => (k id).trans (h id)

theorem Keeps.of_teams (h : t.teams = s.teams) : Keeps π s t := fun id => by rw [State.team?, State.team?, h]

theorem Keeps.foldl {α : Type} {step : State → α → State} (xs : List α) (s : State) (h : ∀ t x, Keeps π t (step t x)) :
    Keeps π s (xs.foldl step s) := by
  induction xs generalizing s with
  | nil => exact .refl π s
  | cons x xs ih => exact (h s x).trans (ih _)

/-- What reads less of a team is kept too. -/
theorem Keeps.comp {γ : Type} (h : Keeps π s t) (ρ : β → γ) : Keeps (ρ ∘ π) s t := fun id => by
  simpa only [Option.map_map] using congrArg (Option.map ρ) (h id)

theorem Keeps.team (h : Keeps π s t) {id : Nat} {x : Team} (hx : s.team? id = some x) : ∃ y, t.team? id = some y ∧ π y = π x := by
  have h := h id
  rw [hx] at h
  exact Option.map_eq_some_iff.1 h

theorem onTeam_keeps {id : Nat} {f : Team → Team} (hid : ∀ x, (f x).id = x.id) (hπ : ∀ x, π (f x) = π x) :
    Keeps π s (s.onTeam id f) := fun _ =>
  map_find_lreplace π _ _ f s.teams fun x _ => ⟨by rw [hid], hπ x⟩

theorem setTeam_keeps {x y : Team} (h : s.team? y.id = some x) (hπ : π y = π x) : Keeps π s (s.setTeam y) := fun _ =>
  map_find_lreplace π _ _ _ s.teams fun z hz => by
    cases hz.symm.trans h
    exact ⟨by rw [id_of_team? h], hπ⟩

end

theorem charge_keeps (s : State) (id n : Nat) (ls : List Nat) (pc : Nat) (e : FInfo) :
    Keeps Team.uncharged s (s.charge id n ls pc e) :=
  onTeam_keeps (fun _ => rfl) fun _ => rfl

theorem drainEntry_keeps (s : State) (core : Nat) (e : WcEntry) : Keeps Team.uncharged s (s.drainEntry core e) := by
  unfold State.drainEntry
  extract_lets bs undo busy s1 access
  split
  · exact Keeps.foldl _ s fun _ _ => charge_keeps _ _ _ _ _ _
  · exact Keeps.trans (t := s1) (Keeps.foldl _ s fun _ _ => .of_teams rfl) (.of_teams rfl)

/-! ### What an atomic drains (R299) -/

theorem drainAtom_keeps (s : State) (core : Nat) (parts : List AtomLane) (rel : Bool) :
    Keeps Team.uncharged s (s.drainAtom core parts rel) := by
  unfold State.drainAtom State.drainWc
  exact Keeps.trans (t := s.setCore core _) (.of_teams rfl) (Keeps.foldl _ _ fun _ _ => drainEntry_keeps _ _ _)

theorem drainAtom_ring (s : State) (core : Nat) (parts : List AtomLane) (rel : Bool) : (s.drainAtom core parts rel).ring = s.ring :=
  (drainWc_leaves (one := True) (P := fun _ => True) s core _).ring

/-! ### Bytes written to scratch -/

theorem scrWrite_rest (t : Team) (off : Nat) (bs : List Byte) :
    { t.scrWrite off bs with scr := t.scr, bad := t.bad, unf := t.unf } = t := by
  induction bs generalizing t off with
  | nil => rfl
  | cons b bs ih =>
    have h := ih { t with scr := aset 0 t.scr (t.scrKey off) b, bad := t.bad.filter (· != t.scrKey off)
                          unf := t.unf.filter fun e => e.2.1 != off } (off + 1)
    exact congrArg (fun u : Team => { u with scr := t.scr, bad := t.bad, unf := t.unf }) h

theorem groups_scrWrite (t : Team) (off : Nat) (bs : List Byte) : (t.scrWrite off bs).groups = t.groups :=
  (congrArg Team.groups (scrWrite_rest t off bs) :)

theorem uncharged_scrWrite (t : Team) (off : Nat) (bs : List Byte) :
    (t.scrWrite off bs).uncharged = t.uncharged.scrWrite off bs := by
  induction bs generalizing t off with
  | nil => rfl
  | cons b bs ih => exact ih ..

/-- Where no byte of scratch is lost, none is after a write. -/
theorem bad_scrWrite {t : Team} (h : t.bad = []) (off : Nat) (bs : List Byte) : (t.scrWrite off bs).bad = [] := by
  induction bs generalizing t off with
  | nil => exact h
  | cons b bs ih => exact ih (by simp [h]) _

/-! ### Bytes lost to errors (R348) -/

/-- From `s` to `t` no byte of memory was lost to an error. -/
structure NoneLost (s t : State) : Prop where
  bytes : t.badBytes ⊆ s.badBytes
  links : t.links = s.links
  pkg : t.pkg = s.pkg

theorem NoneLost.refl (s : State) : NoneLost s s := ⟨fun _ h => h, rfl, rfl⟩

theorem NoneLost.trans {s t u : State} (h : NoneLost s t) (k : NoneLost t u) : NoneLost s u :=
  ⟨fun _ hb => h.bytes (k.bytes hb), k.links.trans h.links, k.pkg.trans h.pkg⟩

theorem poke_noneLost (s : State) (pa : Nat) (bs : List Byte) : NoneLost s (s.poke pa bs) :=
  ⟨fun _ hb => (List.mem_filter.1 hb).1, rfl, rfl⟩

theorem hotPush_noneLost (s : State) (chunk : Nat) : NoneLost s (s.hotPush chunk) := by
  unfold State.hotPush
  extract_lets base tail s1 last regs drop
  have h1 : NoneLost s s1 := by
    unfold s1
    split
    · exact .refl s
    · exact poke_noneLost ..
  split
  · exact ⟨h1.bytes, h1.links, h1.pkg⟩
  · split
    · exact .refl s
    · exact ⟨fun _ h => h, rfl, rfl⟩

theorem countLine_noneLost (s : State) (pa : Nat) : NoneLost s (s.countLine pa) := by
  unfold State.countLine
  split
  · exact .refl s
  · extract_lets chunk old thr new s1
    have h1 : NoneLost s s1 := ⟨fun _ h => h, rfl, rfl⟩
    split
    · exact h1.trans (hotPush_noneLost ..)
    · exact h1

theorem countLines_noneLost (s : State) (pa n : Nat) : NoneLost s (s.countLines pa n) := by
  unfold State.countLines
  generalize List.range ((pa % 128 + n + 127) / 128) = ks
  induction ks generalizing s with
  | nil => exact .refl s
  | cons k ks ih => exact (countLine_noneLost s _).trans (ih _)

/-- A place of memory that has its bytes still has them. -/
theorem NoneLost.locBad {s t : State} (h : NoneLost s t) {pa n : Nat} (hs : s.locBad (.mem pa) n = false) :
    t.locBad (.mem pa) n = false := by
  simp only [State.locBad, Bool.or_eq_false_iff, List.any_eq_false] at hs ⊢
  exact ⟨fun b hb => hs.1 b (h.bytes hb), (hbmFailed_congr h.links h.pkg pa n).trans hs.2⟩

end Sys2Proof.Machine
end

section
/-!
PROOFS. Committed atomics (O20), the value that an integer atomic stores.
-/
namespace Sys2Proof.Machine

/-! ### Numbers of a width -/

/-- A little-endian number lies below the power of its bytes. -/
theorem leNat_lt (bs : List Byte) : leNat bs < 256 ^ bs.length := by
  induction bs with
  | nil => simp [leNat]
  | cons b bs ih =>
    have hb : b.toNat < 256 := b.isLt
    have ih : leNat bs + 1 ≤ 256 ^ bs.length := ih
    have hcons : leNat (b :: bs) = b.toNat + 256 * leNat bs := rfl
    rw [hcons, List.length_cons, Nat.pow_succ]
    omega

/-- The low element of a register. -/
theorem elemBits_zero (w : Nat) (r : Reg) : elemBits w 0 r = r.toNat % 2 ^ w := by simp [elemBits, fieldOf]

/-- Numbers of a width are told apart as integers. -/
theorem intOf_inj {sgn : Bool} {w x y : Nat} (hx : x < 2 ^ w) (hy : y < 2 ^ w) (h : intOf sgn w x = intOf sgn w y) : x = y := by
  have hx : (x : Int) < 2 ^ w := by exact_mod_cast hx
  have hy : (y : Int) < 2 ^ w := by exact_mod_cast hy
  cases sgn
  · simpa [intOf] using h
  · simp only [intOf, signedOf, if_true] at h
    split at h <;> split at h <;> omega

/-! ### Integer atomics (R217, R218) -/

/-- The types of integer atomics. -/
def atomTypes : List Typ := [.i32, .i64, .n32, .n64]

section
variable {typ : Typ} (htyp : typ ∈ atomTypes)
include htyp

/-- Their bytes hold their bits. -/
theorem tyBytes_of_atomType : 256 ^ tyBytes typ = 2 ^ tyWidth typ := by
  revert htyp typ
  decide

theorem notFloat_of_atomType : (typ == .f32 || typ == .f64) = false := by
  revert htyp typ
  decide

/-- An integer atomic gives what R217 and R218 say, without flags. -/
theorem atomOp_integer {op old b : Nat} (hop : op ≤ 8) (hold : old < 2 ^ tyWidth typ) (hb : b < 2 ^ tyWidth typ) :
    atomOp typ op old b = (atomSpec (tySigned typ) (tyWidth typ) op old b, 0) := by
  have hval (x : Nat) : (if tySigned typ = true ∧ 2 ^ (tyWidth typ - 1) ≤ x then (x : Int) - 2 ^ tyWidth typ else x) =
      intOf (tySigned typ) (tyWidth typ) x := by
    cases tySigned typ
    · simp [intOf]
    · by_cases hx : x < 2 ^ (tyWidth typ - 1)
      · simp [intOf, signedOf, hx]
      · simp [intOf, signedOf, hx, not_lt.1 hx]
  unfold atomOp atomSpec
  simp only [notFloat_of_atomType htyp, hval]
  have hcases : op = 0 ∨ op = 1 ∨ op = 2 ∨ op = 3 ∨ op = 4 ∨ op = 5 ∨ op = 6 ∨ op = 7 ∨ op = 8 := by omega
  rcases hcases with rfl | rfl | rfl | rfl | rfl | rfl | rfl | rfl | rfl
  case inr.inr.inl =>
    rcases lt_trichotomy (intOf (tySigned typ) (tyWidth typ) old) (intOf (tySigned typ) (tyWidth typ) b) with h | h | h
    · simp [h, h.le]
    · simp [intOf_inj hold hb h]
    · simp [h, h.le]
  all_goals simp

/-- What a lane's integer atomic stores. -/
theorem atomNew_integer {isCmp : Bool} {op old : Nat} {p : AtomLane} (hop : op ≤ 8) (hold : old < 2 ^ tyWidth typ) :
    atomNew isCmp op typ old p = (atomStored isCmp typ op old p.b p.c, 0) := by
  unfold atomNew atomStored
  simp only [elemBits_zero]
  cases isCmp
  · exact atomOp_integer htyp hop hold (Nat.mod_lt _ (Nat.two_pow_pos _))
  · rfl

end

end Sys2Proof.Machine
end

section
/-!
PROOFS. Committed atomics (O20), one lane after another: what each lane's part may write and what it keeps.
-/
namespace Sys2Proof.Machine

/-- What the lanes of an atomic leave behind them: the state, the old values and the flags. -/
abbrev AtomAcc : Type := State × List (Nat × Nat) × Flags

/-- One lane's part of ATOMIC_PERFORM: the state, the old values and the flags. -/
def atomStep (c : Cur) (ts : TSet) (h : Held) (isCmp : Bool) (op : Nat) (typ : Typ) (acc : AtomAcc)
    (p : AtomLane) : AtomAcc :=
  match acc.1.atomFault (tyBytes typ) p with
  | some e => (acc.1.charge c.1 c.2.1 h.lanes h.pc e, acc.2)
  | none =>
    let r := acc.1.atomLane c ts isCmp op typ p.lane p
    (r.1, acc.2.1 ++ [(p.lane, r.2.1)], acc.2.2 ||| r.2.2)

theorem atomLanes_eq (s : State) (c : Cur) (ts : TSet) (h : Held) (isCmp : Bool) (op : Nat) (typ : Typ) (parts : List AtomLane) :
    s.atomLanes c ts h.pc h.lanes isCmp op typ parts = parts.foldl (atomStep c ts h isCmp op typ) (s, [], 0) := rfl

section
variable {c : Cur} {ts : TSet} {h : Held} {isCmp : Bool} {op : Nat} {typ : Typ} {acc : AtomAcc}
  {s : State} {p : AtomLane}

theorem atomStep_fault {e : FInfo} (he : acc.1.atomFault (tyBytes typ) p = some e) :
    atomStep c ts h isCmp op typ acc p = (acc.1.charge c.1 c.2.1 h.lanes h.pc e, acc.2) := by
  simp only [atomStep, he]

theorem atomStep_go (he : acc.1.atomFault (tyBytes typ) p = none) :
    atomStep c ts h isCmp op typ acc p = ((acc.1.atomLane c ts isCmp op typ p.lane p).1,
      acc.2.1 ++ [(p.lane, (acc.1.atomLane c ts isCmp op typ p.lane p).2.1)],
      acc.2.2 ||| (acc.1.atomLane c ts isCmp op typ p.lane p).2.2) := by
  simp only [atomStep, he]

/-- A part in memory counts its lines and stores its new value. -/
theorem atomLane_mem {pa : Nat} (hp : p.loc = .mem pa) :
    s.atomLane c ts isCmp op typ p.lane p =
      (((s.countLines pa (tyBytes typ)).putNat pa (tyBytes typ)
          (atomNew isCmp op typ (leNat (readBytes s.mem pa (tyBytes typ))) p).1).signed s.wseq c.1 c.2.1 p.lane,
        leNat (readBytes s.mem pa (tyBytes typ)), (atomNew isCmp op typ (leNat (readBytes s.mem pa (tyBytes typ))) p).2) := by
  simp only [State.atomLane, hp]

/-- A part in the scratch of a team stores its new value there. -/
theorem atomLane_scr {id off : Nat} {u : Team} (hp : p.loc = .scr id off) (hu : s.team? id = some u) :
    s.atomLane c ts isCmp op typ p.lane p =
      ((s.setTeam (u.scrWrite off (leBytes (tyBytes typ) (atomNew isCmp op typ (leNat (u.scrRead off (tyBytes typ))) p).1))).noteScr
          id off (tyBytes typ) (some (c.1, c.2.1, p.lane)),
        leNat (u.scrRead off (tyBytes typ)), (atomNew isCmp op typ (leNat (u.scrRead off (tyBytes typ))) p).2) := by
  simp only [State.atomLane, hp, hu]

/-- A part in the scratch of a team that is gone, and a part on another package, change nothing here. -/
theorem atomLane_scr_gone {id off : Nat} (hp : p.loc = .scr id off) (hu : s.team? id = none) :
    s.atomLane c ts isCmp op typ p.lane p = (s, 0, 0) := by
  simp only [State.atomLane, hp, hu]

theorem atomLane_far {id n off : Nat} (hp : p.loc = .far id n off) : (s.atomLane c ts isCmp op typ p.lane p).1 = s := by
  simp only [State.atomLane, hp]

/-! ### What a part writes -/

theorem noteScr_teams (s : State) (id off n : Nat) (party : Option (Nat × Nat × Nat)) : (s.noteScr id off n party).teams = s.teams := by
  unfold State.noteScr
  split <;> rfl

theorem noteScr_mem (s : State) (id off n : Nat) (party : Option (Nat × Nat × Nat)) : (s.noteScr id off n party).mem = s.mem := by
  unfold State.noteScr
  split <;> rfl

/-- A part in memory writes its place, and its lines may enter the hot ring. -/
theorem atomLane_mem_writes {pa : Nat} (hp : p.loc = .mem pa) :
    Writes (fun a => Inside pa (tyBytes typ) a ∨ Inside s.ring 32768 a) s (s.atomLane c ts isCmp op typ p.lane p).1 := by
  rw [atomLane_mem hp]
  refine Writes.after (.of_calm (signed_calm ..)) (.trans ((countLines_writes ..).mono fun _ => Or.inr) ((poke_writes ..).mono ?_))
  intro a ha
  rw [leBytes_length] at ha
  exact Or.inl ha

/-- A part anywhere writes the place that it has in memory at most, the hot ring aside. -/
theorem atomLane_writes :
    Writes (fun a => (∃ pa, p.loc = .mem pa ∧ Inside pa (tyBytes typ) a) ∨ Inside s.ring 32768 a) s
      (s.atomLane c ts isCmp op typ p.lane p).1 := by
  cases hp : p.loc with
  | mem pa => exact (atomLane_mem_writes hp).mono fun a ha => ha.imp (fun hin => ⟨pa, rfl, hin⟩) id
  | scr id off =>
    cases hu : s.team? id with
    | none => rw [atomLane_scr_gone hp hu]; exact .refl _ s
    | some u =>
      rw [atomLane_scr hp hu]
      exact .of_calm ((setTeam_found_calm hu (scrWrite_names ..)).trans (noteScr_calm ..))
  | far id n off => rw [atomLane_far hp]; exact .refl _ s

theorem atomLane_mem_teams {pa : Nat} (hp : p.loc = .mem pa) : (s.atomLane c ts isCmp op typ p.lane p).1.teams = s.teams := by
  rw [atomLane_mem hp]
  exact (countLines_counted ..).teams

/-- A part changes no group. -/
theorem atomLane_keepsGroups : Keeps Team.groups s (s.atomLane c ts isCmp op typ p.lane p).1 := by
  cases hp : p.loc with
  | mem pa => exact .of_teams (atomLane_mem_teams hp)
  | scr id off =>
    cases hu : s.team? id with
    | none => rw [atomLane_scr_gone hp hu]; exact .refl _ s
    | some u =>
      rw [atomLane_scr hp hu]
      refine Keeps.trans (setTeam_keeps (x := u) ?_ (groups_scrWrite ..)) (.of_teams (noteScr_teams ..))
      rw [id_scrWrite, id_of_team? hu]
      exact hu
  | far id n off => rw [atomLane_far hp]; exact .refl _ s

/-- A part outside scratch changes no team. -/
theorem atomLane_teams (hp : ∀ id off, p.loc ≠ .scr id off) : (s.atomLane c ts isCmp op typ p.lane p).1.teams = s.teams := by
  cases hl : p.loc with
  | mem pa => exact atomLane_mem_teams hl
  | scr id off => exact absurd hl (hp id off)
  | far id n off => rw [atomLane_far hl]

/-! ### What the parts in turn write -/

theorem atomStep_writes :
    Writes (fun a => (∃ pa, p.loc = .mem pa ∧ Inside pa (tyBytes typ) a) ∨ Inside acc.1.ring 32768 a) acc.1
      (atomStep c ts h isCmp op typ acc p).1 := by
  cases he : acc.1.atomFault (tyBytes typ) p with
  | some e => rw [atomStep_fault he]; exact .of_calm (charge_calm ..)
  | none => rw [atomStep_go he]; exact atomLane_writes

theorem atomStep_keepsGroups : Keeps Team.groups acc.1 (atomStep c ts h isCmp op typ acc p).1 := by
  cases he : acc.1.atomFault (tyBytes typ) p with
  | some e => rw [atomStep_fault he]; exact (charge_keeps _ _ _ _ _ _).comp Team.groups
  | none => rw [atomStep_go he]; exact atomLane_keepsGroups

theorem atomStep_keepsTeams (hp : ∀ id off, p.loc ≠ .scr id off) :
    Keeps Team.uncharged acc.1 (atomStep c ts h isCmp op typ acc p).1 := by
  cases he : acc.1.atomFault (tyBytes typ) p with
  | some e => rw [atomStep_fault he]; exact charge_keeps _ _ _ _ _ _
  | none => rw [atomStep_go he]; exact .of_teams (atomLane_teams hp)

/-- A part gives a value for its own lane at most. -/
theorem atomStep_vals : ∀ e ∈ (atomStep c ts h isCmp op typ acc p).2.1, e ∈ acc.2.1 ∨ e.1 = p.lane := by
  cases he : acc.1.atomFault (tyBytes typ) p with
  | some e => rw [atomStep_fault he]; exact fun _ => Or.inl
  | none =>
    rw [atomStep_go he]
    intro e hmem
    rcases List.mem_append.1 hmem with hmem | hmem
    · exact Or.inl hmem
    · exact Or.inr (by rw [List.mem_singleton.1 hmem])

end

section
variable {c : Cur} {ts : TSet} {h : Held} {isCmp : Bool} {op : Nat} {typ : Typ} {parts : List AtomLane} {s : State}

theorem atomLanes_writes :
    Writes (fun a => (∃ p ∈ parts, ∃ pa, p.loc = .mem pa ∧ Inside pa (tyBytes typ) a) ∨ Inside s.ring 32768 a) s
      (s.atomLanes c ts h.pc h.lanes isCmp op typ parts).1 := by
  rw [atomLanes_eq]
  refine List.foldlRecOn (motive := fun acc : AtomAcc => Writes _ s acc.1) parts _ (.refl _ s) fun acc hacc p hp => hacc.trans ?_
  refine atomStep_writes.mono fun a ha => ?_
  rw [hacc.ring] at ha
  exact ha.imp (fun hin => ⟨p, hp, hin⟩) id

theorem atomLanes_keepsGroups : Keeps Team.groups s (s.atomLanes c ts h.pc h.lanes isCmp op typ parts).1 := by
  rw [atomLanes_eq]
  exact List.foldlRecOn (motive := fun acc : AtomAcc => Keeps Team.groups s acc.1) parts _ (.refl _ s)
    fun acc hacc p _ => hacc.trans atomStep_keepsGroups

theorem atomLanes_keepsTeams (hp : ∀ p ∈ parts, ∀ id off, p.loc ≠ .scr id off) :
    Keeps Team.uncharged s (s.atomLanes c ts h.pc h.lanes isCmp op typ parts).1 := by
  rw [atomLanes_eq]
  exact List.foldlRecOn (motive := fun acc : AtomAcc => Keeps Team.uncharged s acc.1) parts _ (.refl _ s)
    fun acc hacc p hmem => hacc.trans (atomStep_keepsTeams (hp p hmem))

theorem atomLanes_vals : ∀ e ∈ (s.atomLanes c ts h.pc h.lanes isCmp op typ parts).2.1, ∃ p ∈ parts, e.1 = p.lane := by
  rw [atomLanes_eq]
  refine List.foldlRecOn (motive := fun acc : AtomAcc => ∀ e ∈ acc.2.1, ∃ p ∈ parts, e.1 = p.lane) parts _ (by simp) ?_
  intro acc hacc p hp e he
  rcases atomStep_vals e he with he | he
  · exact hacc e he
  · exact ⟨p, hp, he⟩

end

end Sys2Proof.Machine
end

section
/-!
PROOFS. Committed atomics (O20), the set that goes on: its group after the values are delivered, and what every other set sees.
-/
namespace Sys2Proof.Machine

/-! ### A destination delivered -/

theorem putTset_rest (ts : TSet) (o : Opd) (vals : List (Nat × Reg)) : { ts.put o vals with temps := ts.temps } = ts := by
  unfold TSet.put
  split <;> rfl

theorem put_rest (g : Group) (o : Opd) (vals : List (Nat × Reg)) : { g.put o vals with v := g.v, g := g.g } = g := by
  unfold Group.put
  split
  · rfl
  · split <;> rfl
  · rfl

theorem deliver_gone {g : Group} {k : Nat} (h : g.tset? k = none) (o : Opd) (vals : List (Nat × Reg)) :
    g.deliver k o vals = g.put o vals := by
  simp only [Group.deliver, h]

/-- A delivery to a set that is there: the registers, then its temporaries. -/
theorem deliver_found {g : Group} {k : Nat} {ts : TSet} (h : g.tset? k = some ts) (o : Opd) (vals : List (Nat × Reg)) :
    g.deliver k o vals = ((g.put o vals).noteTemps
      ((ts.put o vals).temps.take ((ts.put o vals).temps.length - ts.temps.length))).setTset (ts.put o vals) := by
  simp only [Group.deliver, h]

/-- A delivery changes registers, the set's temporaries and what idle lanes read of them. -/
theorem deliver_rest (g : Group) (k : Nat) (o : Opd) (vals : List (Nat × Reg)) :
    { g.deliver k o vals with v := g.v, g := g.g, tsets := g.tsets, tHist := g.tHist } = g := by
  have hput := congrArg (fun x : Group => { x with tsets := g.tsets, tHist := g.tHist }) (put_rest g o vals)
  cases hts : g.tset? k with
  | none => rw [deliver_gone hts]; exact hput
  | some ts => rw [deliver_found hts]; exact hput

theorem g_deliver (g : Group) (k : Nat) (o : Opd) (vals : List (Nat × Reg)) : (g.deliver k o vals).g = (g.put o vals).g := by
  cases hts : g.tset? k with
  | none => rw [deliver_gone hts]
  | some ts => rw [deliver_found hts]; rfl

theorem tset?_deliver {g : Group} {k : Nat} {ts : TSet} (h : g.tset? k = some ts) (o : Opd) (vals : List (Nat × Reg)) :
    (g.deliver k o vals).tset? k = some (ts.put o vals) := by
  have hid : (ts.put o vals).id = k := by
    have hts : ts.id = k := by simpa using List.find?_some h
    exact (congrArg TSet.id (putTset_rest ts o vals) :).trans hts
  have hput : (g.put o vals).tset? k = some ts := by
    have hsets : (g.put o vals).tsets = g.tsets := (congrArg Group.tsets (put_rest g o vals) :)
    rw [Group.tset?, hsets]
    exact h
  rw [deliver_found h]
  have hset := tset?_setTset (ts1 := ts.put o vals) (g := (g.put o vals).noteTemps
    ((ts.put o vals).temps.take ((ts.put o vals).temps.length - ts.temps.length))) (ts := ts) (by rw [hid]; exact hput)
  rwa [hid] at hset

/-- Lane registers other than those of a delivery's lanes. -/
theorem aget_putV_other {g : Group} {o : Opd} {vals : List (Nat × Reg)} {k : Nat}
    (h : ∀ n, o = .v n → ∀ e ∈ vals, k ≠ laneKey n.toNat e.1) : aget marker (g.put o vals).v k = aget marker g.v k := by
  unfold Group.put
  split
  · exact aget_putLanes_other _ _ _ (h _ rfl)
  · split <;> rfl
  · rfl

/-- Uniform registers other than the destination of a delivery. -/
theorem aget_putG_other {g : Group} {o : Opd} {vals : List (Nat × Reg)} {k : Nat} (h : ∀ n, o = .g n → k ≠ n.toNat) :
    aget marker (g.put o vals).g k = aget marker g.g k := by
  unfold Group.put
  split
  · rfl
  · split
    · rfl
    · exact aget_aset_ne _ _ _ (h _ rfl)
  · rfl

/-! ### The group and the set after an atomic -/

/-- A set whose atomic `h` has been performed. -/
def TSet.afterAtom (h : Held) (clk : Nat) (x : TSet) : TSet :=
  ({ x with held := x.held.filter (fun y => y != h), got2 := [], fl := 0, flWrite := none } : TSet).resume clk

/-- Its group: the values delivered, the run's flags committed with those of the atomic, and the set sent on. -/
def Group.afterAtom (k : Nat) (ts : TSet) (h : Held) (dst : Opd) (vals : List (Nat × Reg)) (fl : Flags) (at_ clk : Nat)
    (g : Group) : Group :=
  ((g.deliver k dst vals).commitFlags ts.flWrite (ts.fl ||| fl) at_).mapTset k (TSet.afterAtom h clk)

section
variable {k : Nat} {ts : TSet} {h : Held} {dst : Opd} {vals : List (Nat × Reg)} {fl : Flags} {at_ clk : Nat} {g : Group}

theorem afterAtom_rest : { Group.afterAtom k ts h dst vals fl at_ clk g with
    v := g.v, g := g.g, tsets := g.tsets, fflg := g.fflg, flRuns := g.flRuns, tHist := g.tHist } = g :=
  (congrArg (fun x : Group => { x with fflg := g.fflg, flRuns := g.flRuns }) (deliver_rest g k dst vals) :)

theorem afterAtom_index : (Group.afterAtom k ts h dst vals fl at_ clk g).index = g.index := deliver_index ..

theorem afterAtom_v : (Group.afterAtom k ts h dst vals fl at_ clk g).v = (g.put dst vals).v := v_deliver ..

theorem afterAtom_g : (Group.afterAtom k ts h dst vals fl at_ clk g).g = (g.put dst vals).g := g_deliver ..

theorem afterAtom_fflg : (Group.afterAtom k ts h dst vals fl at_ clk g).fflg = (ts.flWrite.getD g.fflg) ||| (ts.fl ||| fl) := by
  have hfl : (g.deliver k dst vals).fflg = g.fflg := (congrArg Group.fflg (deliver_rest g k dst vals) :)
  show ts.flWrite.getD (g.deliver k dst vals).fflg ||| _ = _
  rw [hfl]

theorem afterAtom_tset? (hts : g.tset? k = some ts) :
    (Group.afterAtom k ts h dst vals fl at_ clk g).tset? k = some ((ts.put dst vals).afterAtom h clk) :=
  tset?_mapTset (g := (g.deliver k dst vals).commitFlags ts.flWrite (ts.fl ||| fl) at_) (tset?_deliver hts dst vals) fun _ => rfl

end

/-- A set that held only the atomic holds nothing and stands at its word, ready. -/
theorem afterAtom_goesOn {ts : TSet} {h : Held} (hheld : ts.held = [h]) (dst : Opd) (vals : List (Nat × Reg)) (clk : Nat) :
    let ts1 := (ts.put dst vals).afterAtom h clk
    ts1.phase = .ready ∧ ts1.held = [] ∧ ts1.pc = ts.pc ∧ ts1.lanes = ts.lanes := by
  have hrest := putTset_rest ts dst vals
  have hput : (ts.put dst vals).held = ts.held := (congrArg TSet.held hrest :)
  refine ⟨rfl, ?_, (congrArg TSet.pc hrest :), (congrArg TSet.lanes hrest :)⟩
  show (ts.put dst vals).held.filter (fun y => y != h) = []
  simp [hput, hheld]

/-! ### What other sets see -/

/-- A set and its group are read off the groups of its team. -/
theorem view_snd (s : State) (d : Cur) : (s.view d).map (fun x => x.2) =
    ((s.team? d.1).map Team.groups).bind fun gs =>
      (gs.find? fun g => g.index == d.2.1).bind fun g => (g.tset? d.2.2).map fun ts => (g, ts) := by
  unfold State.view Team.group?
  cases s.team? d.1 with
  | none => rfl
  | some t =>
    simp only [Option.map_some, Option.bind_some]
    cases t.groups.find? fun g => g.index == d.2.1 with
    | none => rfl
    | some g => simp only [Option.bind_some]; cases g.tset? d.2.2 <;> rfl

theorem Keeps.view_snd {s t : State} (h : Keeps Team.groups s t) (d : Cur) :
    (t.view d).map (fun x => x.2) = (s.view d).map fun x => x.2 := by
  rw [Machine.view_snd, Machine.view_snd, h]

/-- A change of one group is not seen in another. -/
theorem view_onGroup_other {s : State} {c d : Cur} {f : Group → Group} (hf : ∀ x, (f x).index = x.index)
    (h : d.1 ≠ c.1 ∨ d.2.1 ≠ c.2.1) : ((s.onGroup c.1 c.2.1 f).view d).map (fun x => x.2) = (s.view d).map fun x => x.2 := by
  rw [view_snd, view_snd]
  by_cases hd : d.1 = c.1
  · have hn : d.2.1 ≠ c.2.1 := h.resolve_left (not_not.2 hd)
    rw [hd]
    have hteam : (s.onGroup c.1 c.2.1 f).team? c.1 = (s.team? c.1).map fun t => t.mapGroup c.2.1 f :=
      find_lreplace (fun t : Team => t.id == c.1) (fun t : Team => t.mapGroup c.2.1 f) (fun _ hx => hx) s.teams
    rw [hteam]
    cases s.team? c.1 with
    | none => rfl
    | some u =>
      have hfind := group?_mapGroup_other u hf hn
      unfold Team.group? at hfind
      simp only [Option.map_some, Option.bind_some, hfind]
  · have hteam : (s.onGroup c.1 c.2.1 f).team? d.1 = s.team? d.1 :=
      team?_onTeam_other (f := fun t => t.mapGroup c.2.1 f) s (fun _ => rfl) hd
    rw [hteam]

/-! ### ATOMIC_PERFORM -/

section
variable {s : State} {c : Cur} {t : Team} {g : Group} {ts : TSet} {h : Held} {isRed isCmp rel : Bool} {op : Nat} {typ : Typ} {dst : Opd}
  {parts : List AtomLane}

/-- The state in which the lanes of an atomic are performed. -/
def State.atomFrom (s : State) (t : Team) (g : Group) (h : Held) (parts : List AtomLane) (rel : Bool) : State :=
  s.drainAtom (t.coreNo (s.tcore t g.index)) parts (g.releases h rel)

/-- ATOMIC_PERFORM of a set whose atomic is ready. -/
theorem exec_atomicPerform (hr : AtomicReady s c t g ts h typ parts) (hact : h.act = .atom isRed isCmp op typ dst parts rel) :
    exec (.atomicPerform c.1 c.2.1 c.2.2) s =
      .next (s.atomPerform c ts h isCmp op typ dst parts (g.releases h rel) (t.coreNo (s.tcore t g.index))) := by
  have hwaits : (s.accesses.any fun a => a.kind == 2 && a.team == c.1 && a.group == c.2.1 && a.lanes.any ts.lanes.contains) = false := by
    simp only [List.any_eq_false, Bool.and_eq_true, beq_iff_eq]
    rintro a ha ⟨⟨⟨hk, ht⟩, hg⟩, -⟩
    exact hr.answered a ha ⟨hk, ht, hg⟩
  have hview : s.view (c.1, c.2.1, c.2.2) = some (t, g, ts) := hr.view
  show execAtomicPerform c.1 c.2.1 c.2.2 s = _
  simp only [execAtomicPerform, hview, hwaits, hr.phase, hr.runs, hr.held, List.findSome?_cons, hact, hr.links]
  rfl

/-- The performed atomic: its lanes in turn, then its group. -/
theorem atomPerform_eq (core : Nat) : s.atomPerform c ts h isCmp op typ dst parts rel core =
    let r := (s.drainAtom core parts rel).atomLanes c ts h.pc h.lanes isCmp op typ parts
    r.1.onGroup c.1 c.2.1 (Group.afterAtom c.2.2 ts h dst (r.2.1.map fun e => (e.1, scalarReg typ e.2)) r.2.2 (s.clk + 1) s.clk) := rfl

/-- Where ATOMIC_PERFORM ends, by the state `p`, the old values and the flags that the lanes leave, and the team there. -/
structure AtomEnds (s : State) (c : Cur) (g : Group) (ts : TSet) (h : Held) (typ : Typ) (dst : Opd)
    (p : State) (vals : List (Nat × Nat)) (fl : Flags) (u : Team) (s1 : State) (t1 : Team) (g1 : Group) (ts1 : TSet) : Prop where
  exec : exec (.atomicPerform c.1 c.2.1 c.2.2) s = .next s1
  view : s1.view c = some (t1, g1, ts1)
  state : s1 = p.onGroup c.1 c.2.1 (Group.afterAtom c.2.2 ts h dst (vals.map fun e => (e.1, scalarReg typ e.2)) fl (s.clk + 1) s.clk)
  team : { t1 with groups := u.groups } = u
  group : g1 = Group.afterAtom c.2.2 ts h dst (vals.map fun e => (e.1, scalarReg typ e.2)) fl (s.clk + 1) s.clk g
  set : ts1 = (ts.put dst (vals.map fun e => (e.1, scalarReg typ e.2))).afterAtom h s.clk

/-- ATOMIC_PERFORM completes: its group and its set stand as `Group.afterAtom` and `TSet.afterAtom` say. -/
theorem atomicPerform_ends (hr : AtomicReady s c t g ts h typ parts) (hact : h.act = .atom isRed isCmp op typ dst parts rel)
    {p : State} {vals : List (Nat × Nat)} {fl : Flags}
    (hlanes : (s.atomFrom t g h parts rel).atomLanes c ts h.pc h.lanes isCmp op typ parts = (p, vals, fl)) {u : Team}
    (hu : p.team? c.1 = some u) : ∃ s1 t1 g1 ts1, AtomEnds s c g ts h typ dst p vals fl u s1 t1 g1 ts1 := by
  obtain ⟨ht, hg, hts⟩ := view_team hr.view
  have hgroups : Keeps Team.groups s p := by
    have hl := atomLanes_keepsGroups (c := c) (ts := ts) (h := h) (isCmp := isCmp) (op := op) (typ := typ) (parts := parts)
      (s := s.atomFrom t g h parts rel)
    rw [hlanes] at hl
    exact ((drainAtom_keeps _ _ _ _).comp Team.groups).trans hl
  obtain ⟨y, hy, hyg⟩ := hgroups.team ht
  cases hy.symm.trans hu
  have hgu : u.group? c.2.1 = some g := by rw [Team.group?, hyg]; exact hg
  let fin := Group.afterAtom c.2.2 ts h dst (vals.map fun e => (e.1, scalarReg typ e.2)) fl (s.clk + 1) s.clk
  have hexec := exec_atomicPerform hr hact
  rw [atomPerform_eq] at hexec
  unfold State.atomFrom at hlanes
  simp only [hlanes] at hexec
  have hteam : (p.onGroup c.1 c.2.1 fin).team? c.1 = some (u.mapGroup c.2.1 fin) := team?_onGroup fin hu
  have hgroup : (u.mapGroup c.2.1 fin).group? c.2.1 = some (fin g) := group?_mapGroup hgu fun _ => afterAtom_index
  have hset : (fin g).tset? c.2.2 = some ((ts.put dst (vals.map fun e => (e.1, scalarReg typ e.2))).afterAtom h s.clk) :=
    afterAtom_tset? hts
  refine ⟨_, u.mapGroup c.2.1 fin, fin g, _, hexec, ?_, rfl, rfl, rfl, rfl⟩
  show (p.onGroup c.1 c.2.1 fin).view c = _
  simp only [State.view, hteam, hgroup, hset]

end

end Sys2Proof.Machine
end

section
/-!
PROOFS. Committed atomics (O20), the lanes' parts run as R217 says: integer atomics in memory and in scratch, and the parts that find
their place without its key or its data.
-/
namespace Sys2Proof.Machine

section
variable {c : Cur} {ts : TSet} {h : Held} {isCmp : Bool} {op : Nat} {typ : Typ}

/-! ### Integer atomics in memory -/

theorem atomRun_cons {m : Memory} {p : AtomLane} {ps : List AtomLane} {pa : Nat} (hp : p.loc = .mem pa) :
    let old := leNat (readBytes m pa (tyBytes typ))
    let r := atomRun isCmp typ op (writeBytes m pa (leBytes (tyBytes typ) (atomStored isCmp typ op old p.b p.c))) ps
    atomRun isCmp typ op m (p :: ps) = (r.1, (p.lane, old) :: r.2) := by
  simp only [atomRun, hp]

theorem atomRun_lanes (m : Memory) (parts : List AtomLane) :
    (atomRun isCmp typ op m parts).2.map (·.1) = parts.map (·.lane) := by
  induction parts generalizing m with
  | nil => rfl
  | cons p ps ih => exact congrArg (List.cons p.lane) (ih _)

/-- A part of memory that can be performed: its key is there, its bytes are not lost, and it lies outside the hot ring. -/
structure PartReady (s : State) (typ : Typ) (p : AtomLane) (pa : Nat) : Prop where
  loc : p.loc = .mem pa
  key : s.fw.keySlots.getLsbD (paKey pa) = true
  good : s.locBad (.mem pa) (tyBytes typ) = false
  cold : ∀ a, Inside pa (tyBytes typ) a → ¬Inside s.ring 32768 a

theorem PartReady.noFault {s : State} {p : AtomLane} {pa : Nat} (hp : PartReady s typ p pa) :
    s.atomFault (tyBytes typ) p = none := by
  simp [State.atomFault, hp.loc, hp.key, hp.good]

/-- Memories that agree off the hot ring read the same there. -/
def AgreeOff (ring : Nat) (m m1 : Memory) : Prop := ∀ a, ¬Inside ring 32768 a → readByte m a = readByte m1 a

theorem AgreeOff.readBytes {ring pa n : Nat} {m m1 : Memory} (hm : AgreeOff ring m m1)
    (hcold : ∀ a, Inside pa n a → ¬Inside ring 32768 a) : readBytes m pa n = readBytes m1 pa n := by
  refine List.map_congr_left fun k hk => hm _ (hcold _ ?_)
  have hk := List.mem_range.1 hk
  unfold Inside
  omega

theorem AgreeOff.writeBytes {ring : Nat} {m m1 : Memory} (hm : AgreeOff ring m m1) (pa : Nat) (bs : List Byte) :
    AgreeOff ring (writeBytes m pa bs) (writeBytes m1 pa bs) := fun a ha => by
  rw [readByte_writeBytes, readByte_writeBytes, hm a ha]

/-- What a part of memory leaves ready. -/
theorem PartReady.after {s : State} {p q : AtomLane} {pa pb : Nat} (hq : PartReady s typ q pb) (hp : p.loc = .mem pa) :
    PartReady (s.atomLane c ts isCmp op typ p.lane p).1 typ q pb := by
  have hw := atomLane_mem_writes (c := c) (ts := ts) (isCmp := isCmp) (op := op) (typ := typ) (s := s) hp
  have hl : NoneLost s (s.atomLane c ts isCmp op typ p.lane p).1 := by
    rw [atomLane_mem hp]
    have h1 := (countLines_noneLost s pa (tyBytes typ)).trans (poke_noneLost _ pa
      (leBytes (tyBytes typ) (atomNew isCmp op typ (leNat (readBytes s.mem pa (tyBytes typ))) p).1))
    exact ⟨h1.bytes, h1.links, h1.pkg⟩
  exact ⟨hq.loc, by rw [hw.fw]; exact hq.key, hl.locBad hq.good, fun a ha => by rw [hw.ring]; exact hq.cold a ha⟩

/-- An integer atomic in memory, one lane: its old value, and memory after its store. -/
theorem atomLane_integer (htyp : typ ∈ atomTypes) (hop : op ≤ 8) {s : State} {p : AtomLane} {pa : Nat} (hp : PartReady s typ p pa)
    {m : Memory} (hm : AgreeOff s.ring s.mem m) :
    let old := leNat (readBytes m pa (tyBytes typ))
    let r := s.atomLane c ts isCmp op typ p.lane p
    r.2 = (old, 0) ∧ AgreeOff r.1.ring r.1.mem (writeBytes m pa (leBytes (tyBytes typ) (atomStored isCmp typ op old p.b p.c))) := by
  have hold : leNat (readBytes m pa (tyBytes typ)) < 2 ^ tyWidth typ := by
    rw [← tyBytes_of_atomType htyp]
    simpa using leNat_lt (readBytes m pa (tyBytes typ))
  have hcount : AgreeOff s.ring (s.countLines pa (tyBytes typ)).mem m := fun a ha =>
    ((countLines_writes s pa (tyBytes typ)).mem a ha).trans (hm a ha)
  intro old r
  have hring : r.1.ring = s.ring := (atomLane_mem_writes hp.loc).ring
  rw [hring]
  unfold r
  rw [atomLane_mem hp.loc, hm.readBytes hp.cold, atomNew_integer htyp hop hold]
  exact ⟨rfl, hcount.writeBytes _ _⟩

/-- Integer atomics in memory leave what `atomRun` says, off the hot ring, and give each lane's old value without flags. -/
theorem atomSteps_integer (htyp : typ ∈ atomTypes) (hop : op ≤ 8) (parts : List AtomLane) (acc : AtomAcc)
    (hparts : ∀ p ∈ parts, ∃ pa, PartReady acc.1 typ p pa) {m : Memory} (hm : AgreeOff acc.1.ring acc.1.mem m) :
    let q := parts.foldl (atomStep c ts h isCmp op typ) acc
    q.2 = (acc.2.1 ++ (atomRun isCmp typ op m parts).2, acc.2.2) ∧ AgreeOff acc.1.ring q.1.mem (atomRun isCmp typ op m parts).1 := by
  induction parts generalizing acc m with
  | nil => exact ⟨by simp [atomRun], hm⟩
  | cons p ps ih =>
    obtain ⟨pa, hp⟩ := hparts p List.mem_cons_self
    obtain ⟨hvals, hmem⟩ := atomLane_integer (c := c) (ts := ts) (isCmp := isCmp) htyp hop hp hm
    have hring := (atomLane_mem_writes (c := c) (ts := ts) (isCmp := isCmp) (op := op) (typ := typ) (s := acc.1) hp.loc).ring
    have hrest : ∀ q ∈ ps, ∃ pb, PartReady (atomStep c ts h isCmp op typ acc p).1 typ q pb := fun q hq => by
      obtain ⟨pb, hb⟩ := hparts q (List.mem_cons_of_mem _ hq)
      rw [atomStep_go hp.noFault]
      exact ⟨pb, hb.after hp.loc⟩
    have ih := ih (atomStep c ts h isCmp op typ acc p) hrest (by rw [atomStep_go hp.noFault]; exact hmem)
    simp only [atomStep_go hp.noFault, hvals, hring] at ih
    simp only [List.foldl_cons, atomRun_cons hp.loc, atomStep_go hp.noFault, hvals]
    exact ⟨ih.1.trans (by simp), ih.2⟩

/-! ### Integer atomics in scratch -/

theorem atomRunScr_cons {t : Team} {p : AtomLane} {ps : List AtomLane} {id off : Nat} (hp : p.loc = .scr id off) :
    let old := leNat (t.scrRead off (tyBytes typ))
    let r := atomRunScr isCmp typ op (t.scrWrite off (leBytes (tyBytes typ) (atomStored isCmp typ op old p.b p.c))) ps
    atomRunScr isCmp typ op t (p :: ps) = (r.1, (p.lane, old) :: r.2) := by
  simp only [atomRunScr, hp]

theorem atomRunScr_lanes (t : Team) (parts : List AtomLane) :
    (atomRunScr isCmp typ op t parts).2.map (·.1) = parts.map (·.lane) := by
  induction parts generalizing t with
  | nil => rfl
  | cons p ps ih => exact congrArg (List.cons p.lane) (ih _)

/-- A part in the scratch of a team that has lost no byte finds its place. -/
theorem atomFault_scr {s : State} {p : AtomLane} {id off : Nat} {u : Team} (hp : p.loc = .scr id off) (hu : s.team? id = some u)
    (hbad : u.bad = []) (n : Nat) : s.atomFault n p = none := by
  simp [State.atomFault, State.locBad, hp, hu, hbad]

/-- Integer atomics in scratch leave what `atomRunScr` says there, and give each lane's old value without flags. -/
theorem atomSteps_scratch (htyp : typ ∈ atomTypes) (hop : op ≤ 8) (parts : List AtomLane) (acc : AtomAcc)
    (hparts : ∀ p ∈ parts, ∃ off, p.loc = .scr c.1 off) {t u : Team} (hu : acc.1.team? c.1 = some u)
    (hut : u.uncharged = t.uncharged) (hbad : t.bad = []) :
    let q := parts.foldl (atomStep c ts h isCmp op typ) acc
    q.2 = (acc.2.1 ++ (atomRunScr isCmp typ op t parts).2, acc.2.2) ∧ q.1.mem = acc.1.mem ∧
      ∃ u1, q.1.team? c.1 = some u1 ∧ u1.uncharged = (atomRunScr isCmp typ op t parts).1.uncharged := by
  induction parts generalizing acc t u with
  | nil => exact ⟨by simp [atomRunScr], rfl, u, hu, hut⟩
  | cons p ps ih =>
    obtain ⟨off, hp⟩ := hparts p List.mem_cons_self
    have hread : u.scrRead off (tyBytes typ) = t.scrRead off (tyBytes typ) :=
      (congrArg (fun x : Team => x.scrRead off (tyBytes typ)) hut :)
    have hubad : u.bad = [] := (congrArg Team.bad hut :).trans hbad
    have hold : leNat (t.scrRead off (tyBytes typ)) < 2 ^ tyWidth typ := by
      rw [← tyBytes_of_atomType htyp]
      simpa [Team.scrRead] using leNat_lt (t.scrRead off (tyBytes typ))
    let new := leBytes (tyBytes typ) (atomStored isCmp typ op (leNat (t.scrRead off (tyBytes typ))) p.b p.c)
    have hlane := atomLane_scr (c := c) (ts := ts) (isCmp := isCmp) (op := op) (typ := typ) hp hu
    rw [hread, atomNew_integer htyp hop hold] at hlane
    have hstep := atomStep_go (c := c) (ts := ts) (h := h) (isCmp := isCmp) (op := op)
      (atomFault_scr hp hu hubad (tyBytes typ))
    rw [hlane] at hstep
    have hid : (u.scrWrite off new).id = c.1 := (id_scrWrite ..).trans (id_of_team? hu)
    have hteam : (atomStep c ts h isCmp op typ acc p).1.team? c.1 = some (u.scrWrite off new) := by
      have hset := team?_setTeam (s := acc.1) (t := u) (t1 := u.scrWrite off new) (by rw [hid]; exact hu)
      rw [hid] at hset
      rw [hstep, State.team?, noteScr_teams]
      exact hset
    have ih := ih (atomStep c ts h isCmp op typ acc p) (fun q hq => hparts q (List.mem_cons_of_mem _ hq))
      (t := t.scrWrite off new) hteam (by rw [uncharged_scrWrite, uncharged_scrWrite, hut]) (bad_scrWrite hbad ..)
    obtain ⟨hvals, hmem, hends⟩ := ih
    simp only [List.foldl_cons, atomRunScr_cons hp]
    refine ⟨hvals.trans ?_, hmem.trans ?_, hends⟩
    · rw [hstep]
      simp [new]
    · rw [hstep]
      exact noteScr_mem ..

end

end Sys2Proof.Machine
end

section
/-!
PROOFS. Committed atomics (O20), the four parts of the statement: every atomic completes, integer atomics in memory, parts whose key or
data is lost, and integer atomics in scratch.
-/
namespace Sys2Proof.Machine

section
variable {s : State} {c : Cur} {t : Team} {g : Group} {ts : TSet} {h : Held} {isRed isCmp rel : Bool} {op : Nat} {typ : Typ} {dst : Opd}
  {parts : List AtomLane} {p : State} {vals : List (Nat × Nat)} {fl : Flags} {u : Team} {s1 : State} {t1 : Team} {g1 : Group} {ts1 : TSet}

/-! ### Where ATOMIC_PERFORM ends -/

theorem AtomEnds.mem (he : AtomEnds s c g ts h typ dst p vals fl u s1 t1 g1 ts1) : s1.mem = p.mem := by rw [he.state]; rfl

theorem AtomEnds.scr (he : AtomEnds s c g ts h typ dst p vals fl u s1 t1 g1 ts1) : t1.scr = u.scr := (congrArg Team.scr he.team :)

theorem AtomEnds.scrByte (he : AtomEnds s c g ts h typ dst p vals fl u s1 t1 g1 ts1) (a : Nat) : t1.scrByte a = u.scrByte a :=
  (congrArg (fun x : Team => x.scrByte a) he.team :)

theorem AtomEnds.pend (he : AtomEnds s c g ts h typ dst p vals fl u s1 t1 g1 ts1) : t1.pend = u.pend := (congrArg Team.pend he.team :)

/-- A vector destination holds each lane's value. -/
theorem AtomEnds.lane {n : BitVec 18} (he : AtomEnds s c g ts h typ (.v n) p vals fl u s1 t1 g1 ts1)
    (hd : (vals.map (·.1)).Nodup) {e : Nat × Nat} (hmem : e ∈ vals) :
    aget marker g1.v (laneKey n.toNat e.1) = scalarReg typ e.2 := by
  rw [he.group, afterAtom_v]
  refine aget_putLanes_same n.toNat (vals.map fun e => (e.1, scalarReg typ e.2)) g.v ?_ (List.mem_map_of_mem hmem)
  rwa [List.map_map]

/-- No value, no change of a vector destination. -/
theorem AtomEnds.noLane {n : BitVec 18} (he : AtomEnds s c g ts h typ (.v n) p [] fl u s1 t1 g1 ts1) : g1.v = g.v := by
  rw [he.group, afterAtom_v]
  rfl

theorem AtomEnds.flags (he : AtomEnds s c g ts h typ dst p vals 0 u s1 t1 g1 ts1) : g1.fflg = (ts.flWrite.getD g.fflg) ||| ts.fl := by
  rw [he.group, afterAtom_fflg]
  simp

/-! ### Every atomic completes -/

/-- The groups that the lanes of an atomic leave are those from which it began. -/
theorem atomFrom_keepsGroups :
    Keeps Team.groups s ((s.atomFrom t g h parts rel).atomLanes c ts h.pc h.lanes isCmp op typ parts).1 :=
  ((drainAtom_keeps _ _ _ _).comp Team.groups).trans atomLanes_keepsGroups

theorem atomicPerform_completes (hr : AtomicReady s c t g ts h typ parts) (hact : h.act = .atom isRed isCmp op typ dst parts rel) :
    ∃ s1 t1 g1 ts1, exec (.atomicPerform c.1 c.2.1 c.2.2) s = .next s1 ∧ s1.view c = some (t1, g1, ts1) ∧
      ts1.phase = .ready ∧ ts1.held = [] ∧ ts1.pc = ts.pc ∧ ts1.lanes = ts.lanes ∧
      { g1 with v := g.v, g := g.g, tsets := g.tsets, fflg := g.fflg, flRuns := g.flRuns, tHist := g.tHist } = g ∧
      (∀ k, (∀ n p, dst = .v n → p ∈ parts → k ≠ laneKey n.toNat p.lane) → aget marker g1.v k = aget marker g.v k) ∧
      (∀ k, (∀ n, dst = .g n → k ≠ n.toNat) → aget marker g1.g k = aget marker g.g k) ∧
      (∀ d : Cur, (d.1 ≠ c.1 ∨ d.2.1 ≠ c.2.1) → (s1.view d).map (fun x => x.2) = (s.view d).map fun x => x.2) ∧
      (∀ a, (∀ p ∈ parts, ∀ pa, p.loc = .mem pa → ¬Inside pa (tyBytes typ) a) → ¬hotRing s a →
        readByte s1.mem a = readByte (s.atomFrom t g h parts rel).mem a) ∧
      ((∀ p ∈ parts, ∀ id off, p.loc ≠ .scr id off) → t1.scr = t.scr) := by
  obtain ⟨ht, -, -⟩ := view_team hr.view
  have hgroups := atomFrom_keepsGroups (s := s) (c := c) (t := t) (g := g) (ts := ts) (h := h) (isCmp := isCmp) (op := op) (typ := typ)
    (parts := parts) (rel := rel)
  obtain ⟨u, hu, -⟩ := hgroups.team ht
  obtain ⟨s1, t1, g1, ts1, he⟩ := atomicPerform_ends hr hact rfl hu
  obtain ⟨hphase, hheld, hpc, hlanes⟩ := afterAtom_goesOn hr.held dst _ s.clk
  rw [← he.set] at hphase hheld hpc hlanes
  refine ⟨s1, t1, g1, ts1, he.exec, he.view, hphase, hheld, hpc, hlanes, ?_, fun k hk => ?_, fun k hk => ?_, fun d hd => ?_,
    fun a hout hcold => ?_, fun hmem => ?_⟩
  · rw [he.group]
    exact afterAtom_rest
  · rw [he.group, afterAtom_v]
    refine aget_putV_other fun n hn e hmem => ?_
    obtain ⟨x, hx, rfl⟩ := List.mem_map.1 hmem
    obtain ⟨p, hp, hlane⟩ := atomLanes_vals x hx
    exact hlane ▸ hk n p hn hp
  · rw [he.group, afterAtom_g]
    exact aget_putG_other hk
  · rw [he.state]
    exact (view_onGroup_other (fun _ => afterAtom_index) hd).trans (hgroups.view_snd d)
  · rw [he.mem]
    refine atomLanes_writes.mem a ?_
    rintro (⟨p, hp, pa, hpa, hin⟩ | hin)
    · exact hout p hp pa hpa hin
    · rw [State.atomFrom, drainAtom_ring] at hin
      exact hcold hin
  · obtain ⟨y, hy, hyt⟩ := ((drainAtom_keeps _ _ _ _).trans (atomLanes_keepsTeams hmem)).team ht
    cases hy.symm.trans hu
    exact he.scr.trans (congrArg Team.scr hyt :)

/-! ### Integer atomics -/

/-- Integer atomics on memory that is there, lane after lane. -/
theorem atomicPerform_integer {n : BitVec 18} (hr : AtomicReady s c t g ts h typ parts) (htyp : typ ∈ atomTypes) (hop : op ≤ 8)
    (hact : h.act = .atom isRed isCmp op typ (.v n) parts rel) (hd : (parts.map fun p => p.lane).Nodup)
    (hparts : ∀ p ∈ parts, ∃ pa, p.loc = .mem pa ∧ (s.atomFrom t g h parts rel).fw.keySlots.getLsbD (paKey pa) = true ∧
      (s.atomFrom t g h parts rel).locBad (.mem pa) (tyBytes typ) = false ∧ ∀ a, Inside pa (tyBytes typ) a → ¬hotRing s a) :
    let r := atomRun isCmp typ op (s.atomFrom t g h parts rel).mem parts
    ∃ s1 t1 g1 ts1, exec (.atomicPerform c.1 c.2.1 c.2.2) s = .next s1 ∧ s1.view c = some (t1, g1, ts1) ∧
      (∀ a, ¬hotRing s a → readByte s1.mem a = readByte r.1 a) ∧
      (∀ e ∈ r.2, aget marker g1.v (laneKey n.toNat e.1) = scalarReg typ e.2) ∧
      g1.fflg = (ts.flWrite.getD g.fflg) ||| ts.fl := by
  intro r
  have hring : (s.atomFrom t g h parts rel).ring = s.ring := drainAtom_ring ..
  have hready : ∀ p ∈ parts, ∃ pa, PartReady (s.atomFrom t g h parts rel) typ p pa := fun p hp => by
    obtain ⟨pa, hloc, hkey, hgood, hcold⟩ := hparts p hp
    exact ⟨pa, hloc, hkey, hgood, fun a ha => by rw [hring]; exact hcold a ha⟩
  obtain ⟨hvals, hmem⟩ := atomSteps_integer (c := c) (ts := ts) (h := h) (isCmp := isCmp) htyp hop parts
    (s.atomFrom t g h parts rel, [], 0) hready (m := (s.atomFrom t g h parts rel).mem) fun _ _ => rfl
  rw [← atomLanes_eq] at hvals hmem
  obtain ⟨ht, -, -⟩ := view_team hr.view
  obtain ⟨u, hu, -⟩ := (atomFrom_keepsGroups (ts := ts) (isCmp := isCmp) (op := op) (typ := typ)).team ht
  have hlanes : (s.atomFrom t g h parts rel).atomLanes c ts h.pc h.lanes isCmp op typ parts =
      (((s.atomFrom t g h parts rel).atomLanes c ts h.pc h.lanes isCmp op typ parts).1, r.2, 0) := Prod.ext rfl hvals
  obtain ⟨s1, t1, g1, ts1, he⟩ := atomicPerform_ends hr hact hlanes hu
  refine ⟨s1, t1, g1, ts1, he.exec, he.view, fun a hcold => ?_, fun e hmem => he.lane ?_ hmem, he.flags⟩
  · rw [he.mem]
    exact hmem a (by rw [hring]; exact hcold)
  · rwa [atomRun_lanes]

/-- Integer atomics on their team's scratch, lane after lane. -/
theorem atomicPerform_scratch {n : BitVec 18} (hr : AtomicReady s c t g ts h typ parts) (htyp : typ ∈ atomTypes) (hop : op ≤ 8)
    (hact : h.act = .atom isRed isCmp op typ (.v n) parts rel) (hd : (parts.map fun p => p.lane).Nodup)
    (hparts : ∀ p ∈ parts, ∃ off, p.loc = .scr c.1 off) (hbad : t.bad = []) :
    let r := atomRunScr isCmp typ op t parts
    ∃ s1 t1 g1 ts1, exec (.atomicPerform c.1 c.2.1 c.2.2) s = .next s1 ∧ s1.view c = some (t1, g1, ts1) ∧
      (∀ a, t1.scrByte a = r.1.scrByte a) ∧
      (∀ e ∈ r.2, aget marker g1.v (laneKey n.toNat e.1) = scalarReg typ e.2) ∧ s1.mem = (s.atomFrom t g h parts rel).mem := by
  intro r
  obtain ⟨ht, -, -⟩ := view_team hr.view
  obtain ⟨t0, ht0, hsame⟩ := (drainAtom_keeps s (t.coreNo (s.tcore t g.index)) parts (g.releases h rel)).team ht
  obtain ⟨hvals, hmem, u, hu, hur⟩ := atomSteps_scratch (c := c) (ts := ts) (h := h) (isCmp := isCmp) htyp hop parts
    (s.atomFrom t g h parts rel, [], 0) hparts ht0 hsame hbad
  rw [← atomLanes_eq] at hvals hmem hu
  have hlanes : (s.atomFrom t g h parts rel).atomLanes c ts h.pc h.lanes isCmp op typ parts =
      (((s.atomFrom t g h parts rel).atomLanes c ts h.pc h.lanes isCmp op typ parts).1, r.2, 0) := Prod.ext rfl hvals
  obtain ⟨s1, t1, g1, ts1, he⟩ := atomicPerform_ends hr hact hlanes hu
  refine ⟨s1, t1, g1, ts1, he.exec, he.view, fun a => (he.scrByte a).trans ?_, fun e hmem => he.lane ?_ hmem, he.mem.trans hmem⟩
  · exact (congrArg (fun x : Team => x.scrByte a) hur :)
  · rwa [atomRunScr_lanes]

/-! ### A part that cannot be performed -/

/-- A lone part that cannot be performed is charged to its set, and changes neither memory nor the destination. -/
theorem atomicPerform_charged {n : BitVec 18} {x : AtomLane} (hr : AtomicReady s c t g ts h typ [x])
    (hact : h.act = .atom isRed isCmp op typ (.v n) [x] rel) {t0 : Team} (ht0 : (s.atomFrom t g h [x] rel).team? c.1 = some t0)
    {e : FInfo} (hfault : (s.atomFrom t g h [x] rel).atomFault (tyBytes typ) x = some e) :
    ∃ s1 t1 g1 ts1, exec (.atomicPerform c.1 c.2.1 c.2.2) s = .next s1 ∧ s1.view c = some (t1, g1, ts1) ∧
      s1.mem = (s.atomFrom t g h [x] rel).mem ∧ g1.v = g.v ∧ t1.pend = t0.pend ++ [⟨c.2.1, h.lanes, h.pc, e⟩] := by
  have hlanes : (s.atomFrom t g h [x] rel).atomLanes c ts h.pc h.lanes isCmp op typ [x] =
      ((s.atomFrom t g h [x] rel).charge c.1 c.2.1 h.lanes h.pc e, [], 0) := by
    rw [atomLanes_eq, List.foldl_cons, List.foldl_nil]
    exact atomStep_fault (acc := (s.atomFrom t g h [x] rel, [], 0)) hfault
  have hu : ((s.atomFrom t g h [x] rel).charge c.1 c.2.1 h.lanes h.pc e).team? c.1 =
      some { t0 with pend := t0.pend ++ [⟨c.2.1, h.lanes, h.pc, e⟩] } := team?_onTeam ht0 fun _ => rfl
  obtain ⟨s1, t1, g1, ts1, he⟩ := atomicPerform_ends hr hact hlanes hu
  exact ⟨s1, t1, g1, ts1, he.exec, he.view, he.mem, he.noLane, he.pend⟩

theorem atomFault_noKey {x : AtomLane} {pa k : Nat} (hx : x.loc = .mem pa) (hkey : s.fw.keySlots.getLsbD (paKey pa) = false) :
    s.atomFault k x = some { code := 7, lane := x.lane, addr := x.va } := by
  simp [State.atomFault, hx, hkey]

theorem atomFault_lost {x : AtomLane} {pa k : Nat} (hx : x.loc = .mem pa) (hkey : s.fw.keySlots.getLsbD (paKey pa) = true)
    (hbad : s.locBad (.mem pa) k = true) : s.atomFault k x = some { code := 8, lane := x.lane, addr := x.va } := by
  simp [State.atomFault, hx, hkey, hbad]

end

/-- Settles O20: the lanes' parts by induction on their list (`atomSteps_integer`, `atomSteps_scratch`), the group and the set by
`AtomEnds`. -/
theorem atomicPerformReadsAndWrites : Obligations.AtomicPerformReadsAndWrites := by
  refine ⟨?_, ?_, ?_, ?_⟩
  · intro s c t g ts h isRed isCmp op typ dst parts rel hr hact
    exact atomicPerform_completes hr hact
  · intro s c t g ts h isRed isCmp op typ n parts rel hr htyp hop hact hd s0 hparts
    exact atomicPerform_integer hr htyp hop hact hd hparts
  · intro s c t g ts h isRed isCmp op typ n lane pa va b cc rel t0 hr hact s0 ht0
    exact ⟨fun hkey => atomicPerform_charged hr hact ht0 (atomFault_noKey rfl hkey),
      fun hkey hbad => atomicPerform_charged hr hact ht0 (atomFault_lost rfl hkey hbad)⟩
  · intro s c t g ts h isRed isCmp op typ n parts rel hr htyp hop hact hd hparts hbad
    exact atomicPerform_scratch hr htyp hop hact hd hparts hbad

end Sys2Proof.Machine
end
